-- ==== Sys2Proof/Word.lean ====
section
/-! DEFINITION. The word types of the QX-672: registers are 32 bits wide (R7), memory words carry 64
data bits (R130, R349), memory is addressed by the byte. -/
namespace Sys2Proof

/-- A byte of memory or of a message. -/
abbrev Byte := BitVec 8
/-- A register, and an FP32 value (R7, R79). -/
abbrev Word := BitVec 32
/-- The data bits of a memory word (R130). -/
abbrev DWord := BitVec 64

end Sys2Proof
end

