-- ==== Sys2Proof/Machine/Bits.lean ====
section
/-! DEFINITION. Bit fields of numbers and words, and byte order. -/
namespace Sys2Proof.Machine
open Sys2Proof

/-- Field of `w` bits from bit `lo`. -/
def fld (v lo w : Nat) : Nat := v / 2 ^ lo % 2 ^ w

/-- The same as a signed number, two's complement. -/
def sfld (v lo w : Nat) : Int :=
  let u := fld v lo w
  if u < 2 ^ (w - 1) then (u : Int) else (u : Int) - (2 ^ w : Nat)

/-- Bit `i`. -/
def tb (v i : Nat) : Bool := v / 2 ^ i % 2 == 1

/-- A Bool as a number. -/
def b2n (b : Bool) : Nat := if b then 1 else 0

/-- A word from a number. -/
def w32 (n : Nat) : Word := BitVec.ofNat 32 n

/-- A 64-bit word from a number. -/
def w64 (n : Nat) : DWord := BitVec.ofNat 64 n

/-- Set bits among the lowest `n`. -/
def popTo : Nat → Nat → Nat
  | 0, _ => 0
  | n + 1, v => v % 2 + popTo n (v / 2)

/-- Set bits of a 64-bit word. -/
def pop64 (v : DWord) : Nat := popTo 64 v.toNat

/-- Ceiling of a division. -/
def cdiv (a b : Nat) : Nat := (a + b - 1) / b

/-- The byte mask of a word as a 64-bit mask: bytes `lo` to `lo + n - 1`. -/
def byteMask (lo n : Nat) : DWord := w64 ((2 ^ (8 * n) - 1) * 2 ^ (8 * lo))

/-- The bytes of a number, least significant first. -/
def leBytes : Nat → Nat → List Byte
  | 0, _ => []
  | n + 1, v => BitVec.ofNat 8 v :: leBytes n (v / 256)

/-- A number as `n` big-endian bytes. -/
def beBytes (n v : Nat) : List Byte := (leBytes n v).reverse

/-- The number little-endian bytes spell. -/
def leNat : List Byte → Nat
  | [] => 0
  | b :: l => b.toNat + 256 * leNat l

/-- The number big-endian bytes spell. -/
def beNat (l : List Byte) : Nat := leNat l.reverse

/-- Numbers `lo` to `lo + n - 1`. -/
def upFrom : Nat → Nat → List Nat
  | _, 0 => []
  | lo, n + 1 => lo :: upFrom (lo + 1) n

/-- The list in pieces of `n`; the fuel is at least the number of pieces. -/
def chunksOf {α : Type} (n : Nat) : Nat → List α → List (List α)
  | 0, _ => []
  | _, [] => []
  | f + 1, l => l.take n :: chunksOf n f (l.drop n)

/-- Saturating addition. -/
def satAdd (max a n : Nat) : Nat := if max < a + n then max else a + n

/-- Bits of a list of Bools, the first lowest. -/
def bitsNat : List Bool → Nat
  | [] => 0
  | b :: l => b2n b + 2 * bitsNat l

/-- A power of two that fields are placed at, summed. -/
def fields : List (Nat × Nat) → Nat
  | [] => 0
  | (lo, v) :: l => v * 2 ^ lo + fields l

end Sys2Proof.Machine
end

