-- ==== Sys2Proof/Config.lean ====
section
/-! DEFINITION. What the spec leaves open: constants with no body, so that no proof can see a value
(free values), and constants of one part. Each is named in a row of notes/assumptions. -/
namespace Sys2Proof

/-- The vector operations whose result the spec gives only within an error bound (R215 to R217). -/
inductive ApproxFn where
  | exp2 | log2 | rcp | rsqrt | gelu | geluT | silu | sigmoid | tanh | softplus | exp | dsoftplus
  deriving DecidableEq, Repr

/-- FREE (log 9). Which of the words within the error bound an approximated operation gives for an operand; one value per
operand, the same in every lane and core (R214). -/
opaque Config.approx : ApproxFn → Word → Word

/-- FREE (log 6). What the check code returns for a stored word with more than three bit errors
(R130 states it for at most three): some data, or `none` for uncorrectable. -/
opaque Config.eccBeyond (data eData : DWord) (eChk : BitVec 15) : Option DWord

/-- FREE (log 13). The n-th free value of 64 bits. -/
opaque Config.freeValue : Nat → DWord

/-- FREE (log 11). SHAKE256 of a byte string, as the given number of output bytes (R462, R471). -/
opaque Config.shake256 (msg : List Byte) (bytes : Nat) : List Byte
/-- FREE (log 11). FIPS 205 SLH-DSA-SHAKE-192s pure verification (R462, R478). -/
opaque Config.slhVerify (pk msg sig : List Byte) : Bool
/-- FREE (log 11). FIPS 205 SLH-DSA-SHAKE-128f signing with the identity key of the seed material,
17,088 bytes (R471). -/
opaque Config.slhSign (key msg : List Byte) : List Byte
/-- FREE (log 11). PK.root of the identity key (R471). -/
opaque Config.slhRoot (key : List Byte) : List Byte

/-- The identity seed of the part, burnt at manufacture, never readable (R454). -/
opaque Config.seed : List Byte
/-- The analogue trim fuses of the part, not visible to hosts (R454). -/
opaque Config.trim : BitVec 1024
/-- FREE (log 12). BLK_REV of a register page, by page number (R10 gives it per block). -/
opaque Config.blkRev : Nat → Byte

/-- Cores of the part (R20). -/
def Config.cores : Nat := 672
/-- Pods of the part (R20). -/
def Config.pods : Nat := 84
/-- Partitions (R428). -/
def Config.parts : Nat := 12

end Sys2Proof
end

