-- ==== Sys2Proof/Units.lean ====
section
/-! DEFINITION. The operands of the commands: ports, writers, streams, messages of the device transport,
Harness requesters, what stands in the serial flash. -/
namespace Sys2Proof

/-- The two host ports (R418). -/
inductive Port where | A | B
  deriving DecidableEq, Repr

/-- 0 for A, 1 for B (R14). -/
def Port.toNat : Port → Nat
  | .A => 0
  | .B => 1

/-- Who writes a register: a host port (R420), a boot record (R466) or JTAG debug access (R476). -/
inductive Writer where | host (p : Port) | record | jtag
  deriving DecidableEq, Repr

/-- The two streams of a core (R145): execute and access. -/
inductive StreamId where | X | A
  deriving DecidableEq, Repr

/-- A word with its poison bit as it travels (R305). -/
structure PWord where
  data : DWord := 0
  poison : Bool := false
  deriving DecidableEq, Repr

/-- A transient disturbance of one word of a vault access: the bits that a read sees inverted, for
the first `reads` of its up to three reads (R350). -/
structure Noise where
  word : Nat
  eData : DWord
  eChk : BitVec 15
  reads : Nat
  deriving DecidableEq, Repr

/-- What happens to a packet in the buffers of the routers it passes (R331): the router that finds its header
uncorrectable, those that correct a payload word, and those that find one uncorrectable, with the word's place in the
payload. -/
structure Upset where
  lost : Option Nat := none
  ces : List Nat := []
  ues : List (Nat × Nat) := []
  deriving DecidableEq, Repr

/-- Who walks a page table: the walker of a core or of a port (R423, R436). -/
inductive Walker where | core (n : Nat) | port (p : Port)
  deriving DecidableEq, Repr

/-- A transport message (R382, R383) of version 1, its payload in words of 8 B. -/
structure Msg where
  ty : BitVec 4
  mark : Bool := false
  last : Bool := false
  ece : Bool := false
  op : BitVec 4 := 0
  job : BitVec 16 := 0
  hops : BitVec 4 := 15
  srank : BitVec 12 := 0
  code : BitVec 4 := 0
  drank : BitVec 12 := 0
  psn : BitVec 24 := 0
  apsn : BitVec 24 := 0
  rtag : BitVec 16 := 0
  addr : BitVec 48 := 0
  len : Nat := 0
  welt : Word := 0
  words : List PWord := []
  deriving DecidableEq, Repr

/-- A native flit (R375); a message flit carries `len` bytes of a transport message. -/
structure Flit where
  lvc : BitVec 2 := 0
  ty : BitVec 2 := 0
  seq : BitVec 12 := 0
  ack : BitVec 12 := 0
  nak : Bool := false
  cr0 : BitVec 8 := 0
  cr1 : BitVec 8 := 0
  len : BitVec 8 := 0
  som : Bool := false
  eom : Bool := false
  payload : List Byte := []
  crc : Word := 0
  deriving DecidableEq, Repr

/-- An Ethernet frame (R379, R380): with EtherType 0x86DD `body` is the UDP payload behind the IPv6 and UDP headers whose fields
it has, with any other what follows the EtherType. -/
structure Frame where
  sub : Nat := 0
  dstMac : BitVec 48 := 0
  srcMac : BitVec 48 := 0
  tags : List (BitVec 16) := []
  etherType : BitVec 16 := 0x86DD
  tclass : Byte := 0
  flow : BitVec 20 := 0
  nextHeader : Byte := 17
  hopLimit : Byte := 0
  srcIp : BitVec 128 := 0
  dstIp : BitVec 128 := 0
  sport : BitVec 16 := 0
  dport : BitVec 16 := 0
  sum : BitVec 16 := 0
  body : List Byte := []
  fcs : Word := 0
  deriving DecidableEq, Repr

/-- The serial flash as the part reads it at start-up (R456, R457): what its SFDP tables say, and the
two image copies. -/
structure Flash where
  sfdp : Bool
  basic : Bool
  mib : Nat
  quad : Bool
  four : Bool
  enter4 : Bool
  primary : List Byte
  secondary : List Byte
  deriving DecidableEq, Repr

/-- An unlock token or an image is a byte string. -/
abbrev Bytes := List Byte

end Sys2Proof
end

