-- ==== Sys2Proof/Syntax.lean ====
section
/-! DEFINITION. The commands of the part, one constructor per row of spec/opcode_table.json, in the table's
order. A command names the unit in which the step happens and what comes from outside the part. -/
namespace Sys2Proof

/-- A step of the part. `w` is the writer of a register, `core` a core number, `s` a stream, `k` a
position in the list of packets in the Harness (`RD_REQ` and its like) or a link port, `v` a written value. The default of
an operand says that nothing out of the ordinary happens: no upset of the packet, no PEC byte, no bank wait, no word of the
overwrite that fails, no lane that the peer has retired, and the first where one of several is named. -/
inductive Instr where
  | registerWrite (w : Writer) (addr : BitVec 24) (v : Word)
  | misalignedAccess (w : Writer) (addr : BitVec 24) (width : Nat) (write : Bool)
  | counterLatch (p : Port) (addr : BitVec 24)
  | cntClear (w : Writer) (page : BitVec 12)
  | evtClear (w : Writer) (page : BitVec 12) (mask raised : Word)
  | evtForce (w : Writer) (page : BitVec 12) (mask : Word)
  | lock (w : Writer) (page : BitVec 12)
  | vectorUnmask (p : Port) (v : Nat) (addr : DWord) (data : Word) (mask : Bool)
  | fetch (core : Nat) (s : StreamId)
  | nop (core : Nat) (s : StreamId)
  | loopSet (core : Nat) (s : StreamId)
  | loopStep (core : Nat) (s : StreamId)
  | cmp (core : Nat) (s : StreamId)
  | br (core : Nat) (s : StreamId)
  | fset (core : Nat) (s : StreamId)
  | fclr (core : Nat) (s : StreamId)
  | seqOpRelease (core : Nat) (s : StreamId)
  | fwait (core : Nat) (s : StreamId)
  | qpush (core : Nat)
  | qpop (core : Nat)
  | halt (core : Nat) (s : StreamId)
  | chainStart (core : Nat)
  | wld (core : Nat)
  | wldDone (core arr : Nat)
  | wsw (core : Nat)
  | mm (core : Nat)
  | mmalt (core : Nat)
  | accUpdate (core arr : Nat)
  | drn (core : Nat)
  | drainResume (core count : Nat) (drain : Nat := 0)
  | drainDone (core : Nat) (drain : Nat := 0)
  | tcfg (core : Nat)
  | trel (core : Nat)
  | tld (core : Nat)
  | tst (core : Nat)
  | tileStart (core : Nat)
  | tileRetire (core : Nat)
  | vch (core : Nat)
  | vred (core : Nat)
  | vupd (core : Nat)
  | vecEntryStart (core : Nat)
  | chainGroup (core : Nat) (wait : Nat := 0)
  | chainEnd (core : Nat)
  | update (core : Nat)
  | stats (core : Nat)
  | factor (core : Nat)
  | scale (core : Nat)
  | seal (core : Nat)
  | compress (core : Nat)
  | expand (core : Nat)
  | overflowNotice (k : Nat) (u : Upset := {})
  | sealReceived (k : Nat) (u : Upset := {})
  | verdictRecord (k : Nat) (core : Nat := 0) (u : Upset := {})
  | lsInit (w : Writer) (part : Nat) (v : Word)
  | lsPart (w : Writer) (part i : Nat) (v : Word)
  | start (w : Writer) (core : Nat) (x a : Bool)
  | suspend (w : Writer) (core : Nat) (x a : Bool)
  | resume (w : Writer) (core : Nat) (x a : Bool)
  | abort (w : Writer) (core : Nat) (x a : Bool)
  | streamDrainDone (core : Nat) (s : StreamId)
  | stopAfter (core : Nat) (s : StreamId)
  | imemLoad (w : Writer) (core : Nat) (v : Word)
  | imemLoadDone (core : Nat)
  | flagSet (w : Writer) (core : Nat) (hi : Bool) (v : Word)
  | flagClr (w : Writer) (core : Nat) (hi : Bool) (v : Word)
  | spWipe (w : Writer) (core : Nat)
  | spWipeDone (core : Nat)
  | spScrub (core : Nat)
  | spWriteback (core : Nat)
  | spBankBackground (core bank : Nat)
  | spFlipArm (w : Writer) (core : Nat) (v : Word)
  | spCarveWrite (w : Writer) (core : Nat) (v : Word)
  | carveClearDone (core : Nat)
  | dma (core : Nat)
  | dmat (core : Nat)
  | gat (core : Nat)
  | sct (core : Nat)
  | dmaDescStart (core : Nat)
  | dmaDescDone (core : Nat)
  | gatherStart (core g : Nat)
  | gatherDone (core g : Nat)
  | translationWalk (who : Walker) (late : Option Nat)
  | runaheadFetch (core : Nat) (glb : Bool) (addr : BitVec 48) (late : Option Nat)
  | frcInv (w : Writer) (core : Nat)
  | botDataLo (w : Writer) (v : Word)
  | botDataHi (w : Writer) (v : Word)
  | shootdownDone
  | lookup (k : Nat) (u : Upset := {})
  | rdReq (k : Nat) (u : Upset)
  | rdRsp (k : Nat) (u : Upset := {})
  | wrReq (k : Nat) (u : Upset)
  | rwReq (k : Nat) (u : Upset := {})
  | combine (pod i j : Nat)
  | flagOp (k : Nat) (u : Upset := {})
  | flagAck (k : Nat) (u : Upset := {})
  | wrAck (k : Nat) (u : Upset := {})
  | mcWr (k core : Nat) (u : Upset := {})
  | mcAck (k : Nat) (u : Upset := {})
  | err (k : Nat) (u : Upset := {})
  | harnessRequestTimeout (core tag : Nat)
  | lendThreshold (core : Nat) (s : StreamId)
  | reclaim (core : Nat)
  | reclaimConfirm (core : Nat)
  | epochHoldEnd (pod : Nat)
  | vaultAccessDone (core k : Nat) (noise : List Noise)
  | vaultWriteback (core : Nat)
  | vaultBankBackground (core bank : Nat)
  | refreshCmd (core bank : Nat)
  | vaultScrub (core : Nat) (noise : List Noise)
  | retWindowEnd (q : Nat)
  | wipe (w : Writer) (q : Nat)
  | wipeDone (core : Nat)
  | retire (w : Writer) (q pc : Nat)
  | tierClearDone (q t : Nat)
  | vcFlipArm (w : Writer) (q : Nat) (v : Word)
  | critPatrol
  | critFlipArm (w : Writer) (v : Word)
  | modeChange (w : Writer) (k : Nat) (v : Word)
  | retrain (k : Nat)
  | retrainDone (k : Nat) (peer : Byte := 0)
  | lossOfLock (k lane : Nat)
  | nativeFlit (k : Nat) (f : Flit)
  | replayTimeout (k : Nat)
  | ethFrame (k : Nat) (f : Frame)
  | remoteAccess (k : Nat) (u : Upset := {})
  | transportRdReq (k : Nat)
  | transportRdRsp (k : Nat)
  | transportWr (k : Nat)
  | transportRw (k : Nat)
  | done (k : Nat)
  | tack (k : Nat)
  | tnak (k : Nat)
  | tackTimer (k peer part : Nat)
  | retransmit (k peer part : Nat) (psn : Nat := 0)
  | connectionFail (k peer part : Nat)
  | resync (k : Nat)
  | lnkRetire (w : Writer) (k : Nat) (v : Word)
  | laneWindowEnd (k : Nat) (syms : List Nat := []) (lost : Nat := 0)
  | collCommit (w : Writer) (part : Nat) (v : Word)
  | triggerPoll (part entry : Nat)
  | collData (k : Nat) (slips : Nat := 0)
  | collCredit (k : Nat)
  | collProbe (k : Nat)
  | collState (k : Nat)
  | collFail (k : Nat)
  | collWatchdog (part entry : Nat)
  | verdict (k : Nat)
  | netConfigWrite (w : Writer) (part reg : Nat) (v : Word)
  | bar2Read (p : Port) (ofs : BitVec 36) (len : Nat)
  | bar2Write (p : Port) (ofs : BitVec 36) (data : List Byte) (ep : Bool)
  | holeAccess (p : Port) (addr : BitVec 24) (write : Bool)
  | hostWindowRequest (k : Nat) (u : Upset := {})
  | hostCompletion (p : Port) (tag : Nat) (ok ep : Bool) (data : List DWord)
  | cplTimeout (p : Port) (tag : Nat)
  | create (w : Writer) (v : Word)
  | release (w : Writer) (v : Word)
  | portReset (p : Port) (cause : Nat)
  | xlInv (w : Writer) (part : Nat) (v : Word)
  | xlInvDone (part : Nat)
  | ident (pec : Bool := false)
  | lifecycle (pec : Bool := false)
  | status (pec : Bool := false)
  | pkgPower (pec : Bool := false)
  | profile (pec : Bool := false)
  | tempLogic (pec : Bool := false)
  | tempT0 (q : Nat) (pec : Bool := false)
  | tempT1 (q : Nat) (pec : Bool := false)
  | parts (pec : Bool := false)
  | retired (pec : Bool := false)
  | alertMaskRead (pec : Bool := false)
  | alertMaskWrite (v : Byte) (pec : Option Byte := none)
  | alertResponse (pec : Bool := false)
  | smbusOtherCommand (code : Byte)
  | pwrokRise (flash : Flash) (straps : BitVec 2) (failing : List (Nat × BitVec 4))
  | pwrokFall
  | railDrop
  | advance (w : Writer) (target : Byte) (flash : Flash) (straps : BitVec 2) (failing : List (Nat × BitVec 4))
    (bad : List (Nat × Nat) := [])
  | progKey (w : Writer) (slot : Byte)
  | revoke (w : Writer) (slot : Byte)
  | svnBurn (w : Writer) (count : Byte)
  | fuseBurnDone
  | attCmd (w : Writer)
  | attReport
  | tokenData (w : Writer) (v : Word)
  | tokenCmd (w : Writer)
  | tokenDone
  | extest
  | samplePreload (cells : Nat)
  | highz
  | clamp
  | bootStatus
  | tokenLoad (token : Bytes)
  | tokenStatus
  | testInstruction (code : Byte)
  | debugAccess (code : Byte) (write : Bool) (addr : BitVec 24) (v : Word)
  | bypass (code : Byte)
  | tapReset
  | streamWatchdog (core : Nat) (s : StreamId)
  | hangRecovery (part : Nat)
  | dumpReset (w : Writer) (part : Nat)
  | reset (w : Writer) (part : Nat)
  | powerInterval (temps : List (Nat × BitVec 16)) (pkg : BitVec 16) (used : List (Nat × Nat))
  | gateSpanEnd (pod : Nat)
  | pmProfile (w : Writer) (v : Word)
  | pwrCapN (level : Bool)
  | domOn (w : Writer) (v : Word)
  | domOff (w : Writer) (v : Word)
  | pinFnEn (w : Writer) (v : Word)
  | configurationRequest (p : Port) (bme : Option Bool) (dstate : Option (BitVec 2))
  | pcieLinkUp (p : Port) (width speed : Nat)
  | perstRelease (p : Port)
  | trainingDone (k : Nat) (sub : Nat) (peer : Byte := 0)
  | autoincRead (p : Port) (addr : BitVec 24)
  deriving DecidableEq, Repr

end Sys2Proof
end

