-- ==== Sys2Proof/WellFormed.lean ====
section
/-! DEFINITION. Commands that name a unit the part has (R20, R127, R338, R373, R421, R428). -/
namespace Sys2Proof

/-- The command's unit numbers are in range. -/
def Instr.wf : Instr → Bool
  | .fetch c _ | .nop c _ | .loopSet c _ | .loopStep c _ | .cmp c _ | .br c _ | .fset c _ | .fclr c _
  | .seqOpRelease c _ | .fwait c _ | .halt c _ | .streamDrainDone c _ | .stopAfter c _
  | .lendThreshold c _ | .streamWatchdog c _ => c < 672
  | .qpush c | .qpop c | .chainStart c | .wld c | .wsw c | .mm c | .mmalt c | .drn c | .drainDone c _
  | .tcfg c | .trel c | .tld c | .tst c | .tileStart c | .tileRetire c | .vch c | .vred c | .vupd c
  | .vecEntryStart c | .chainGroup c _ | .chainEnd c | .update c | .stats c | .factor c | .scale c
  | .seal c | .compress c | .expand c | .imemLoadDone c | .spWipeDone c | .spScrub c
  | .spWriteback c | .carveClearDone c | .dma c | .dmat c | .gat c | .sct c | .dmaDescStart c
  | .dmaDescDone c | .reclaim c | .reclaimConfirm c | .vaultWriteback c | .wipeDone c => c < 672
  | .wldDone c a | .accUpdate c a => c < 672 && a < 4
  | .drainResume c n _ => c < 672 && 0 < n && n ≤ 256
  | .start _ c _ _ | .suspend _ c _ _ | .resume _ c _ _ | .abort _ c _ _ => c < 672
  | .imemLoad _ c _ | .spFlipArm _ c _ | .spCarveWrite _ c _ => c < 672
  | .flagSet _ c _ _ | .flagClr _ c _ _ => c < 672
  | .spWipe _ c | .frcInv _ c => c < 672
  | .spBankBackground c b => c < 672 && b < 32
  | .gatherStart c g | .gatherDone c g => c < 672 && g < 2
  | .runaheadFetch c _ _ _ => c < 672
  | .mcWr _ c _ | .verdictRecord _ c _ => c < 672
  | .harnessRequestTimeout c t => (c < 672 && t < 256) || (0x400 ≤ c && c < 0x408 && t < 65536)
  | .vaultAccessDone c _ _ | .vaultScrub c _ => c < 672
  | .vaultBankBackground c b | .refreshCmd c b => c < 672 && b < 64
  | .epochHoldEnd p | .combine p _ _ | .gateSpanEnd p => p < 84
  | .translationWalk w _ => match w with | .core n => n < 672 | .port _ => true
  | .lsInit _ P _ | .xlInv _ P _ | .collCommit _ P _ | .netConfigWrite _ P _ _ | .dumpReset _ P
  | .reset _ P => P < 12
  | .lsPart _ P i _ => P < 12 && i < 21
  | .xlInvDone P | .hangRecovery P => P < 12
  | .triggerPoll P e => P < 12 && e < 32
  | .collWatchdog P e => P < 12 && e < 33
  | .retWindowEnd q | .wipe _ q | .vcFlipArm _ q _ | .tempT0 q _ | .tempT1 q _ => q < 4
  | .retire _ q pc => q < 4 && pc < 4
  | .tierClearDone q t => q < 4 && t < 2
  | .modeChange _ k _ | .lnkRetire _ k _ => k < 8
  | .retrain k | .retrainDone k _ | .replayTimeout k | .laneWindowEnd k _ _ | .transportRdReq k
  | .transportRdRsp k | .transportWr k | .transportRw k | .done k | .tack k | .tnak k | .resync k
  | .collData k _ | .collCredit k | .collProbe k | .collState k | .collFail k | .verdict k => k < 8
  | .lossOfLock k n => k < 8 && n < 8
  | .nativeFlit k _ => k < 8
  | .ethFrame k f => k < 8 && f.sub < 2
  | .tackTimer k r P | .retransmit k r P _ | .connectionFail k r P => k < 8 && r < 4096 && P < 12
  | .trainingDone k u _ => k < 8 && u < 2
  | .vectorUnmask _ v _ _ _ => v < 2048
  | .misalignedAccess _ _ _ _ | .registerWrite _ _ _ | .counterLatch _ _ | .cntClear _ _
  | .evtClear _ _ _ _ | .evtForce _ _ _ | .lock _ _ | .overflowNotice _ _ | .sealReceived _ _
  | .botDataLo _ _ | .botDataHi _ _ | .shootdownDone | .lookup _ _ | .rdReq _ _
  | .rdRsp _ _ | .wrReq _ _ | .rwReq _ _ | .flagOp _ _ | .flagAck _ _ | .wrAck _ _ | .mcAck _ _ | .err _ _
  | .critPatrol | .critFlipArm _ _ | .remoteAccess _ _ | .bar2Write _ _ _ _
  | .holeAccess _ _ _ | .hostWindowRequest _ _ | .hostCompletion _ _ _ _ _ | .cplTimeout _ _
  | .create _ _ | .release _ _ | .portReset _ _ | .ident _ | .lifecycle _ | .status _ | .pkgPower _
  | .profile _ | .tempLogic _ | .parts _ | .retired _ | .alertMaskRead _ | .alertMaskWrite _ _
  | .alertResponse _ | .smbusOtherCommand _ | .pwrokRise _ _ _ | .pwrokFall | .railDrop
  | .progKey _ _ | .revoke _ _ | .svnBurn _ _ | .advance _ _ _ _ _ _ | .fuseBurnDone | .attCmd _
  | .attReport | .tokenData _ _ | .tokenCmd _ | .tokenDone | .extest | .samplePreload _ | .highz
  | .clamp | .bootStatus | .tokenLoad _ | .tokenStatus | .testInstruction _
  | .debugAccess _ _ _ _ | .bypass _ | .tapReset | .powerInterval _ _ _ | .pmProfile _ _
  | .pwrCapN _ | .domOn _ _ | .domOff _ _ | .pinFnEn _ _ | .configurationRequest _ _ _
  | .pcieLinkUp _ _ _ | .perstRelease _ | .autoincRead _ _ => true
  | .bar2Read _ _ n => 0 < n && n ≤ 4096

end Sys2Proof
end

