-- ==== Sys2Proof/Decode.lean ====
section
/-! DEFINITION. The table gives no row any bits (98_reader.md counts none with fixed bits), so no word spells a
command: commands come from the part's surroundings. The bundles and access instructions that the
part's own streams fetch are decoded in Machine/Fetch.lean (R179 to R199). -/
namespace Sys2Proof

/-- The command a word of the table spells: none, the table has no row with bits. -/
def decodeTableWord (_nbits _w : Nat) : Option Instr := none

end Sys2Proof
end

