-- ==== Sys2Proof/Machine/Map.lean ====
section
/-! DEFINITION. Sparse maps: lists of key and value pairs in one canonical form (keys strictly rising, no
entry equal to what an unlisted key reads as), used for memories, registers and tables. -/
namespace Sys2Proof.Machine

/-- A sparse map from numbers. -/
abbrev SMap (α : Type) := List (Nat × α)

/-- What key `k` holds; `d k` where nothing is listed. -/
def mget {α : Type} (d : Nat → α) : SMap α → Nat → α
  | [], k => d k
  | (j, v) :: m, k => if j = k then v else mget d m k

/-- The map with key `k` removed. -/
def mdel {α : Type} : SMap α → Nat → SMap α
  | [], _ => []
  | (j, v) :: m, k => if j = k then mdel m k else (j, v) :: mdel m k

/-- The map with key `k` holding `v`, whatever `v` is. -/
def mput {α : Type} : SMap α → Nat → α → SMap α
  | [], k, v => [(k, v)]
  | (j, w) :: m, k, v =>
    if j = k then (k, v) :: m else if k < j then (k, v) :: (j, w) :: m else (j, w) :: mput m k v

/-- Writing key `k`: a value equal to the unlisted one removes the entry. -/
def mset {α : Type} [DecidableEq α] (d : Nat → α) (m : SMap α) (k : Nat) (v : α) : SMap α :=
  if v = d k then mdel m k else mput m k v

/-- Keys strictly rising, above `lo` where one is given. -/
def mrising {α : Type} : Option Nat → SMap α → Bool
  | _, [] => true
  | none, (j, _) :: m => mrising (some j) m
  | some lo, (j, _) :: m => decide (lo < j) && mrising (some j) m

/-- The canonical form. -/
def mwf {α : Type} [DecidableEq α] (d : Nat → α) (m : SMap α) : Bool :=
  mrising none m && m.all fun p => decide (p.2 ≠ d p.1)

/-- The map without the keys of a range. -/
def mclear {α : Type} (m : SMap α) (lo hi : Nat) : SMap α :=
  m.filter fun p => p.1 < lo || hi ≤ p.1

/-- Element `i` of a list, or `d`. -/
def lget {α : Type} (d : α) : List α → Nat → α
  | [], _ => d
  | a :: _, 0 => a
  | _ :: l, i + 1 => lget d l i

/-- The list with element `i` replaced. -/
def lset {α : Type} : List α → Nat → α → List α
  | [], _, _ => []
  | _ :: l, 0, v => v :: l
  | a :: l, i + 1, v => a :: lset l i v

/-- The list without element `i`. -/
def ldel {α : Type} : List α → Nat → List α
  | [], _ => []
  | _ :: l, 0 => l
  | a :: l, i + 1 => a :: ldel l i

end Sys2Proof.Machine
end

