-- ==== Sys2Proof/Program.lean ====
section
/-! DEFINITION. Decoded instructions of the two streams (06, R184 to R199). Run-time selectors are
resolved when a bundle is fetched, because every slot sees the values from before the bundle (R161). -/
namespace Sys2Proof

/-- One slot of a bundle, or one access instruction, with its selectors resolved to values.
Offsets are in bytes, counts are counts. -/
inductive Op where
  | nop
  | loopSet (l n : Nat)
  | loopStep (l target : Nat)
  | cmp (c : Nat) (holds : Bool)
  | br (taken : Bool) (target : Nat)
  | brFlag (f : Nat) (pol : Bool) (target : Nat)
  | flag (clr : Bool) (f : Nat) (remote : Bool) (core seq : Nat)
  | fwait (f : Nat) (e autoclr : Bool)
  | qpush (q : Nat) (src : Int)
  | qpop (q : Nat) (d : Bool) (dst : Nat)
  | halt (code : Nat) (chain : Bool) (record : Nat)
  | wld (arrays src row : Nat) (kh : Bool)
  | wsw (arrays : Nat)
  | mm (alt : Bool) (arrays src row cnt : Nat) (kh swap accum : Bool) (acc : Nat)
  | drn (arrays acc cnt : Nat) (keep chain : Bool) (dst rstride astride : Nat)
  | tcfg (mask rows fmt : Nat) (use : Bool)
  | trel (mask : Nat)
  | tmove (store : Bool) (reg row cnt desc : Nat) (cfe : Bool) (cf : Nat)
  | vec (opc desc rowofs : Nat) (cfe : Bool) (cf : Nat)
  | dma (glb : Bool) (desc : Nat) (sadd dadd : Int) (cfe : Bool) (cf : Nat)
  | gather (sct : Bool) (g desc : Nat) (ladd : Int) (cfe : Bool) (cf : Nat)
  deriving DecidableEq, Repr

end Sys2Proof
end

