-- ==== Sys2Proof/Machine/State.lean ====
section
/-! DEFINITION. The state of the part, its reset value, and the reasons a step can stop. -/
namespace Sys2Proof.Machine
open Sys2Proof

/-- Reasons the model stops with a fault: none. A program's fault is a state of its stream (R150,
R173), a refused command is reported in its result register. The one constructor stands so that the
type is there; nothing raises it (safe). -/
inductive Fault where
  | unreachable
  deriving DecidableEq, Repr

/-- Reasons the model has no meaning for a command. -/
inductive Refusal where
  /-- Raised only by an arm of Dispatch for a command with no meaning yet; safe. -/
  | notModelled (mnemonic : String)
  deriving DecidableEq, Repr

/-- A memory word as stored (R130): 64 data bits and 15 check bits, held as the codeword's data and the
bits of the 80 that differ from the codeword (log 6), and the valid bit. -/
structure MWord where
  valid : Bool := false
  data : DWord := 0
  eData : DWord := 0
  eChk : BitVec 15 := 0
  deriving DecidableEq, Repr

/-- A masked write of one 8 B word at a device physical or scratchpad address (R129, R345). -/
structure WWrite where
  addr : Nat
  mask : DWord
  data : DWord
  poison : Bool := false
  deriving DecidableEq, Repr

/-- Packet classes (R308); CTRL is split by message. -/
inductive PCls where
  | rdReq | rdRsp | wrReq | rwReq | flagOp | mcWr | lookup | wrAck | flagAck | mcAck | err
  | notice | seal | verdictRec
  deriving DecidableEq, Repr

/-- A packet in the Harness (R309). `info` carries a CTRL message's numbers, `con` the contributors
as core, epoch and tag, `targets` the cores a multicast has still to reach, `named` all it names, `gone` how many answered
ABSENT and `code` the OR of their codes; `lost` says that copies were discarded (R331). `hop` counts the routers that a
reduce-write has passed when it last absorbed another (R322), `stuck` names the cores at whose intake's head it waits
(R343). -/
structure Packet where
  cls : PCls
  vc : Nat
  dst : Nat
  src : Nat
  epoch : Nat := 0
  tag : Nat := 0
  addr : Nat := 0
  len : Nat := 0
  op : Nat := 0
  mark : Bool := false
  con : List (Nat × Nat × Nat) := []
  writes : List WWrite := []
  data : List PWord := []
  code : Nat := 0
  info : List Nat := []
  targets : List Nat := []
  named : List Nat := []
  gone : Nat := 0
  lost : Bool := false
  hop : Nat := 0
  stuck : List Nat := []
  deriving DecidableEq, Repr

/-- Stream states (R148). -/
inductive StreamState where
  | idle | running | draining | halted | stopped | suspended | faulted
  deriving DecidableEq, Repr

/-- What a fault record is filled with (R438, R449). -/
structure FRec where
  cause : Nat
  slot : Nat
  pc : Nat
  engine : Nat
  akind : Nat := 0
  addr : Nat := 0
  level : Nat := 0
  write : Bool := false
  poison : Bool := false
  deriving DecidableEq, Repr

/-- A held flag operation (R187): its instruction, and the work numbers it waits for. -/
structure Held where
  clr : Bool
  flag : Nat
  remote : Bool
  core : Nat
  seq : Nat
  before : Nat
  pc : Nat
  deriving DecidableEq, Repr

/-- A tile register that an `mm`, or a `wld` (`weights`), still reads for an array: the core cycles left (R47 to R51). -/
structure Reading where
  arr : Nat
  reg : Nat
  weights : Bool
  left : Nat
  deriving DecidableEq, Repr

/-- An instruction stream (R145 to R176). `reading` holds, for the execute stream, what its array instructions still
read of the tile registers. -/
structure Stream where
  st : StreamState := .idle
  target : StreamState := .idle
  pc : Nat := 0
  slot : Nat := 0
  part : Bool := false
  haltCode : Nat := 0
  armed : Bool := false
  issued : Nat := 0
  waiting : Bool := false
  cause : Nat := 0
  wslot : Nat := 0
  wflag : Nat := 0
  wexpect : Bool := false
  cmp : BitVec 4 := 0
  lcnt : List Nat := [0, 0, 0, 0, 0, 0, 0, 0]
  llim : List Nat := [0, 0, 0, 0, 0, 0, 0, 0]
  fetched : Bool := false
  slots : List (Nat × Op) := []
  nextPc : Nat := 0
  halting : Bool := false
  held : List Held := []
  frec : Option FRec := none
  lendable : Bool := false
  ending : Option StreamState := none
  reading : List Reading := []
  deriving DecidableEq, Repr

/-- A tile-register row: 64 B of elements and 4 scale bytes (R111). -/
structure TRow where
  el : BitVec 512 := 0
  sc : Word := 0x7F7F7F7F#32
  deriving DecidableEq, Repr

/-- Tile-register states (R112). -/
inductive TileState where
  | unconfigured | empty | loading | valid
  deriving DecidableEq, Repr

/-- A tile register (R111 to R113). -/
structure TileReg where
  st : TileState := .unconfigured
  rows : Nat := 0
  fmt : Nat := 0
  use : Bool := false
  data : SMap TRow := []
  deriving DecidableEq, Repr

/-- A tile instruction in the tile queue (R122); `staged` and `writes` are what it moves. -/
structure TileJob where
  store : Bool
  reg : Nat
  row : Nat
  cnt : Nat
  desc : Nat
  cfe : Bool
  cf : Nat
  work : Nat
  pc : Nat
  started : Bool := false
  staged : List TRow := []
  writes : List WWrite := []
  deriving DecidableEq, Repr

/-- A weight plane (R41, R189): the 32 rows of its tile, the K half, and the recorded format. -/
structure Plane where
  fmt : Option Nat := none
  kh : Bool := false
  rows : List TRow := []
  deriving DecidableEq, Repr

/-- An activation row in flight (R47), with the plane it meets (R49). -/
structure RowJob where
  fmt : Nat
  kh : Bool
  row : TRow
  plane : Plane
  entry : Nat
  accum : Bool
  deriving DecidableEq, Repr

/-- A matrix array (R41). `acc` is keyed by 256 n + entry. -/
structure Arr where
  active : Bool := false
  p0 : Plane := {}
  p1 : Plane := {}
  loading : Bool := false
  acc : SMap Word := []
  rows : List RowJob := []
  deriving DecidableEq, Repr

/-- A drain in progress (R59, R61); `next` entries have been read. `chain` names the vector entry. -/
structure Drain where
  arrays : List Nat
  acc : Nat
  cnt : Nat
  keep : Bool
  chain : Option Nat
  dst : Nat
  rstride : Nat
  astride : Nat
  work : Nat
  next : Nat := 0
  deriving DecidableEq, Repr

/-- What a conversion draws its random bits from (R253). -/
structure Sr where
  key : DWord := 0
  stream : Word := 0
  step : Word := 0
  deriving DecidableEq, Repr

/-- An output of a chain on its way to the scratchpad (R228): the core cycle in which it is written, its writes, its
saturated elements, and whether it raises gradient overflow. -/
structure VOut where
  due : Nat
  ws : List WWrite
  sat : Nat := 0
  ovf : Bool := false
  deriving DecidableEq, Repr

/-- A vector queue entry (R196): `opc` 1 `vch`, 2 `vupd`, 3 `vred`. `d` is its descriptor with its records and `conv`
the core's conversion settings, both read at start; `groups` counts the groups entered, `inbox` holds drain rows not taken yet,
`rowVals` the row buffer's two values of each element, `redA` to `whole` the running reductions. Core cycles count from the
chain's first: `clock` is the first in which the next group may enter, `second` the first in which the second half is
free, `leaves` those in which rows leave the row buffer (R223, R228). -/
structure VecEntry where
  opc : Nat
  desc : Nat
  rowofs : Nat
  cfe : Bool
  cf : Nat
  work : Nat
  pc : Nat
  drain : Bool := false
  expect : Nat := 0
  claimed : Nat := 0
  inbox : List (List Word) := []
  started : Bool := false
  d : List DWord := []
  bcol : List Word := []
  groups : Nat := 0
  rowVals : List (Word × Word) := []
  brow : Word := 0
  redA : Word := 0
  redB : Word := 0
  rowAcc : Word := 0
  colAcc : List Word := []
  whole : Word := 0
  buckets : SMap Nat := []
  conv : Sr := {}
  clock : Nat := 0
  second : Nat := 0
  leaves : List Nat := []
  sealSent : Bool := false
  ended : Bool := false
  deriving DecidableEq, Repr

/-- An entry of a data queue: 256 B as 32 words (R163, R164). -/
abbrev QEntry := List PWord

/-- What a movement engine waits for. -/
inductive Wait where
  | none
  | walk (va : Nat) (write : Bool)
  | lookup (tag : Nat)
  | rsp (tag : Nat)
  deriving DecidableEq, Repr

/-- Kinds of mover instruction (R198, R282, R286). -/
inductive JKind where
  | dma | dmat | gat | sct | imem
  deriving DecidableEq, Repr

/-- An instruction of a movement engine (R279, R286, R282). `pos` units have taken effect, `wdone` of the current unit's
writes; `staged` holds source words read for it, by kind and address; `conv` the conversion settings read at its start
(R253). -/
structure Job where
  kind : JKind
  desc : Nat
  sadd : Int := 0
  dadd : Int := 0
  cfe : Bool := false
  cf : Nat := 0
  work : Nat := 0
  pc : Nat := 0
  strm : StreamId := .X
  slot : Nat := 0
  count : Nat := 0
  src : Nat := 0
  chain : Bool := false
  active : Bool := false
  d : List DWord := []
  conv : Sr := {}
  pos : Nat := 0
  wdone : Nat := 0
  staged : List (Nat × Nat × PWord) := []
  wait : Wait := .none
  ovf : Bool := false
  last : Option Nat := none
  res : Nat := 0
  deriving DecidableEq, Repr

/-- An outstanding Harness request of a core (R310): the engine that waits (0 DMA, 1 and 2 gather, 3 execute flag
operation, 4 access flag operation, 5 a run-ahead fetch, 6 none: its instruction was abandoned). `stale` marks a lookup or a
line fetch whose answer a shoot-down or an invalidation has overtaken (R293, R294), `line` the far-read cache line that a
read fetches. -/
structure Req where
  tag : Nat
  cls : PCls
  eng : Nat
  dst : Nat
  addr : Nat
  len : Nat
  kind : Nat := 0
  gaddr : Nat := 0
  reissued : Bool := false
  pc : Nat := 0
  info : List Nat := []
  stale : Bool := false
  line : Option Nat := none
  deriving DecidableEq, Repr

/-- A translation cache entry (R436): a page, or a Block Owner Table entry. -/
structure XlEntry where
  glb : Bool
  base : Nat
  size : Nat
  addr : Nat
  write : Bool
  nospec : Bool
  entry : DWord := 0
  deriving DecidableEq, Repr

/-- A pending chain (R158): its record, and the phase (0 record not read, 4 record read and the execute stream awaited,
1 execute program loading, 2 access program loading, 3 both loaded). -/
structure Chain where
  record : Nat
  phase : Nat := 0
  words : List DWord := []
  deriving DecidableEq, Repr

/-- Who asked a vault for a read (R342): a local engine, or the sender of a packet. -/
inductive VWho where
  | local (eng : Nat)
  | remote (src epoch tag : Nat)
  deriving DecidableEq, Repr

/-- A read accepted by a vault controller, with its words as they stood then (R344), and those of them written since
(R350). -/
structure VAcc where
  who : VWho
  off : Nat
  kind : Nat
  gaddr : Nat
  raw : List MWord
  late : List Nat := []
  deriving DecidableEq, Repr

/-- A vault and its controller (R338 to R360). `openRow` holds each bank's open row plus one, 0 for none; `passes` how many
reads in a row have passed older ones of a bank (R344). -/
structure Vault where
  mem : SMap MWord := []
  pend : List VAcc := []
  wb : List (Nat × MWord) := []
  openRow : SMap Nat := []
  passes : SMap Nat := []
  retired : BitVec 4 := 0
  ue : List Nat := [0, 0, 0, 0]
  ce : List Nat := [0, 0, 0, 0]
  wiping : Bool := false
  selfRefresh : Bool := false
  scrubPos : Nat := 0
  scrubDone : Bool := false
  deriving DecidableEq, Repr

/-- A core (R22). `updStep`, `updLs` and `groups` are its copy of the loss-scale state (R238, R266). `quarantine` holds the
requests that the timeout has ended (R330), `frcNext` the lines whose prefetch a miss has asked for (R294), `vOuts` a chain's
outputs on their way, in the order in which they are written, `vGovf` whether the entry at work has raised gradient overflow
(R228, R231). -/
structure Core where
  retired : Bool := false
  selfFail : BitVec 4 := 0
  x : Stream := {}
  a : Stream := {}
  work : Nat := 0
  chain : Option Chain := none
  imemResult : Nat := 0
  imemDone : Nat := 0
  imemX : SMap MWord := []
  imemA : SMap MWord := []
  queues : List (List QEntry) := [[], [], [], []]
  cur : List (List Word) := [[0, 0, 0, 0, 0, 0, 0, 0], [0, 0, 0, 0, 0, 0, 0, 0], [0, 0, 0, 0, 0, 0, 0, 0], [0, 0, 0, 0, 0, 0, 0, 0]]
  curValid : BitVec 4 := 0
  flags : DWord := 0
  arrs : List Arr := [{}, {}, {}, {}]
  drains : List Drain := []
  tiles : List TileReg := [{}, {}, {}, {}, {}, {}, {}, {}, {}, {}, {}, {}, {}, {}, {}, {}]
  tq : List TileJob := []
  tAbandoned : List TileJob := []
  sp : SMap MWord := []
  spWiping : Bool := false
  carveClear : List (Nat × Nat) := []
  carveWait : List Word := []
  spScrubPos : Nat := 0
  spWb : List (Nat × MWord) := []
  vq : List VecEntry := []
  vAbandoned : List VecEntry := []
  vDrains : List Drain := []
  vOuts : List VOut := []
  vGovf : Bool := false
  updStep : Word := 0
  updLs : Word := 0x11010#32
  groups : SMap Word := []
  dq : List Job := []
  dAbandoned : List Job := []
  g0 : List Job := []
  g1 : List Job := []
  gAbandoned0 : List Job := []
  gAbandoned1 : List Job := []
  reqs : List Req := []
  quarantine : List Req := []
  xl : List XlEntry := []
  frc : List (Nat × Nat) := []
  frcNext : List Nat := []
  vault : Vault := {}
  deriving DecidableEq, Repr

/-- A pod: its router and its clocks and power (R305, R328, R335, R509, R513). `cool` counts cool intervals, `dyn` is the
dynamic power in nanowatts, `share` the allotted power in sixteenths of one (log 30). -/
structure Pod where
  epoch : Nat := 0
  held : Bool := false
  off : Bool := false
  recent : Bool := false
  lent : BitVec 8 := 0
  reclaiming : BitVec 8 := 0
  step : Nat := 0
  alloc : Nat := 0
  gate : Nat := 0
  gated : Bool := false
  share : Nat := 0
  therm : Nat := 0
  cool : Nat := 0
  dyn : Nat := 0
  lending : Bool := false
  borrowing : Bool := false
  deriving DecidableEq, Repr

/-- A received collective packet (R400): tree position it came from, segment, byte offset, words, mark. -/
structure CPkt where
  pos : Nat
  seg : Nat
  ofs : Nat
  words : List PWord
  mark : Bool
  last : Bool
  deriving DecidableEq, Repr

/-- A collective instance (R399 to R407), from the first message or trigger that concerns it. `granted` is the
first segment the parent has not granted, `gave` what each child has been granted, `unacked` the tags of result
writes on their way. -/
structure Inst where
  entry : Nat
  started : Bool := false
  upSeg : Nat := 0
  downSeg : Nat := 0
  granted : Nat := 0
  gave : List (Nat × Nat) := []
  recv : List CPkt := []
  down : List CPkt := []
  unacked : List Nat := []
  probed : List Nat := []
  probing : Option Nat := none
  deriving DecidableEq, Repr

/-- A hang recovery (R494): its trigger, the first expiry, and whether it waits for the release of held pods, with the
number of streams that waited at the freeze. -/
structure Hang where
  trigger : Nat
  core : Nat := 0
  strm : StreamId := .X
  reset : Bool := false
  stalled : Nat := 0
  deriving DecidableEq, Repr

/-- What a partition has beyond its registers (R237, R397, R408, R437, R494). `record` is its current verdict record
(R243). -/
structure Part where
  record : List Nat := [0, 1, 0x10, 0x10]
  ovf : Bool := false
  seals : List Nat := []
  sealing : Bool := false
  heldVerdicts : List (Nat × Bool) := []
  invRange : Option (Nat × Nat) := none
  coll : SMap Word := []
  runs : List Inst := []
  routes : SMap (BitVec 4) := []
  hang : Option Hang := none
  deriving DecidableEq, Repr

/-- A transport connection (R384 to R386); `unacked` holds messages with PSN and times sent, `nakked` that a TNAK has asked for
the packet awaited. -/
structure Conn where
  part : Nat
  peer : Nat
  tx : Nat := 0
  rx : Nat := 0
  wnd : Nat := 64
  unacked : List (Nat × Nat × Msg) := []
  queue : List Msg := []
  owed : Nat := 0
  ece : Bool := false
  resync : Bool := false
  halved : Bool := false
  nakked : Bool := false
  deriving DecidableEq, Repr

/-- Link states (R414). -/
inductive LinkState where
  | down | training | up | retraining
  deriving DecidableEq, Repr

/-- A request of this part waiting for a remote answer (R390), by RTAG. -/
structure RWait where
  rtag : Nat
  part : Nat
  rank : Nat
  core : Nat
  epoch : Nat
  tag : Nat
  read : Bool
  deriving DecidableEq, Repr

/-- A request of another part being carried out here (R391). -/
structure RServe where
  tag : Nat
  part : Nat
  rank : Nat
  rtag : Nat
  read : Bool
  deriving DecidableEq, Repr

/-- A message that a port has received and not handled: the partition an Ethernet frame was accepted for, and the flits it
holds of the receive buffer (R376). -/
structure RxMsg where
  msg : Msg
  part : Option Nat := none
  flits : Nat := 0
  deriving DecidableEq, Repr

/-- A link port (R373 to R396). `txSeq` is the next SEQ, `rxSeq` the last accepted; `retry` holds the flits that are not
acknowledged, `txf` those that wait, with the 256 B units their message counts as it has left; `asm0` and `asm1` the flits of a
message not yet whole, `owe0` and `owe1` credits to return, `ackDue` that a flit accepted has not been acknowledged. `txq` are
messages that wait for a connection, `frames` frames held back by a retrain or by PFC (`paused`). `nextTag` numbers the
requests it sends to other parts, `tags` are the tags of its Harness requests that have not been answered (R309). -/
structure Link where
  st : LinkState := .down
  subUp : BitVec 2 := 0
  active : BitVec 8 := 0
  width : Nat := 0
  retired : BitVec 8 := 0
  txSeq : Nat := 0
  rxSeq : Nat := 4095
  retry : List Flit := []
  txf : List (Flit × Nat) := []
  cr0 : Nat := 64
  cr1 : Nat := 1024
  replays : Nat := 0
  asm0 : List Flit := []
  asm1 : List Flit := []
  owe0 : Nat := 0
  owe1 : Nat := 0
  ackDue : Bool := false
  conns : List Conn := []
  txq : List Msg := []
  frames : List Frame := []
  paused : Bool := false
  rx : List RxMsg := []
  waits : List RWait := []
  serves : List RServe := []
  nextTag : Nat := 0
  tags : List Nat := []
  deriving DecidableEq, Repr

/-- A part of a BAR2 read (R425): the tag of its request, which words of the answer are its own, and they once they have
come. -/
structure BPiece where
  tag : Nat
  skip : Nat
  count : Nat
  data : Option (List PWord) := none
  deriving DecidableEq, Repr

/-- A BAR2 read in progress (R425): its parts, in address order. -/
structure BRead where
  ofs : Nat
  len : Nat
  pieces : List BPiece
  deriving DecidableEq, Repr

/-- A host-window read in progress (R427). -/
structure HRead where
  tag : Nat
  src : Nat
  epoch : Nat
  htag : Nat
  len : Nat
  deriving DecidableEq, Repr

/-- A BAR2 access that waits for a translation (R423). -/
structure BWalk where
  ofs : Nat
  va : Nat
  len : Nat
  write : Bool
  data : List PWord
  deriving DecidableEq, Repr

/-- A BAR2 write whose parts are not all answered (R424, R425): the tags of those, and whether it has been turned away. -/
structure BWrite where
  ofs : Nat
  tags : List Nat
  bad : Bool := false
  deriving DecidableEq, Repr

/-- A PCIe port (R418 to R442); `cold` is D3cold (R37, log 49), `tags` the tags of its Harness requests that have not been
answered (R309), `aerUr` and `aerAdv` what AER has recorded of reads and of discarded writes (R424). -/
structure PciePort where
  up : Bool := false
  width : Nat := 0
  speed : Nat := 0
  dstate : BitVec 2 := 0
  cold : Bool := false
  bme : Bool := false
  off : Bool := false
  perst : Bool := false
  resetting : Bool := false
  reads : List BRead := []
  hreads : List HRead := []
  walks : List BWalk := []
  writes : List BWrite := []
  tags : List Nat := []
  xl : List XlEntry := []
  msix : SMap Word := []
  pba : List Nat := []
  cond : List Nat := []
  aerUr : Bool := false
  aerAdv : Bool := false
  subsystem : Word := 0x06721F7C#32
  deriving DecidableEq, Repr

/-- Fuses (R454). -/
structure Fuses where
  f4 : Bool := false
  modeSrc : Bool := false
  modeDefault : Nat := 0
  svnMin : Nat := 0
  revoke : BitVec 2 := 0
  life : Nat := 0
  key0 : BitVec 256 := 0
  key1 : BitVec 256 := 0
  deriving DecidableEq, Repr

/-- A fuse burn (R470). -/
inductive Burn where
  | key (slot : Nat) (v : BitVec 256) | revoke (slot : Nat) | svn (n : Nat)
  deriving DecidableEq, Repr

/-- A request for an attestation report (R472). -/
structure AttReq where
  port : Port
  mask : Nat
  dest : Nat
  nonce : List Byte
  deriving DecidableEq, Repr

/-- Who submitted a token (R479). -/
inductive TokenSrc where | A | B | jtag
  deriving DecidableEq, Repr

/-- The boot, security and JTAG blocks (14). `sensed` is what the last start sensed of the fuses, `keySlot` the slot of the
running image. -/
structure Sec where
  fuses : Fuses := {}
  sensed : Fuses := {}
  burn : Option Burn := none
  keySlot : Nat := 0
  att : List AttReq := []
  tokens : List (TokenSrc × Bytes) := []
  bufA : SMap Word := []
  bufB : SMap Word := []
  ctr : Nat := 0
  tokenResult : Nat := 0
  ir : Byte := 0xFF
  cells : Nat := 0
  testWiped : Bool := false
  deriving DecidableEq, Repr

/-- The power manager (R507 to R520). `corr`, `target` and `charges` are in nanowatts, `lam`, `unit` (the lendable share
of one core) and what the borrowers took in sixteenths of one, `pkg` in units of 0.125 W (log 30). -/
structure Power where
  corr : Nat := 0
  ptr : Nat := 0
  lam : Nat := 0
  unit : Nat := 0
  borrowers : List (Nat × Nat) := []
  pkg : Nat := 0
  target : Nat := 0
  charges : Nat := 0
  capLow : Bool := false
  profile : Nat := 0
  spineOff : BitVec 4 := 0
  linkOff : BitVec 8 := 0
  tierOff : BitVec 8 := 0
  clearing : BitVec 8 := 0
  ovwActive : BitVec 8 := 0
  ovwFailed : BitVec 8 := 0
  alarm : Bool := false
  deriving DecidableEq, Repr

/-- A procedure of the partition table (R429). -/
structure Proc where
  op : Nat
  part : Nat
  deriving DecidableEq, Repr

/-- What leaves the part on its wires. -/
inductive Out where
  | bar0 (p : Port) (addr : Nat) (v : Word)
  | bar2 (p : Port) (ofs : Nat) (data : List PWord)
  | bar2Ur (p : Port) (ofs : Nat)
  /-- The answer to a configuration request; a successful one returns the words of the Type 0 header that identify the
  part: Device and Vendor ID, class code and Revision ID, Subsystem IDs (R3, R418). -/
  | cfg (p : Port) (retry : Bool) (ids : List Word)
  | msix (p : Port) (v : Nat) (addr : DWord) (data : Word)
  | hostRead (p : Port) (addr len tag : Nat)
  | hostWrite (p : Port) (w : List WWrite)
  | flit (k : Nat) (f : Flit)
  | frame (k : Nat) (f : Frame)
  | smbus (bytes : List Byte)
  | smbusNack
  | jtag (v : Nat)
  | jtagPins (mode : Nat) (cells : Nat)
  | thermtrip
  deriving DecidableEq, Repr

/-- A critical word: three copies (R361). -/
structure Tri where
  a : Word
  b : Word
  c : Word
  deriving DecidableEq, Repr

/-- The part without its security block and the queue of commands. `regs` holds every register that is a
stored word, by BAR0 byte address (a port's own copy of a per-port register at address + port x 2^24, a
vault's window register at 2^27 + core x 2^12 + offset); `ctrs` the counters by address; `latch` the
latched high words; `scopes` what unlock tokens have granted (R479). -/
structure Dev where
  pwrok : Bool := true
  released : Bool := true
  tripped : Bool := false
  cores : SMap Core := []
  podz : SMap Pod := []
  partz : SMap Part := []
  links : SMap Link := []
  portA : PciePort := {}
  portB : PciePort := {}
  regs : SMap Word := []
  ctrs : SMap Nat := []
  latch : SMap Word := []
  crit : SMap Tri := []
  locks : SMap Bool := []
  bot : SMap DWord := []
  shoot : Option (Nat × List Nat) := none
  proc : Option Proc := none
  releaseQ : List Nat := []
  net : List Packet := []
  power : Power := {}
  alertMask : Byte := 0xFF
  scopes : BitVec 3 := 0
  fresh : Nat := 0
  out : List Out := []
  deriving DecidableEq, Repr

/-- The whole part: the device, its security block (14), and the commands that wait, first in first out. -/
structure State where
  dev : Dev := {}
  sec : Sec := {}
  pending : List Instr := []
  deriving DecidableEq, Repr

/-- The part as start-up leaves it (R450 step 9, R452): released, BLK_EVT.RELEASE of the boot page risen, BOOT_STAT at PHASE 7
and, on a BLANK part with no root key, UNSIGNED (R463, R480), memories wiped, the clear of every tier told on the four vault
quarter pages (TIER_CLEARED and ROWS_CLEARED, R355), no partition, every register at its reset value, no command waiting
(log 4, log 5). -/
def State.reset : State :=
  { dev := {
      regs := [(0x20018, 0x200#32), (0x21018, 0x200#32), (0x22018, 0x200#32), (0x23018, 0x200#32), (0xD30018, 1#32),
        (0xD30100, 0x2007#32)]
      ctrs := [(0x200C0, 8257536), (0x210C0, 8257536), (0x220C0, 8257536), (0x230C0, 8257536)] } }

end Sys2Proof.Machine
end

