-- ==== Sys2Proof/Machine/RegTable.lean ====
section
/-! DEFINITION. The registers of the part by kind of page: offset, how many and how far apart, which bits a write
sets (RW), which it sets while the page is unlocked (RWL), which it clears (W1C), and the reset value
(R6; the tables of R40, R75, R76, R141 to R143, R175 to R177, R234, R235, R263, R266, R301, R302, R304, R335,
R336, R369, R370, R372, R413, R414, R416, R445, R447 to R449, R480 to R483, R505, R529, R530). Fields that a
table calls RO, WO or W1S are in no mask: what acts on them is written out where it acts. -/
namespace Sys2Proof.Machine
open Sys2Proof

/-- Kinds of register page (R421). -/
inductive PageKind where
  | org | ptable | ls | vq | crit | net | pctl | core | tile | vec | dma | pod | spine | link | pcie | boot | sec | mgmt
  deriving DecidableEq, Repr

/-- A row of a register table. -/
structure RegDef where
  ofs : Nat
  n : Nat
  stride : Nat
  rw : Nat
  rwl : Nat
  w1c : Nat
  reset : Nat
  deriving DecidableEq, Repr

/-- Registers of the org page. -/
def regsOrg : List RegDef := [
  ⟨0x100, 1, 4, 0x0, 0x0, 0x0, 0x4248070C⟩]

/-- Registers of the ptable page. -/
def regsPtable : List RegDef := [
  ⟨0x18, 1, 4, 0x0, 0x0, 0x7, 0x0⟩,
  ⟨0x104, 1, 4, 0xFFFFFF, 0x0, 0x0, 0xC00000⟩]

/-- Registers of the ls page. -/
def regsLs : List RegDef := [
  ⟨0x8, 1, 4, 0x0, 0x0, 0x0, 0x2040⟩,
  ⟨0x18, 1, 4, 0x0, 0x0, 0x1F, 0x0⟩,
  ⟨0x100, 1, 4, 0x0, 0x3FFFF, 0x0, 0x107D0⟩,
  ⟨0x104, 1, 4, 0x0, 0x0, 0x0, 0x10⟩,
  ⟨0x110, 1, 4, 0x0, 0x0, 0x0, 0x10010⟩,
  ⟨0x114, 1, 4, 0xFFFFFFFF, 0x0, 0x0, 0x0⟩,
  ⟨0x118, 1, 4, 0x3F, 0x0, 0x0, 0x10⟩,
  ⟨0x124, 1, 4, 0x0, 0x0, 0x80000000, 0x0⟩,
  ⟨0x140, 21, 4, 0xFFFFFFFF, 0x0, 0x0, 0x0⟩,
  ⟨0x800, 64, 32, 0xFFFFFFFF, 0x0, 0x0, 0x0⟩,
  ⟨0x804, 64, 32, 0xFFFFFFFF, 0x0, 0x0, 0x0⟩,
  ⟨0x808, 64, 32, 0xFFFFFFFF, 0x0, 0x0, 0x0⟩,
  ⟨0x80C, 64, 32, 0xFFFFFFFF, 0x0, 0x0, 0x0⟩,
  ⟨0x810, 64, 32, 0xFFFFFFFF, 0x0, 0x0, 0x0⟩,
  ⟨0x814, 64, 32, 0xFFFFFFFF, 0x0, 0x0, 0x0⟩,
  ⟨0x818, 64, 32, 0xFFFFFFFF, 0x0, 0x0, 0x0⟩]

/-- Registers of the vq page. -/
def regsVq : List RegDef := [
  ⟨0x8, 1, 4, 0x0, 0x0, 0x0, 0x2210A860⟩,
  ⟨0x18, 1, 4, 0x0, 0x0, 0x7FF, 0x0⟩,
  ⟨0x100, 1, 4, 0xFF, 0x0, 0x0, 0x0⟩,
  ⟨0x110, 1, 4, 0x0, 0x0, 0x80000000, 0x0⟩,
  ⟨0x114, 1, 4, 0x0, 0x0, 0x80000000, 0x0⟩,
  ⟨0x130, 1, 4, 0xFFFFFFFF, 0x0, 0x0, 0x0⟩,
  ⟨0x134, 1, 4, 0xFFFFFFFF, 0x0, 0x0, 0x0⟩,
  ⟨0x138, 1, 4, 0xFFFF, 0x0, 0x0, 0x0⟩,
  ⟨0x180, 1, 4, 0x0, 0x8001FFFF, 0x0, 0x80015180⟩,
  ⟨0x184, 1, 4, 0x0, 0x1, 0x0, 0x1⟩,
  ⟨0x188, 1, 4, 0x0, 0xFFFF00FF, 0x0, 0x10000010⟩,
  ⟨0x18C, 1, 4, 0x0, 0x1FFFF, 0x0, 0x15180⟩]

/-- Registers of the crit page. -/
def regsCrit : List RegDef := [
  ⟨0x18, 1, 4, 0x0, 0x0, 0x3, 0x0⟩,
  ⟨0x100, 1, 4, 0x0, 0x0, 0x80000000, 0x0⟩,
  ⟨0x104, 1, 4, 0x7F00FFFF, 0x0, 0x0, 0x0⟩,
  ⟨0x108, 1, 4, 0xFFFFFFFF, 0x0, 0x0, 0x0⟩,
  ⟨0x10C, 1, 4, 0x8000FFFF, 0x0, 0x0, 0x800003E8⟩]

/-- Registers of the net page. -/
def regsNet : List RegDef := [
  ⟨0x18, 1, 4, 0x0, 0x0, 0xF, 0x0⟩,
  ⟨0x100, 1, 4, 0x0, 0xFFFF0FFF, 0x0, 0x0⟩,
  ⟨0x104, 1, 4, 0x0, 0x1FFF, 0x0, 0x1⟩,
  ⟨0x108, 1, 4, 0x0, 0x7FF, 0x0, 0x0⟩,
  ⟨0x10C, 1, 4, 0x0, 0xFFFCFFFF, 0x0, 0x40004B51⟩,
  ⟨0x110, 3, 4, 0x0, 0xFFFFFFFF, 0x0, 0x0⟩,
  ⟨0x11C, 1, 4, 0x0, 0xFFFFFFFF, 0x0, 0x174877⟩,
  ⟨0x120, 1, 4, 0x80000FFF, 0x0, 0x0, 0x0⟩,
  ⟨0x124, 1, 4, 0xF, 0x0, 0x0, 0x0⟩,
  ⟨0x128, 1, 4, 0x800001FF, 0x0, 0x0, 0x0⟩,
  ⟨0x12C, 1, 4, 0xFFFFFFFF, 0x0, 0x0, 0x0⟩,
  ⟨0x138, 1, 4, 0x0, 0x0, 0x80000000, 0x0⟩]

/-- Registers of the pctl page. -/
def regsPctl : List RegDef := [
  ⟨0x18, 1, 4, 0x0, 0x0, 0x3, 0x0⟩,
  ⟨0x100, 1, 4, 0x0, 0xFFFFF000, 0x0, 0x0⟩,
  ⟨0x104, 1, 4, 0x0, 0xFFFF, 0x0, 0x0⟩,
  ⟨0x10C, 1, 4, 0x40FFFFFF, 0x0, 0x0, 0x0⟩,
  ⟨0x110, 1, 4, 0xFFFF0000, 0x0, 0x0, 0x0⟩,
  ⟨0x114, 1, 4, 0xFFFF, 0x0, 0x0, 0x0⟩,
  ⟨0x200, 1, 4, 0x0, 0xFFFFFFFF, 0x0, 0x186A0⟩,
  ⟨0x204, 1, 4, 0x0, 0xFFFFFF, 0x0, 0x3E8⟩,
  ⟨0x208, 1, 4, 0x0, 0x7, 0x0, 0x7⟩,
  ⟨0x20C, 1, 4, 0x0, 0x7FFF000, 0x0, 0x5FBF000⟩,
  ⟨0x210, 1, 4, 0x0, 0xFF0001F, 0x0, 0x10⟩,
  ⟨0x214, 3, 4, 0x0, 0xFF0001F, 0x0, 0x0⟩,
  ⟨0x22C, 1, 4, 0x0, 0x0, 0x80000000, 0x0⟩]

/-- Registers of the core page. -/
def regsCore : List RegDef := [
  ⟨0x8, 1, 4, 0x0, 0x0, 0x0, 0x48440CC4⟩,
  ⟨0x18, 1, 4, 0x0, 0x0, 0x7FFF, 0x0⟩,
  ⟨0x144, 1, 4, 0xFFF, 0x0, 0x0, 0x0⟩,
  ⟨0x148, 1, 4, 0xFFFFFFFF, 0x0, 0x0, 0x0⟩,
  ⟨0x1A4, 1, 4, 0xFFF, 0x0, 0x0, 0x0⟩,
  ⟨0x1A8, 1, 4, 0xFFFFFFFF, 0x0, 0x0, 0x0⟩,
  ⟨0x400, 1, 4, 0xFFFFFFC0, 0x0, 0x0, 0x0⟩,
  ⟨0x404, 1, 4, 0xFFFF, 0x0, 0x0, 0x0⟩,
  ⟨0x408, 1, 4, 0x1FFF1FFF, 0x0, 0x0, 0x0⟩,
  ⟨0x600, 1, 4, 0x0, 0x0, 0x80000000, 0x0⟩,
  ⟨0x620, 1, 4, 0x0, 0x0, 0x80000000, 0x0⟩]

/-- Registers of the tile page. -/
def regsTile : List RegDef := [
  ⟨0x8, 1, 4, 0x0, 0x0, 0x0, 0x3080F54E⟩,
  ⟨0x18, 1, 4, 0x0, 0x0, 0x7FF, 0x0⟩,
  ⟨0x104, 1, 4, 0x0, 0x0, 0xFF, 0x0⟩,
  ⟨0x108, 1, 4, 0x0, 0x0, 0x0, 0x1⟩,
  ⟨0x184, 1, 4, 0x0, 0x0, 0x0, 0x4000000⟩,
  ⟨0x200, 1, 4, 0x0, 0x331F1F, 0x0, 0x20000⟩,
  ⟨0x210, 1, 4, 0x1FFFF, 0x0, 0x0, 0x10380⟩,
  ⟨0x214, 1, 4, 0x0, 0x0, 0x80000000, 0x0⟩,
  ⟨0x218, 1, 4, 0x0, 0x0, 0x80000000, 0x0⟩,
  ⟨0x220, 1, 4, 0xFFFFFFFF, 0x0, 0x0, 0x0⟩,
  ⟨0x224, 1, 4, 0xFFFFFFFF, 0x0, 0x0, 0x0⟩,
  ⟨0x228, 1, 4, 0xFFFF, 0x0, 0x0, 0x0⟩]

/-- Registers of the vec page. -/
def regsVec : List RegDef := [
  ⟨0x8, 1, 4, 0x0, 0x0, 0x0, 0x84022010⟩,
  ⟨0x18, 1, 4, 0x0, 0x0, 0x1F, 0x0⟩,
  ⟨0x104, 1, 4, 0x0, 0x0, 0x7, 0x0⟩,
  ⟨0x10C, 1, 4, 0x0, 0x0, 0x0, 0x4001⟩,
  ⟨0x144, 1, 4, 0x0, 0x0, 0x0, 0x11010⟩,
  ⟨0x150, 1, 4, 0xFFFFFFFF, 0x0, 0x0, 0x0⟩,
  ⟨0x154, 1, 4, 0xFFFFFFFF, 0x0, 0x0, 0x0⟩,
  ⟨0x158, 1, 4, 0xFFFFFFFF, 0x0, 0x0, 0x0⟩,
  ⟨0x15C, 1, 4, 0xFFFFFFFF, 0x0, 0x0, 0x0⟩,
  ⟨0x160, 1, 4, 0x1, 0x0, 0x0, 0x0⟩]

/-- Registers of the dma page. -/
def regsDma : List RegDef := [
  ⟨0x8, 1, 4, 0x0, 0x0, 0x0, 0x82401050⟩,
  ⟨0x18, 1, 4, 0x0, 0x0, 0x3F, 0x0⟩,
  ⟨0x10C, 1, 4, 0x2, 0x0, 0x0, 0x2⟩]

/-- Registers of the pod page. -/
def regsPod : List RegDef := [
  ⟨0x8, 1, 4, 0x0, 0x0, 0x0, 0x4207FF00⟩,
  ⟨0x18, 1, 4, 0x0, 0x0, 0x3F, 0x0⟩,
  ⟨0x100, 1, 4, 0x0, 0x7, 0x0, 0x7⟩,
  ⟨0x108, 1, 4, 0x0, 0x0, 0x0, 0x1⟩,
  ⟨0x10C, 1, 4, 0x0, 0xFFFFFF, 0x0, 0x960⟩]

/-- Registers of the spine page. -/
def regsSpine : List RegDef := [
  ⟨0x100, 1, 4, 0xF801FFFF, 0x0, 0x0, 0x0⟩,
  ⟨0x104, 1, 4, 0xFFFFFFFF, 0x0, 0x0, 0x0⟩,
  ⟨0x108, 1, 4, 0xFFFFFFFF, 0x0, 0x0, 0x0⟩]

/-- Registers of the link page. -/
def regsLink : List RegDef := [
  ⟨0x8, 1, 4, 0x0, 0x0, 0x0, 0x8C8E0000⟩,
  ⟨0x18, 1, 4, 0x0, 0x0, 0x1FF, 0x0⟩,
  ⟨0x100, 1, 4, 0x0, 0x3FFFFF3, 0x0, 0x20000C0⟩,
  ⟨0x10C, 1, 4, 0x0, 0xFF01, 0x0, 0x401⟩,
  ⟨0x110, 1, 4, 0x0, 0x1FFFF, 0x0, 0x15180⟩,
  ⟨0x114, 1, 4, 0x0, 0xFFFFFFFF, 0x0, 0x100000⟩,
  ⟨0x120, 2, 16, 0x0, 0xFFFFFFFF, 0x0, 0x0⟩,
  ⟨0x124, 2, 16, 0x0, 0xFFFF, 0x0, 0x0⟩,
  ⟨0x128, 2, 16, 0x0, 0xFFFFFFFF, 0x0, 0x0⟩,
  ⟨0x12C, 2, 16, 0x0, 0xFFFF, 0x0, 0x0⟩]

/-- Registers of the pcie page. -/
def regsPcie : List RegDef := [
  ⟨0x8, 1, 4, 0x0, 0x0, 0x0, 0x86F7FF0⟩,
  ⟨0x18, 1, 4, 0x0, 0x0, 0x7F, 0x0⟩,
  ⟨0x104, 1, 4, 0x0, 0xFFFFF001, 0x0, 0x0⟩,
  ⟨0x110, 16, 4, 0x0, 0xCF00FFFF, 0x0, 0x0⟩,
  ⟨0x154, 1, 4, 0x0, 0x0, 0x80000000, 0x0⟩]

/-- Registers of the boot page. -/
def regsBoot : List RegDef := [
  ⟨0x8, 1, 4, 0x0, 0x0, 0x0, 0x8180800⟩,
  ⟨0x18, 1, 4, 0x0, 0x0, 0x7, 0x0⟩,
  ⟨0x100, 1, 4, 0x0, 0x0, 0x0, 0x7⟩]

/-- Registers of the sec page. -/
def regsSec : List RegDef := [
  ⟨0x18, 1, 4, 0x0, 0x0, 0xF, 0x0⟩,
  ⟨0x110, 8, 4, 0xFFFFFFFF, 0x0, 0x0, 0x0⟩,
  ⟨0x180, 1, 4, 0x3FFF, 0x0, 0x0, 0x0⟩,
  ⟨0x1C4, 1, 4, 0xFFF, 0x0, 0x0, 0x0⟩,
  ⟨0x1C8, 1, 4, 0xFFFFFFF0, 0x0, 0x0, 0x0⟩,
  ⟨0x1CC, 1, 4, 0xFFFF, 0x0, 0x0, 0x0⟩,
  ⟨0x1E0, 8, 4, 0xFFFFFFFF, 0x0, 0x0, 0x0⟩]

/-- Registers of the mgmt page. -/
def regsMgmt : List RegDef := [
  ⟨0x8, 1, 4, 0x0, 0x0, 0x0, 0x9037004⟩,
  ⟨0x18, 1, 4, 0x0, 0x0, 0x7F, 0x0⟩,
  ⟨0x100, 1, 4, 0x0, 0x3, 0x0, 0x0⟩,
  ⟨0x110, 1, 4, 0x0, 0x3, 0x0, 0x1⟩,
  ⟨0x118, 1, 4, 0x0, 0x0, 0x0, 0xF300FF⟩,
  ⟨0x180, 84, 4, 0x0, 0xF00, 0x0, 0x0⟩,
  ⟨0x300, 1, 4, 0x0, 0xFFFF, 0x0, 0x5F64⟩,
  ⟨0x600, 1, 4, 0x0, 0x7E, 0x0, 0x6⟩]

/-- The register table of a kind of page. -/
def regTable : PageKind → List RegDef
  | .org => regsOrg
  | .ptable => regsPtable
  | .ls => regsLs
  | .vq => regsVq
  | .crit => regsCrit
  | .net => regsNet
  | .pctl => regsPctl
  | .core => regsCore
  | .tile => regsTile
  | .vec => regsVec
  | .dma => regsDma
  | .pod => regsPod
  | .spine => regsSpine
  | .link => regsLink
  | .pcie => regsPcie
  | .boot => regsBoot
  | .sec => regsSec
  | .mgmt => regsMgmt

end Sys2Proof.Machine
end

