-- ==== Sys2Proof/Machine/Ops.lean ====
section
/-! DEFINITION. The named operations over the part's units, registers, events, counters and critical words. -/
namespace Sys2Proof.Machine
open Sys2Proof

/-- The part is powered, released, and not stopped by a thermal trip (R450, R453, R520). -/
def Dev.alive (s : Dev) : Bool := s.pwrok && s.released && !s.tripped

/-- A step of the device, which acts only on a released part. -/
def State.onDev (s : State) (f : Dev → Dev) : State := if s.dev.alive then { s with dev := f s.dev } else s

/-! Units (R20, R22). -/

/-- Core `n`. -/
def Dev.core (s : Dev) (n : Nat) : Core := mget (fun _ => {}) s.cores n
/-- Core `n` replaced. -/
def Dev.setCore (s : Dev) (n : Nat) (c : Core) : Dev := { s with cores := mset (fun _ => {}) s.cores n c }
/-- Core `n` changed. -/
def Dev.modCore (s : Dev) (n : Nat) (f : Core → Core) : Dev := s.setCore n (f (s.core n))
/-- Pod `p`. -/
def Dev.pod (s : Dev) (p : Nat) : Pod := mget (fun _ => {}) s.podz p
/-- Pod `p` changed. -/
def Dev.modPod (s : Dev) (p : Nat) (f : Pod → Pod) : Dev :=
  { s with podz := mset (fun _ => {}) s.podz p (f (s.pod p)) }
/-- Partition `P`. -/
def Dev.part (s : Dev) (P : Nat) : Part := mget (fun _ => {}) s.partz P
/-- Partition `P` changed. -/
def Dev.modPart (s : Dev) (P : Nat) (f : Part → Part) : Dev :=
  { s with partz := mset (fun _ => {}) s.partz P (f (s.part P)) }
/-- Link port `k`. -/
def Dev.link (s : Dev) (k : Nat) : Link := mget (fun _ => {}) s.links k
/-- Link port `k` changed. -/
def Dev.modLink (s : Dev) (k : Nat) (f : Link → Link) : Dev :=
  { s with links := mset (fun _ => {}) s.links k (f (s.link k)) }
/-- A PCIe port. -/
def Dev.port (s : Dev) : Port → PciePort
  | .A => s.portA
  | .B => s.portB
/-- A PCIe port changed. -/
def Dev.modPort (s : Dev) (p : Port) (f : PciePort → PciePort) : Dev :=
  match p with
  | .A => { s with portA := f s.portA }
  | .B => { s with portB := f s.portB }
/-- The vault of core `n` changed. -/
def Dev.modVault (s : Dev) (n : Nat) (f : Vault → Vault) : Dev :=
  s.modCore n fun c => { c with vault := f c.vault }
/-- What leaves the part. -/
def Dev.emit (s : Dev) (o : Out) : Dev := { s with out := s.out ++ [o] }
/-- The next free value (log 13). -/
def Dev.take (s : Dev) : DWord × Dev := (Config.freeValue s.fresh, { s with fresh := s.fresh + 1 })

/-- The pod of a core (R20). -/
def podOf (n : Nat) : Nat := n / 8
/-- A split-weight core (R21). -/
def isSplit (n : Nat) : Bool := n % 8 == 7
/-- Quarter of a core's vault (R26). -/
def quarterOf (n : Nat) : Nat := n / 168

/-! Pages (R421). -/

/-- Core page `j` of core `n`: 0 CORE, 1 ARRAY/TILE, 2 VEC, 3 DMA. -/
def corePg (n j : Nat) : Nat := 0x100 + 4 * n + j
/-- Pod router page. -/
def podPg (p : Nat) : Nat := 0xC00 + p
/-- Link port page. -/
def linkPg (k : Nat) : Nat := 0xD10 + k
/-- PCIe port page. -/
def pciePg (p : Port) : Nat := 0xD20 + p.toNat
/-- Partition control page. -/
def pctlPg (P : Nat) : Nat := 0x40 + P
/-- Network page. -/
def netPg (P : Nat) : Nat := 0x30 + P
/-- Loss-scale page. -/
def lsPg (P : Nat) : Nat := 0x10 + P
/-- Vault quarter page. -/
def vqPg (q : Nat) : Nat := 0x20 + q
/-- The partition table page. -/
def ptPg : Nat := 1
/-- The critical-word page. -/
def critPg : Nat := 0x28
/-- The boot, security and management pages. -/
def bootPg : Nat := 0xD30
def secPg : Nat := 0xD31
def mgmtPg : Nat := 0xD32

/-- The kind and instance of a page; none where no page lies (R421). -/
def pageKind (pg : Nat) : Option (PageKind × Nat) :=
  if pg = 0 then some (.org, 0)
  else if pg = 1 then some (.ptable, 1)
  else if 0x10 ≤ pg ∧ pg < 0x1C then some (.ls, pg - 0x10)
  else if 0x20 ≤ pg ∧ pg < 0x24 then some (.vq, pg - 0x20)
  else if pg = 0x28 then some (.crit, 0x20)
  else if 0x30 ≤ pg ∧ pg < 0x3C then some (.net, pg - 0x30)
  else if 0x40 ≤ pg ∧ pg < 0x4C then some (.pctl, pg - 0x40)
  else if 0x100 ≤ pg ∧ pg < 0xB80 then
    let n := (pg - 0x100) / 4
    match (pg - 0x100) % 4 with
    | 0 => some (.core, n)
    | 1 => some (.tile, n)
    | 2 => some (.vec, n)
    | _ => some (.dma, n)
  else if 0xC00 ≤ pg ∧ pg < 0xC54 then some (.pod, pg - 0xC00)
  else if 0xD00 ≤ pg ∧ pg < 0xD04 then some (.spine, pg - 0xD00)
  else if 0xD10 ≤ pg ∧ pg < 0xD18 then some (.link, pg - 0xD10)
  else if 0xD20 ≤ pg ∧ pg < 0xD22 then some (.pcie, pg - 0xD20)
  else if pg = 0xD30 then some (.boot, 0)
  else if pg = 0xD31 then some (.sec, 0)
  else if pg = 0xD32 then some (.mgmt, 0)
  else none

/-- BLK_ID.TYPE of a kind of page (R9, R421). -/
def typeCode : PageKind → Nat
  | .core => 0x01 | .tile => 0x02 | .vec => 0x03 | .dma => 0x04 | .pod => 0x08 | .link => 0x10
  | .pcie => 0x11 | .spine => 0x12 | .boot => 0x13 | .sec => 0x14 | .mgmt => 0x15 | .vq => 0x16
  | .org | .ptable | .ls | .crit | .net | .pctl => 0x20

/-- BLK_ID.INSTANCE (R421). -/
def instCode (k : PageKind) (i : Nat) : Nat :=
  match k with
  | .ls => 0x10 + i | .net => 0x30 + i | .pctl => 0x40 + i | _ => i

/-- BLK_CTL, which every page has (R8, R11). -/
def blkCtl : RegDef := ⟨0x10, 1, 4, 0x2, 0xFFFF0001, 0x0, 0x1⟩

/-- The row of a table at an offset. -/
def findReg : List RegDef → Nat → Option RegDef
  | [], _ => none
  | d :: l, o => if d.ofs ≤ o ∧ (o - d.ofs) % d.stride = 0 ∧ (o - d.ofs) / d.stride < d.n then some d else findReg l o

/-- The event bits of a page of kind `k`: ACCESS_ERR, and those its chapter defines (R12). -/
def evtMask (k : PageKind) : Nat := 0x80000000 + ((findReg (regTable k) 0x18).map (·.w1c)).getD 0

/-- The row of a page of kind `k` at offset `o`: BLK_EVT and BLK_EVT_EN share one layout (R12). -/
def regDef (k : PageKind) (o : Nat) : Option RegDef :=
  if o = 0x10 then some blkCtl
  else if o = 0x18 then some ⟨0x18, 1, 4, 0, 0, evtMask k, 0⟩
  else if o = 0x1C then some ⟨0x1C, 1, 4, evtMask k, 0, 0, 0⟩
  else findReg (regTable k) o

/-- Register address of offset `o` of a page. -/
def ra (pg o : Nat) : Nat := pg * 4096 + o
/-- A port's own copy of a register. -/
def pra (p : Port) (pg o : Nat) : Nat := ra pg o + p.toNat * 2 ^ 24
/-- A vault's window register (R367). -/
def vra (n o : Nat) : Nat := 2 ^ 27 + n * 2 ^ 12 + o

/-- Reset value of a register (R6 and the register tables). -/
def regDefault (key : Nat) : Word :=
  if 2 ^ 27 ≤ key then
    match findReg regsVq (key % 4096) with
    | some d => w32 d.reset
    | none => 0
  else
    let a := key % 2 ^ 24
    match pageKind (a / 4096) with
    | some (k, _) =>
      match regDef k (a % 4096) with
      | some d => w32 d.reset
      | none => 0
    | none => 0

/-- A stored register. -/
def Dev.reg (s : Dev) (key : Nat) : Word := mget regDefault s.regs key
/-- Its number. -/
def Dev.regN (s : Dev) (key : Nat) : Nat := (s.reg key).toNat
/-- A stored register written. -/
def Dev.setReg (s : Dev) (key : Nat) (v : Word) : Dev := { s with regs := mset regDefault s.regs key v }
/-- A field of a stored register written. -/
def Dev.setFld (s : Dev) (key lo w v : Nat) : Dev :=
  let r := s.regN key
  s.setReg key (w32 (r - fld r lo w * 2 ^ lo + v % 2 ^ w * 2 ^ lo))
/-- Bits of a stored register set. -/
def Dev.orReg (s : Dev) (key : Nat) (m : Word) : Dev := s.setReg key (s.reg key ||| m)
/-- The page is locked (R14). -/
def Dev.locked (s : Dev) (pg : Nat) : Bool := mget (fun _ => false) s.locks pg
/-- The lock of a page written. -/
def Dev.setLock (s : Dev) (pg : Nat) (b : Bool) : Dev := { s with locks := mset (fun _ => false) s.locks pg b }

/-! Critical words (R361 to R365). -/

/-- Bitwise majority of the three copies. -/
def majority (t : Tri) : Word := (t.a &&& t.b) ||| (t.a &&& t.c) ||| (t.b &&& t.c)

/-- Words of a class (R361): the OWNER class has 12 entries and a word per page. -/
def critWords : Nat → Nat
  | 0 => 1
  | 1 => 16
  | 2 => 12 + 0xD33
  | 3 => 24
  | _ => 0

/-- The reset value of a BLK_OWNER (R14, R367, R372, R445, R447): unowned, and SHARED on the pages
both ports see. -/
def ownerReset (pg : Nat) : Nat :=
  match pageKind pg with
  | some (.pcie, m) => m * 16 + 0xF
  | some (.org, _) | some (.ptable, _) | some (.vq, _) | some (.crit, _) | some (.spine, _)
  | some (.link, _) | some (.boot, _) | some (.sec, _) | some (.mgmt, _) => 0x2F
  | _ => 0xF

/-- Reset value of a critical word. -/
def critDefault (key : Nat) : Tri :=
  if 2 * 65536 + 12 ≤ key ∧ key < 3 * 65536 then
    let v := w32 (ownerReset (key - 2 * 65536 - 12))
    ⟨v, v, v⟩
  else if 3 * 65536 ≤ key ∧ key % 2 = 0 then ⟨0x10, 0x10, 0x10⟩
  else ⟨0, 0, 0⟩

/-- The three copies of a critical word. -/
def Dev.tri (s : Dev) (cls w : Nat) : Tri := mget critDefault s.crit (cls * 65536 + w)
/-- The three copies written as they stand. -/
def Dev.setTri (s : Dev) (cls w : Nat) (t : Tri) : Dev :=
  { s with crit := mset critDefault s.crit (cls * 65536 + w) t }
/-- What a read of a critical word returns (R362). -/
def Dev.critR (s : Dev) (cls w : Nat) : Nat := (majority (s.tri cls w)).toNat

/-- A port-table entry (R428, R447). -/
def Dev.ptEntry (s : Dev) (P : Nat) : Nat := s.critR 2 P
/-- BLK_OWNER of a page (R14, R15). -/
def Dev.owner (s : Dev) (pg : Nat) : Nat := s.critR 2 (12 + pg)
/-- The partition that owns core `n`, 15 for none. -/
def Dev.corePart (s : Dev) (n : Nat) : Nat := fld (s.owner (corePg n 0)) 0 4
/-- State of a partition: 0 FREE, 1 CREATING, 2 READY, 3 RELEASING (R447). -/
def Dev.ptState (s : Dev) (P : Nat) : Nat := fld (s.ptEntry P) 30 2
/-- The port that owns a partition. -/
def Dev.ptPort (s : Dev) (P : Nat) : Port := if tb (s.ptEntry P) 29 then .B else .A
/-- The columns of a partition: first and count (R428). -/
def Dev.ptCols (s : Dev) (P : Nat) : Nat × Nat := (fld (s.ptEntry P) 20 4, fld (s.ptEntry P) 16 4)
/-- First core and number of cores of a partition (R428). -/
def Dev.ptCores (s : Dev) (P : Nat) : Nat × Nat := (56 * (s.ptCols P).1, 56 * (s.ptCols P).2)
/-- The cores of a partition. -/
def Dev.coresOf (s : Dev) (P : Nat) : List Nat := upFrom (s.ptCores P).1 (s.ptCores P).2
/-- The pods of a partition. -/
def Dev.podsOf (s : Dev) (P : Nat) : List Nat := upFrom (7 * (s.ptCols P).1) (7 * (s.ptCols P).2)

/-- The page is visible to the port (R422). -/
def Dev.visible (s : Dev) (p : Port) (pg : Nat) : Bool :=
  match pageKind pg with
  | none => false
  | some (.pcie, m) => m == p.toNat
  | some (.ls, _) | some (.net, _) | some (.pctl, _) | some (.core, _) | some (.tile, _)
  | some (.vec, _) | some (.dma, _) | some (.pod, _) =>
    let o := s.owner pg
    fld o 4 1 == p.toNat && decide (fld o 0 4 < 12) && s.ptState (fld o 0 4) == 2
  | some _ => true

/-! Counters (R17, R18, R170). -/

/-- Address of counter `i` of a page. -/
def ctrAddr (pg i : Nat) : Nat := ra pg (0x80 + 8 * i)
/-- The most a counter holds: 48 bits, a stall counter 64 (R17, R176). -/
def ctrMax (a : Nat) : Nat := if a % 4096 < 0x100 then 2 ^ 48 - 1 else 2 ^ 64 - 1
/-- A counter. -/
def Dev.ctr (s : Dev) (a : Nat) : Nat := mget (fun _ => 0) s.ctrs a
/-- A counter counts `n`, unless its page's counters are frozen (R11, R17). -/
def Dev.bumpAt (s : Dev) (a n : Nat) : Dev :=
  if tb (s.regN (ra (a / 4096) 0x10)) 1 then s
  else { s with ctrs := mset (fun _ => 0) s.ctrs a (satAdd (ctrMax a) (s.ctr a) n) }
/-- Counter `i` of a page counts `n`. -/
def Dev.bump (s : Dev) (pg i n : Nat) : Dev := s.bumpAt (ctrAddr pg i) n

/-! Events and MSI-X (R12, R13, R441, R442). -/

/-- The vector of a page. -/
def vectorOf (pg : Nat) : Nat :=
  match pageKind pg with
  | some (.core, n) | some (.tile, n) | some (.vec, n) | some (.dma, n) => n
  | some (.pod, p) => 672 + p
  | some (.ls, P) | some (.net, P) | some (.pctl, P) => 756 + P
  | some (.link, k) => 768 + k
  | some (.pcie, _) => 776
  | some (.vq, q) => 777 + q
  | some (.spine, i) => 781 + i
  | some (.boot, _) => 785
  | some (.sec, _) => 786
  | some (.mgmt, _) => 787
  | some (.ptable, _) => 788
  | some (.crit, _) => 789
  | some (.org, _) => 790
  | none => 2047

/-- The pages of a vector as port `p` sees them. -/
def pagesOf (p : Port) (v : Nat) : List Nat :=
  if v < 672 then upFrom (corePg v 0) 4
  else if v < 756 then [podPg (v - 672)]
  else if v < 768 then [lsPg (v - 756), netPg (v - 756), pctlPg (v - 756)]
  else if v < 776 then [linkPg (v - 768)]
  else if v = 776 then [pciePg p]
  else if v < 781 then [vqPg (v - 777)]
  else if v < 785 then [0xD00 + (v - 781)]
  else if v = 785 then [bootPg]
  else if v = 786 then [secPg]
  else if v = 787 then [mgmtPg]
  else if v = 788 then [ptPg]
  else if v = 789 then [critPg]
  else if v = 790 then [0]
  else []

/-- The vector's condition at a port (R441). -/
def Dev.vecCond (s : Dev) (p : Port) (v : Nat) : Bool :=
  (pagesOf p v).any fun pg => s.visible p pg && (s.reg (ra pg 0x18) &&& s.reg (ra pg 0x1C)) != 0

/-- The MSI-X table word at reset: every vector masked (log 5). -/
def msixDefault (k : Nat) : Word := if k % 4 = 3 then 1 else 0

/-- A port sends a vector's message (R442), which its counter 10 counts (R446). -/
def Dev.sendMsix (s : Dev) (p : Port) (v : Nat) : Dev :=
  let t := (s.port p).msix
  let a := mget msixDefault t (4 * v + 1) ++ mget msixDefault t (4 * v)
  (s.emit (.msix p v a (mget msixDefault t (4 * v + 2)))).bump (pciePg p) 10 1

/-- The vector is masked at the port. -/
def Dev.vecMasked (s : Dev) (p : Port) (v : Nat) : Bool :=
  (mget msixDefault (s.port p).msix (4 * v + 3)).getLsbD 0

/-- A port looks at a vector again: its message goes out, or its pending bit is set, when the condition
rises, or when it still holds after event bits were cleared (R442). -/
def Dev.vecLook (s : Dev) (p : Port) (v : Nat) (again : Bool) : Dev :=
  let holds := s.vecCond p v
  let held := (s.port p).cond.elem v
  let s1 := s.modPort p fun q =>
    { q with cond := if holds then (if held then q.cond else v :: q.cond) else q.cond.filter (· != v) }
  if holds && (again || !held) then
    if s.vecMasked p v then s1.modPort p fun q => { q with pba := if q.pba.elem v then q.pba else v :: q.pba }
    else s1.sendMsix p v
  else s1

/-- Both ports look at the vector of a page. -/
def Dev.pageLook (s : Dev) (pg : Nat) (again : Bool) : Dev :=
  if vectorOf pg < 791 then (s.vecLook .A (vectorOf pg) again).vecLook .B (vectorOf pg) again else s

/-- Event bits of a page rise (R12). -/
def Dev.raise (s : Dev) (pg : Nat) (mask : Word) : Dev := (s.orReg (ra pg 0x18) mask).pageLook pg false

/-- One event bit of a page rises. -/
def Dev.evt (s : Dev) (pg bit : Nat) : Dev := s.raise pg (w32 (2 ^ bit))

/-! Critical words written (R361, R365). -/

/-- A critical word is written in all three copies; an armed flip of that word is applied to its copy
(R365), which then reports itself (R372). -/
def Dev.critW (s : Dev) (cls w v : Nat) : Dev :=
  let sel := s.regN (ra critPg 0x104)
  let x := w32 v
  let scls := if fld sel 24 4 < 4 then fld sel 24 4 else 0
  if tb sel 31 && !tb sel 30 && scls == cls && fld sel 0 16 == w then
    let m := s.reg (ra critPg 0x108)
    let t : Tri :=
      match fld sel 28 2 with
      | 1 => ⟨x, x ^^^ m, x⟩
      | 2 => ⟨x, x, x ^^^ m⟩
      | _ => ⟨x ^^^ m, x, x⟩
    (((s.setTri cls w t).setReg (ra critPg 0x104) (w32 (sel % 2 ^ 31))).bump critPg 2 1).evt critPg 1
  else s.setTri cls w ⟨x, x, x⟩

/-- The copy of a critical word that disagrees with the majority: the lowest where several do (log 27). -/
def Tri.odd (t : Tri) : Option Nat :=
  let m := majority t
  if t.a ≠ m then some 0 else if t.b ≠ m then some 1 else if t.c ≠ m then some 2 else none

/-- A critical word whose copies disagree is repaired (R362). -/
def Dev.critRepair (s : Dev) (key : Nat) (t : Tri) : Dev :=
  match t.odd with
  | none => s
  | some k =>
    let m := majority t
    (((s.setTri (key / 65536) (key % 65536) ⟨m, m, m⟩).setReg (ra critPg 0x100)
      (w32 (2 ^ 31 + key / 65536 * 2 ^ 24 + k * 65536 + key % 65536))).bump critPg 0 1).evt critPg 0

/-- Words that were read, by class x 65536 + word, are repaired where their copies disagree (R362). -/
def Dev.critSeen (s : Dev) (keys : List Nat) : Dev :=
  keys.foldl (fun (s : Dev) k => s.critRepair k (mget critDefault s.crit k)) s

/-- The loss-scale words of a partition (R361). -/
def lsKeys (P : Nat) : List Nat := [3 * 65536 + 2 * P, 3 * 65536 + 2 * P + 1]
/-- The entries of the partition table. -/
def ptKeys : List Nat := upFrom (2 * 65536) Config.parts

/-- A partition-table entry written. -/
def Dev.setPt (s : Dev) (P v : Nat) : Dev := s.critW 2 P v
/-! Clocks (R38, R39, R515). -/

/-- The clocks of core `n` run: its pod has power, is not held in reset, and is not in a gating span. -/
def Dev.clocked (s : Dev) (n : Nat) : Bool :=
  let p := s.pod (podOf n)
  !p.gated && !p.off && !p.held

/-- A step of core `n`, which takes place where its clocks run. -/
def State.onCore (s : State) (n : Nat) (f : Dev → Dev) : State := s.onDev fun d => if d.clocked n then f d else d

/-- A step of the vault controller of core `n`: the hold after a reset does not stop it (R501). -/
def State.onVault (s : State) (n : Nat) (f : Dev → Dev) : State :=
  s.onDev fun d => if (d.pod (podOf n)).gated || (d.pod (podOf n)).off then d else f d

/-- The pod of a page of a core, whose router answers for it when the pod is gone (R38). -/
def pagePod (pg : Nat) : Option Nat :=
  match pageKind pg with
  | some (.core, n) | some (.tile, n) | some (.vec, n) | some (.dma, n) => some (podOf n)
  | _ => none

/-- The cores of the pod answer nothing: it is off, or they are held in reset (R38, R501). -/
def Dev.podGone (s : Dev) (p : Nat) : Bool := (s.pod p).off || (s.pod p).held

/-- The router of pod `p` sends an ABSENT, which it counts (R38, R327, R337). -/
def Dev.absentMark (s : Dev) (p : Nat) : Dev := (s.bump (podPg p) 9 1).evt (podPg p) 1

/-- The block of a page has no power (log 31), or is a core's whose pod is gone. -/
def Dev.pageDark (s : Dev) (pg : Nat) : Bool :=
  match pageKind pg with
  | some (.core, n) | some (.tile, n) | some (.vec, n) | some (.dma, n) => s.podGone (podOf n)
  | some (.link, k) => s.power.linkOff.getLsbD k
  | some (.spine, i) => s.power.spineOff.getLsbD i
  | some (.pcie, m) => if m = 0 then s.portA.off else s.portB.off
  | _ => false

/-- A partition's state written. -/
def Dev.setPtState (s : Dev) (P st : Nat) : Dev := s.setPt P (s.ptEntry P % 2 ^ 30 + st * 2 ^ 30)

end Sys2Proof.Machine
end

