-- ==== Sys2Proof/Machine/Memory.lean ====
section
/-! DEFINITION. Protected words (R130, R131, R349 to R351), the scratchpad and instruction memories
(R127 to R139, R154), and the vaults (R338 to R360). -/
namespace Sys2Proof.Machine
open Sys2Proof

/-! A stored word. -/

/-- What a read finds: nothing wrong, one or two errors, an uncorrectable word, the poison marker. -/
inductive Finding where
  | clean | ce1 | ce2 | ue | marker
  deriving DecidableEq, Repr

/-- Bit errors of a stored word. -/
def MWord.errs (w : MWord) : Nat := pop64 w.eData + popTo 15 w.eChk.toNat

/-- The data of a word as its bits stand. -/
def MWord.raw (w : MWord) : DWord := w.data ^^^ w.eData

/-- The check code's finding (R130, R350, R351); a word with its valid bit clear reports none. A word with more than three
errors that the code miscorrects is counted as a correction of two (DESIGN CHOICE, log 6). -/
def MWord.find (w : MWord) : Finding :=
  if !w.valid then .clean
  else if w.errs = 0 then .clean
  else if w.errs = 1 then .ce1
  else if w.errs = 2 then .ce2
  else if w.eData = 0 ∧ w.eChk = 7 then .marker
  else if w.errs = 3 then .ue
  else match Config.eccBeyond w.data w.eData w.eChk with
    | some _ => .ce2
    | none => .ue

/-- The word a read returns: zero where the valid bit is clear (R130), the corrected data, or the data
marked poisoned. -/
def MWord.value (w : MWord) : PWord :=
  if !w.valid then ⟨0, false⟩
  else match w.find with
    | .clean | .ce1 => ⟨w.data, false⟩
    | .ce2 => if w.errs = 2 then ⟨w.data, false⟩ else ⟨(Config.eccBeyond w.data w.eData w.eChk).getD w.data, false⟩
    | .marker => ⟨w.data, true⟩
    | .ue => ⟨w.raw, true⟩

/-- A word as a full write stores it (R130, R131): a poisoned word as the marker. -/
def freshWord (p : PWord) : MWord := { valid := true, data := p.data, eChk := if p.poison then 7 else 0 }

/-- A corrected word written back. -/
def MWord.fixed (w : MWord) : MWord := freshWord ⟨w.value.data, false⟩

/-- A write under a bit mask (R129, R130, R131, R345): a partial write merges into what the word reads
as, and leaves a poisoned word poisoned. -/
def mergeWord (old : MWord) (mask : DWord) (p : PWord) : MWord :=
  if mask = BitVec.allOnes 64 then freshWord p
  else
    let o := old.value
    freshWord ⟨(o.data &&& ~~~mask) ||| (p.data &&& mask), o.poison || p.poison⟩

/-- A stored word with bits inverted (R134, R364). -/
def MWord.flip (w : MWord) (d : DWord) (chk : BitVec 15) (v : Bool) : MWord :=
  { valid := w.valid != v, data := w.data, eData := w.eData ^^^ d, eChk := w.eChk ^^^ chk }

/-- An empty word. -/
def noWord (_ : Nat) : MWord := {}

/-! The scratchpad. Words are numbered by offset / 8. -/

/-- Bytes of the scratchpad (R127). -/
def spSize : Nat := 0xC0000

/-- A scratchpad word as it reads. -/
def Core.spPeek (c : Core) (i : Nat) : PWord := (mget noWord c.sp i).value

/-- The far-read cache carve-out of SP_CARVE: first byte and end (R135). -/
def carveOf (v : Nat) : Nat × Nat :=
  let r := spSize - fld v 0 5 * 16384
  (r - fld v 8 5 * 16384, r)

/-- The far-read cache carve-out of core `n`. -/
def Dev.carve (s : Dev) (n : Nat) : Nat × Nat := carveOf (s.regN (ra (corePg n 1) 0x200))

/-- First byte of the activation reserve of core `n` (R135). -/
def Dev.reserve (s : Dev) (n : Nat) : Nat := (s.carve n).2

/-- A byte range of the scratchpad meets the carve-out, while there is one (R139). -/
def Dev.inCarve (s : Dev) (n ofs len : Nat) : Bool :=
  let c := s.carve n
  decide (c.1 < c.2) && decide (ofs < c.2) && decide (c.1 < ofs + len) && decide (0 < len)

/-- A byte range leaves the scratchpad. -/
def outSp (ofs len : Nat) : Bool := decide (spSize < ofs + len)

/-- A correction or an uncorrectable word at scratchpad word `i` is counted and recorded (R131, R143). -/
def Dev.spNote1 (s : Dev) (n : Nat) (i : Nat) : Dev :=
  let w := mget noWord (s.core n).sp i
  let pg := corePg n 1
  let ce (s : Dev) (k : Nat) : Dev :=
    (((s.bump pg k 1).setReg (ra pg 0x218) (w32 (2 ^ 31 + 8 * i))).modCore n fun c =>
      { c with spWb := c.spWb ++ [(i, w.fixed)] }).evt pg 5
  match w.find with
  | .clean | .marker => s
  | .ce1 => ce s 11
  | .ce2 => ce s 12
  | .ue => ((s.bump pg 13 1).setReg (ra pg 0x214) (w32 (2 ^ 31 + 8 * i))).evt pg 6

/-- The words read, each noted. -/
def Dev.spNote (s : Dev) (n : Nat) (is : List Nat) : Dev := is.foldl (fun s i => s.spNote1 n i) s

/-- Scratchpad words read: what they hold, and the part with the findings noted. -/
def Dev.spRead (s : Dev) (n : Nat) (is : List Nat) : List PWord × Dev :=
  (is.map (s.core n).spPeek, s.spNote n is)

/-- A stored word put into the scratchpad, through an armed flip (R134); a pending write-back of the word
is dropped (R131). -/
def Dev.spPut (s : Dev) (n i : Nat) (w : MWord) : Dev :=
  let pg := corePg n 1
  let chk := s.regN (ra pg 0x228)
  let put (s : Dev) (w : MWord) : Dev := s.modCore n fun c =>
    { c with sp := mset noWord c.sp i w, spWb := c.spWb.filter fun p => p.1 != i }
  if tb chk 31 then
    let d := s.reg (ra pg 0x224) ++ s.reg (ra pg 0x220)
    ((put s (w.flip d (BitVec.ofNat 15 chk) (tb chk 15))).setReg (ra pg 0x228) (w32 (chk % 2 ^ 31))).evt pg 9
  else put s w

/-- A write of a scratchpad word under a mask (R129 to R131). -/
def Dev.spWrite (s : Dev) (n i : Nat) (mask : DWord) (p : PWord) : Dev :=
  let old := mget noWord (s.core n).sp i
  let s1 := if mask = BitVec.allOnes 64 then s else s.spNote1 n i
  s1.spPut n i (mergeWord old mask p)

/-- Writes to the scratchpad of core `n`; `addr` is the offset. -/
def Dev.spWrites (s : Dev) (n : Nat) (ws : List WWrite) : Dev :=
  ws.foldl (fun s w => s.spWrite n (w.addr / 8) w.mask ⟨w.data, w.poison⟩) s

/-- The 8 B words that `len` bytes from `ofs` touch. -/
def wordsAt (ofs len : Nat) : List Nat := upFrom (ofs / 8) ((ofs + len + 7) / 8 - ofs / 8)

/-- Bytes of the scratchpad from any offset, as a number (little-endian); the words it reads are those
`wordsAt` names. -/
def Core.spBytes (c : Core) (ofs len : Nat) : Nat :=
  let ws := (wordsAt ofs len).map fun i => (c.spPeek i).data.toNat
  let v := ws.foldr (fun w acc => w + 2 ^ 64 * acc) 0
  v / 2 ^ (8 * (ofs % 8)) % 2 ^ (8 * len)

/-- A word of the range is poisoned. -/
def Core.spPoison (c : Core) (ofs len : Nat) : Bool := (wordsAt ofs len).any fun i => (c.spPeek i).poison

/-- Masked writes that put `len` bytes of the number `v` at byte `ofs` of some space. -/
def bytesTo (ofs len v : Nat) : List WWrite :=
  let total := v % 2 ^ (8 * len) * 2 ^ (8 * (ofs % 8))
  let m := (2 ^ (8 * len) - 1) * 2 ^ (8 * (ofs % 8))
  (wordsAt ofs len).map fun i =>
    let sh := 64 * (i - ofs / 8)
    { addr := 8 * i, mask := w64 (m / 2 ^ sh), data := w64 (total / 2 ^ sh) }

/-- The words a list of numbers spells. -/
def pwords (l : List Nat) : List PWord := l.map fun v => ⟨w64 v, false⟩

/-! Vaults. -/

/-- Pseudo-channel of a vault offset (R338). -/
def pcOf (o : Nat) : Nat := 2 * (o / 0x3000000) + o % 0x3000000 / 0x1800000
/-- Bank index of a vault offset (R338). -/
def bankOf (o : Nat) : Nat := 16 * pcOf o + o % 0x3000000 % 0x1800000 / 256 % 16
/-- Bank row of a vault offset (R338). -/
def rowOf (o : Nat) : Nat := o % 0x3000000 % 0x1800000 / 32768
/-- Populated bytes of a vault (R24). -/
def vaultSize : Nat := 0x6000000

/-- A vault word as it reads. -/
def Core.vPeek (c : Core) (i : Nat) : PWord := (mget noWord c.vault.mem i).value

/-- The pseudo-channel of a vault offset is retired (R359). -/
def Core.pcGone (c : Core) (o : Nat) : Bool := c.vault.retired.getLsbD (pcOf o)

/-- A pseudo-channel is retired (R359): its bit rises, with PC_RETIRED; nothing changes when it is already
retired (R360). -/
def Dev.retirePc (s : Dev) (n k : Nat) : Dev :=
  if (s.core n).vault.retired.getLsbD k then s
  else
    ((s.modVault n fun v => { v with retired := v.retired ||| BitVec.ofNat 4 (2 ^ k) }).bump
      (vqPg (quarterOf n)) 10 1).evt (vqPg (quarterOf n)) 4

/-- The counts of pseudo-channel `k` after `ue` and `ce` more errors act on the thresholds (R357, R358). -/
def Dev.pcCount (s : Dev) (n k ue ce : Nat) : Dev :=
  let pg := vqPg (quarterOf n)
  let v := (s.core n).vault
  let u0 := lget 0 v.ue k
  let c0 := lget 0 v.ce k
  let u1 := satAdd 255 u0 ue
  let c1 := satAdd 65535 c0 ce
  let s1 := s.modVault n fun v => { v with ue := lset v.ue k u1, ce := lset v.ce k c1 }
  let thr := s.regN (ra pg 0x188)
  let tu := fld thr 0 8
  let tc := fld thr 16 16
  let hit := (0 < tu && u0 < tu && tu ≤ u1 : Bool) || (0 < tc && c0 < tc && tc ≤ c1 : Bool)
  if hit then
    if tb (s.regN (ra pg 0x184)) 0 then s1.retirePc n k else s1.evt pg 5
  else s1

/-- A corrected vault word: counted, recorded, to be written back (R350). -/
def Dev.vCorrected (s : Dev) (n i : Nat) (w : MWord) : Dev :=
  let pg := vqPg (quarterOf n)
  let s1 := (s.setReg (vra n 0x114) (w32 (2 ^ 31 + 8 * i))).modVault n fun v => { v with wb := v.wb ++ [(i, w.fixed)] }
  (s1.pcCount n (pcOf (8 * i)) 0 1).evt pg 1

/-- A word of a vault access as it was sampled is checked (R350): `reads` of its reads see the noise
bits. What it returns, and the part with the findings counted. -/
def Dev.vCheck (s : Dev) (n i : Nat) (w : MWord) (nd : DWord) (nc : BitVec 15) (reads : Nat) : PWord × Dev :=
  let pg := vqPg (quarterOf n)
  let seen (k : Nat) : MWord := if k < reads ∧ w.valid then { w with eData := w.eData ^^^ nd, eChk := w.eChk ^^^ nc } else w
  let w0 := seen 0
  match w0.find with
  | .clean => (w0.value, s)
  | .ce1 => (w0.value, (s.bump pg 0 1).vCorrected n i w0)
  | .ce2 => (w0.value, (s.bump pg 1 1).vCorrected n i w0)
  | .marker => (w0.value, (s.bump pg 3 1).evt pg 3)
  | .ue =>
    let w1 := seen 1
    let w2 := seen 2
    let again (w : MWord) (s : Dev) : PWord × Dev :=
      match w.find with
      | .marker => (w.value, (s.bump pg 3 1).evt pg 3)
      | .ce1 => (w.value, ((s.bump pg 5 1).bump pg 0 1).vCorrected n i w)
      | .ce2 => (w.value, ((s.bump pg 5 1).bump pg 1 1).vCorrected n i w)
      | _ => (w.value, (s.bump pg 5 1).vCorrected n i w)
    if w1.find ≠ .ue then again w1 (s.bump pg 4 1)
    else if w2.find ≠ .ue then again w2 (s.bump pg 4 2)
    else
      (w2.value, ((((s.bump pg 4 2).bump pg 2 1).setReg (vra n 0x110) (w32 (2 ^ 31 + 8 * i))).pcCount n
        (pcOf (8 * i)) 1 0).evt pg 2)

/-- The words of an access checked in turn. -/
def Dev.vChecks (s : Dev) (n : Nat) (noise : List Noise) : List (Nat × MWord) → List PWord × Dev
  | [] => ([], s)
  | (i, w) :: l =>
    let z := (noise.find? fun x => x.word == i).getD ⟨i, 0, 0, 0⟩
    let r := s.vCheck n i w z.eData z.eChk z.reads
    let q := r.2.vChecks n noise l
    (r.1 :: q.1, q.2)

/-- A stored word put into a vault, through an armed flip (R364); a pending write-back of it is dropped
(R350). -/
def Dev.vPut (s : Dev) (n i : Nat) (w : MWord) : Dev :=
  let chk := s.regN (vra n 0x138)
  let pg := vqPg (quarterOf n)
  let drop := ((s.core n).vault.wb.filter fun p => p.1 == i).length
  let put (s : Dev) (w : MWord) : Dev := (s.modVault n fun v =>
    { v with
      mem := mset noWord v.mem i w
      wb := v.wb.filter fun p => p.1 != i
      pend := v.pend.map fun a => if a.off / 8 ≤ i ∧ i < a.off / 8 + a.raw.length then { a with late := i :: a.late } else a }).bump
      pg 6 drop
  if tb chk 31 then
    let d := s.reg (vra n 0x134) ++ s.reg (vra n 0x130)
    ((put s (w.flip d (BitVec.ofNat 15 chk) (tb chk 15))).setReg (vra n 0x138) (w32 (chk % 2 ^ 31))).evt pg 8
  else put s w

/-- A write of a vault word under a mask (R345). -/
def Dev.vWrite (s : Dev) (n i : Nat) (mask : DWord) (p : PWord) : Dev :=
  let old := mget noWord (s.core n).vault.mem i
  let s1 := if mask = BitVec.allOnes 64 then s else (s.vCheck n i old 0 0 0).2
  s1.vPut n i (mergeWord old mask p)

/-- Writes to the vault of core `n`; `addr` is the offset. -/
def Dev.vWrites (s : Dev) (n : Nat) (ws : List WWrite) : Dev :=
  ws.foldl (fun s w => s.vWrite n (w.addr / 8) w.mask ⟨w.data, w.poison⟩) s

/-- The bank's open row after an access at a vault offset (R340). -/
def Vault.opened (v : Vault) (o : Nat) : Vault := { v with openRow := mset (fun _ => 0) v.openRow (bankOf o) (rowOf o + 1) }
/-- An access at a vault offset of core `n` opens the row. -/
def Dev.openRow (s : Dev) (n o : Nat) : Dev := s.modVault n fun v => v.opened o

/-- Quarter-tier index of a vault offset of core `n`: 2 q + t (R26). -/
def qtOf (n o : Nat) : Nat := 2 * quarterOf n + o / 0x3000000

/-! Device physical addresses (R24, R127, R426). -/

/-- Where a device physical address leads. -/
inductive Place where
  | vault (n o : Nat)
  | spad (n o : Nat)
  | host (m : Nat) (y : Nat)
  | nowhere
  deriving DecidableEq, Repr

/-- The place of an address. Offsets a vault does not have stay with their core (R25). -/
def placeOf (a : Nat) : Place :=
  if a < Config.cores * 0x8000000 then .vault (a / 0x8000000) (a % 0x8000000)
  else if 0x400000000000 ≤ a ∧ a < 0x400000000000 + Config.cores * 0x100000 then
    .spad ((a - 0x400000000000) / 0x100000) ((a - 0x400000000000) % 0x100000)
  else if 0xC00000000000 ≤ a ∧ a < 0xC00000000000 + 2 * 2 ^ 44 then
    .host ((a - 0xC00000000000) / 2 ^ 44) ((a - 0xC00000000000) % 2 ^ 44)
  else .nowhere

/-- Device physical address of a vault offset. -/
def vaultAddr (n o : Nat) : Nat := n * 0x8000000 + o
/-- Device physical address of a scratchpad offset. -/
def spadAddr (n o : Nat) : Nat := 0x400000000000 + n * 0x100000 + o

end Sys2Proof.Machine
end

