-- ==== Sys2Proof/Machine/Net.lean ====
section
/-! DEFINITION. Packets of the Harness: requests, tags, delivery in order, responses (R308 to R330). -/
namespace Sys2Proof.Machine
open Sys2Proof

/-! Endpoints above the cores (log 16). -/

/-- Link port `k`. -/
def epLink (k : Nat) : Nat := 0x400 + k
/-- PCIe port `p`. -/
def epPort (p : Port) : Nat := 0x410 + p.toNat
/-- The management block. -/
def epMgmt : Nat := 0x420
/-- The half of the Block Owner Table in S1 or S2. -/
def epBot (h : Nat) : Nat := 0x421 + h

/-- The virtual channel of a class (R308). -/
def vcOf : PCls → Nat
  | .rdReq | .wrReq | .flagOp | .lookup => 1
  | .rdRsp | .wrAck | .flagAck | .mcAck | .err => 2
  | .rwReq | .mcWr => 3
  | .notice | .seal | .verdictRec => 0

/-- A packet enters the Harness (R313). -/
def Dev.inject (s : Dev) (p : Packet) : Dev := { s with net := s.net ++ [p] }

/-- Packet `k` leaves the Harness. -/
def Dev.dropPkt (s : Dev) (k : Nat) : Dev := { s with net := ldel s.net k }

/-! Order (R313, R319). -/

/-- The sources whose order a packet keeps: its own and, once it is combined, its contributors. -/
def Packet.sources (p : Packet) : List Nat := p.src :: p.con.map (·.1)

/-- The packet is a multicast (R319). -/
def Packet.isMc (p : Packet) : Bool := p.cls == .mcWr || p.cls == .verdictRec

/-- The packet still has to reach endpoint `e`. -/
def Packet.goesTo (p : Packet) (e : Nat) : Bool := if p.isMc then p.targets.elem e else p.dst == e

/-- At endpoint `e`, packet `q` comes before a packet `p` injected later (R313). -/
def Packet.ahead (q p : Packet) (e : Nat) : Bool := q.vc == p.vc && q.goesTo e && q.sources.any p.sources.elem

/-- Packet `k` of the class, for endpoint `e`, when no packet that comes before it there is still on its way. -/
def Dev.arrivedAt (s : Dev) (k : Nat) (cls : PCls) (e : Nat) : Option Packet :=
  match s.net[k]? with
  | none => none
  | some p => if p.cls = cls ∧ p.goesTo e ∧ (s.net.take k).all (fun q => !q.ahead p e) then some p else none

/-- Packet `k` of the class at its destination. -/
def Dev.arrived (s : Dev) (k : Nat) (cls : PCls) : Option Packet :=
  match s.net[k]? with
  | none => none
  | some p => s.arrivedAt k cls p.dst

/-! Routes (R311, R312). Pod `7 c + r` stands in column `c`, row `r`, row 0 in the south. -/

/-- The numbers from `a` to `b`, up or down. -/
def stretch (a b : Nat) : List Nat := if a ≤ b then upFrom a (b + 1 - a) else (upFrom b (a + 1 - b)).reverse

/-- The routers a packet passes between two pods: along the row, then along the column. -/
def route (a b : Nat) : List Nat :=
  (stretch (a / 7) (b / 7)).map (fun c => 7 * c + a % 7) ++ ((stretch (a % 7) (b % 7)).drop 1).map fun r => 7 * (b / 7) + r

/-- The pod by which an endpoint meets the mesh, for traffic with pod `q` (R28, R312): a link port's own pod; for PCIe data
the column of the port's segment that is nearest; for all else of the spine the pod's own column. -/
def meshPod (e q : Nat) : Nat :=
  if e < Config.cores then podOf e
  else if e < 0x404 then 2 * (e - 0x400)
  else if e < 0x408 then 77 + 2 * (e - 0x404)
  else if e = 0x410 ∨ e = 0x411 then 7 * max (3 * (e - 0x40F)) (min (q / 7) (3 * (e - 0x40F) + 2))
  else 7 * (q / 7)

/-- The routers on a packet's way to endpoint `e`. -/
def Packet.way (p : Packet) (e : Nat) : List Nat := route (meshPod p.src (podOf e)) (meshPod e (podOf p.src))

/-- Flits of a packet (R308): the header, and the payload in flits of 32 B. -/
def Packet.flits (p : Packet) : Nat :=
  1 + match p.cls with
    | .rdRsp => max 2 ((p.data.length + 3) / 4)
    | .wrReq | .rwReq => max 2 (p.len / 32)
    | .mcWr => max 1 (p.len / 32)
    | .notice | .seal | .verdictRec => (p.info.length + 7) / 8
    | _ => 0

/-- Which of the mesh ports N, E, S and W leads from router `a` to its neighbour `b` (R305). -/
def meshPort (a b : Nat) : Nat := if b = a + 1 then 0 else if b = a + 7 then 1 else if b + 1 = a then 2 else 3

/-- Flits sent along a way (R337). -/
def Dev.hops (s : Dev) (n : Nat) : List Nat → Dev
  | a :: b :: l => (s.bump (podPg a) (meshPort a b) n).hops n (b :: l)
  | _ => s

/-- Flits received from a core port. -/
def Dev.fromCore (s : Dev) (e n : Nat) : Dev :=
  if e < Config.cores ∧ !s.podGone (podOf e) then s.bump (podPg (podOf e)) 5 n else s
/-- Flits delivered to a core port. -/
def Dev.toCore (s : Dev) (e n : Nat) : Dev :=
  if e < Config.cores ∧ !s.podGone (podOf e) then s.bump (podPg (podOf e)) 4 n else s

/-! Errors in router buffers (R331). -/

/-- The router whose buffer makes the header uncorrectable, if one on the way does. -/
def upsetLost (u : Upset) (way : List Nat) : Option Nat := u.lost.filter way.elem

/-- The packet as it arrives: uncorrectable payload words are poisoned. -/
def upsetMark (u : Upset) (way : List Nat) (p : Packet) : Packet :=
  let hit (i : Nat) : Bool := u.ues.any fun x => way.elem x.1 && x.2 == i
  { p with
    data := (p.data.zip (upFrom 0 p.data.length)).map fun x => { x.1 with poison := x.1.poison || hit x.2 }
    writes := p.writes.map fun w => { w with poison := w.poison || hit (w.addr / 8 - p.addr / 8) } }

/-- What the routers on the way note of corrected and uncorrectable payload words. -/
def Dev.noteUpset (s : Dev) (u : Upset) (way : List Nat) : Dev :=
  let s1 := (u.ces.filter way.elem).foldl (fun (s : Dev) r => (s.bump (podPg r) 13 1).evt (podPg r) 3) s
  (u.ues.filter fun x => way.elem x.1).foldl (fun (s : Dev) x => (s.bump (podPg x.1) 14 1).evt (podPg x.1) 4) s1

/-- Packet `k`, whose header router `r` cannot correct, is discarded. -/
def Dev.headerUe (s : Dev) (k r : Nat) : Dev := ((s.dropPkt k).bump (podPg r) 14 1).evt (podPg r) 5

/-! Delivery. -/

/-- What becomes of a packet at its destination. -/
inductive Taken where
  /-- It waits there. -/
  | wait
  /-- It waits at the head of the core's intake, and what comes behind it waits too (R343). -/
  | head
  /-- It is taken; the part, without the packet. -/
  | took (s : Dev)

/-- A packet other than packet `k` waits at the head of the intake of endpoint `e`. -/
def Dev.behind (s : Dev) (k e : Nat) : Bool := (ldel s.net k).any fun q => q.stuck.elem e

/-- A packet is one of the core's intake (R342): a request on VC1 or VC3. -/
def Packet.isRequest (p : Packet) : Bool := p.vc == 1 || p.vc == 3

/-- The packet, at its destination `e`, has used its way. -/
def Dev.travelled (s : Dev) (p : Packet) (e : Nat) (u : Upset) : Dev :=
  (((s.fromCore p.src p.flits).hops p.flits (p.way e)).toCore e p.flits).noteUpset u (p.way e)

/-- Packet `k` of a class is delivered at its destination, and `f` says what becomes of it there. -/
def Dev.deliver (s : Dev) (k : Nat) (cls : PCls) (u : Upset) (f : Dev → Packet → Taken) : Dev :=
  match s.arrived k cls with
  | none => s
  | some p =>
    match upsetLost u (p.way p.dst) with
    | some r => s.headerUe k r
    | none =>
      if p.isRequest && s.behind k p.dst then s
      else match f (s.dropPkt k) (upsetMark u (p.way p.dst) p) with
        | .wait => s
        | .head => { s with net := lset s.net k { p with stuck := [p.dst] } }
        | .took t => t.travelled p p.dst u

/-! Multicasts (R319, R320). -/

/-- The branch of router `p` by which a copy to core `n` leaves it, none where the copy's way does not meet the router:
0 the cores of the pod, otherwise one more than the mesh port. -/
def Packet.branch (q : Packet) (p n : Nat) : Option Nat :=
  match (q.way n).dropWhile (· != p) with
  | a :: b :: _ => some (meshPort a b + 1)
  | [_] => some 0
  | [] => none

/-- The branches of router `p` that copies of a multicast to the cores `l` leave by. -/
def Packet.branches (q : Packet) (p : Nat) (l : List Nat) : List Nat := (l.filterMap fun n => q.branch p n).eraseDups

/-- Router `p` replicates the multicast, and a copy of it is still to be acknowledged through it: it holds an entry. -/
def Packet.holdsEntry (q : Packet) (p : Nat) : Bool :=
  q.isMc && decide (1 < (q.branches p q.named).length) && !(q.branches p q.targets).isEmpty

/-- Entries of a router that serve a channel. -/
def mcPlaces (vc : Nat) : Nat := if vc = 0 then 4 else 28

/-- Entries that router `p` holds of a channel among the packets `l`. -/
def mcHeld (l : List Packet) (p vc : Nat) : Nat := min (mcPlaces vc) (l.filter fun q => q.vc == vc && q.holdsEntry p).length

/-- Multicast `k` finds no free entry in a router on its way to core `n` (R320). -/
def Dev.mcWaits (s : Dev) (k n : Nat) (p : Packet) : Bool :=
  (p.way n).any fun r => p.holdsEntry r && decide (mcPlaces p.vc ≤ mcHeld (s.net.take k) r p.vc)

/-- The copies of a multicast have all been delivered: every branch has carried it once (R337), and every router that
replicated it has made a copy for each of its branches (log 58). -/
def Dev.mcTravelled (s : Dev) (p : Packet) : Dev :=
  let rs := (p.named.flatMap p.way).eraseDups
  let s1 := rs.foldl (fun (s : Dev) r =>
    let bs := p.branches r p.named
    let s2 := if 1 < bs.length then s.bump (podPg r) 8 bs.length else s
    bs.foldl (fun (s : Dev) b => if b = 0 then s else s.bump (podPg r) (b - 1) p.flits) s2) s
  p.named.foldl (fun (s : Dev) n => s.toCore n p.flits) s1

/-- The copy of multicast `k` for core `n` is delivered; `f` does what it does there, and says the core's error code (R320).
The last copy sends the acknowledgement, with the number of ABSENT answers and the OR of the codes. A header lost on the way
to some cores is never acknowledged for them. -/
def Dev.deliverMc (s : Dev) (k : Nat) (cls : PCls) (n : Nat) (u : Upset) (f : Dev → Packet → Option (Dev × Nat)) : Dev :=
  match s.arrivedAt k cls n with
  | none => s
  | some p =>
    if s.mcWaits k n p then s
    else match upsetLost u (p.way n) with
      | some r =>
        let p1 := { p with targets := p.targets.filter fun m => !(p.way m).elem r, lost := true }
        (({ s with net := lset s.net k p1 }).bump (podPg r) 14 1).evt (podPg r) 5
      | none =>
        if p.isRequest && s.behind k n then s
        else match f s (upsetMark u (p.way n) p) with
          | none => s
          | some (s1, code) =>
            let p1 := { p with
              targets := p.targets.filter (· != n)
              stuck := p.stuck.filter (· != n)
              gone := p.gone + b2n (code == 1)
              code := p.code ||| code }
            let s2 := s1.noteUpset u (p.way n)
            if p1.targets.isEmpty ∧ !p1.lost then
              ((s2.dropPkt k).mcTravelled p).inject
                { cls := .mcAck, vc := 2, dst := p.src, src := n, epoch := p.epoch, tag := p.tag, addr := p.addr, code := p1.code,
                  info := [p1.gone] }
            else { s2 with net := lset s2.net k p1 }

/-- The lowest of 256 tags that `used` does not hold (R309). -/
def lowTag (used : Nat → Bool) : Option Nat := (upFrom 0 256).find? fun t => !used t

/-- The lowest `n` tags that `used` does not hold; none where there are fewer. -/
def lowTags (used : List Nat) (n : Nat) : Option (List Nat) :=
  let l := ((upFrom 0 256).filter fun t => !used.elem t).take n
  if l.length = n then some l else none

/-- The lowest tag that is neither outstanding nor in quarantine (R310, R330). -/
def Core.freeTag (c : Core) : Option Nat := lowTag fun t => (c.reqs.any fun r => r.tag == t) || c.quarantine.any fun r => r.tag == t

/-- FLAG_OPs outstanding (R318). -/
def Core.flagOps (c : Core) : Nat := (c.reqs.filter fun r => r.cls == .flagOp).length

/-- A request enters the Harness from core `n` under tag `t`: the packet carries the epoch of the core's
pod (R328), and the core keeps the request until it is answered. -/
def Dev.request (s : Dev) (n t eng : Nat) (p : Packet) (kind gaddr pc : Nat) (again : Bool) (line : Option Nat) : Dev :=
  (s.modCore n fun c => { c with reqs := c.reqs ++
    [{ tag := t, cls := p.cls, eng := eng, dst := p.dst, addr := p.addr, len := p.len, kind := kind,
       gaddr := gaddr, reissued := again, pc := pc, info := p.info, line := line }] }).inject
    { p with vc := vcOf p.cls, src := n, epoch := (s.pod (podOf n)).epoch, tag := t }

/-- A response to packet `p`, from its destination (R309): it echoes the source's epoch and tag. -/
def respond (p : Packet) (cls : PCls) (code : Nat) (data : List PWord) (info : List Nat) : Packet :=
  { cls := cls, vc := 2, dst := p.src, src := p.dst, epoch := p.epoch, tag := p.tag, addr := p.addr,
    len := p.len, code := code, data := data, info := info }

/-- Error codes of ERR (R327, R488). -/
def errAbsent : Nat := 1
/-- A write refused under R69, R139 or R427. -/
def errRefused : Nat := 2

/-- The responses an answered request owes: one to its source, and one to each contributor (R324). -/
def answers (p : Packet) (cls : PCls) (code : Nat) : List Packet :=
  respond p cls code [] [] ::
    p.con.map fun c => { respond p cls code [] [] with dst := c.1, epoch := c.2.1, tag := c.2.2 }

/-- The router of pod `i` answers ABSENT (R38, R327). -/
def Dev.absentAt (s : Dev) (i : Nat) (p : Packet) : Dev :=
  ({ s with net := s.net ++ answers p .err errAbsent }).absentMark i

/-- Core `n` answers REFUSED, which its router counts (R327, R337). -/
def Dev.refusedAt (s : Dev) (n : Nat) (p : Packet) : Dev :=
  ({ s with net := s.net ++ answers p .err errRefused }).bump (podPg (podOf n)) 10 1

/-- The outstanding request of core `n` that a response answers, unless the response echoes an old epoch
or its tag is in quarantine (R328, R330). -/
def Dev.answered (s : Dev) (n : Nat) (p : Packet) : Option Req :=
  if p.epoch ≠ (s.pod (podOf n)).epoch then none
  else (s.core n).reqs.find? fun r => r.tag == p.tag

/-- A response taken: the request is no longer outstanding. -/
def Dev.closeReq (s : Dev) (n t : Nat) : Dev :=
  s.modCore n fun c => { c with reqs := c.reqs.filter fun r => r.tag != t }

/-- A response discarded: an old epoch counts at the router (R328), a quarantined tag is freed and counts
in its partition (R330, R489). -/
def Dev.discard (s : Dev) (n : Nat) (p : Packet) : Dev :=
  if p.epoch ≠ (s.pod (podOf n)).epoch then (s.bump (podPg (podOf n)) 11 1).evt (podPg (podOf n)) 2
  else if (s.core n).quarantine.any (fun r => r.tag == p.tag) then
    let s1 := s.modCore n fun c => { c with quarantine := c.quarantine.filter fun r => r.tag != p.tag }
    if s.corePart n < 12 then s1.bump (pctlPg (s.corePart n)) 7 1 else s1
  else s

end Sys2Proof.Machine
end

