-- ==== Sys2Proof/Machine/Streams.lean ====
section
/-! DEFINITION. The two instruction streams: issue and waits, draining, faults and their records, flags (R145 to
R178, R221, R298, R299, R438). -/
namespace Sys2Proof.Machine
open Sys2Proof

/-- A stream of a core. -/
def Core.strm (c : Core) : StreamId → Stream
  | .X => c.x
  | .A => c.a
/-- A stream replaced. -/
def Core.setStrm (c : Core) (i : StreamId) (t : Stream) : Core :=
  match i with
  | .X => { c with x := t }
  | .A => { c with a := t }
/-- A stream changed. -/
def Dev.modStrm (s : Dev) (n : Nat) (i : StreamId) (f : Stream → Stream) : Dev :=
  s.modCore n fun c => c.setStrm i (f (c.strm i))

/-- 0 for execute, 1 for access. -/
def sidN : StreamId → Nat
  | .X => 0
  | .A => 1
/-- The other stream. -/
def otherSid : StreamId → StreamId
  | .X => .A
  | .A => .X

/-! Flags (R165, R166, R168). -/

/-- A flag of a core. -/
def Core.flag (c : Core) (f : Nat) : Bool := c.flags.getLsbD f

/-- A flag set, and FLAG_LAST records the source (R168, R177). -/
def Dev.setFlag (s : Dev) (n f kind src : Nat) : Dev :=
  (s.modCore n fun c => { c with flags := c.flags ||| w64 (2 ^ f) }).setReg (ra (corePg n 0) (0x500 + 4 * f))
    (w32 (kind * 1024 + src))

/-- A flag cleared. -/
def Dev.clrFlag (s : Dev) (n f : Nat) : Dev :=
  s.modCore n fun c => { c with flags := c.flags &&& ~~~w64 (2 ^ f) }

/-- A flag set or cleared. -/
def Dev.flagTo (s : Dev) (n f : Nat) (clr : Bool) (kind src : Nat) : Dev :=
  if clr then s.clrFlag n f else s.setFlag n f kind src

/-- The completion flag of an engine's instruction: source 2 tile unit, 3 DMA, 4 gather, 5 vector (R177). -/
def Dev.complete (s : Dev) (n : Nat) (cfe : Bool) (cf src : Nat) : Dev :=
  if cfe then s.setFlag n cf 1 src else s

/-! Gradient overflow (R231, R239), and the outputs of the chain at the head of the vector queue. -/

/-- An overflow notice for the core's open step leaves the core (R239). -/
def Dev.notice (s : Dev) (n : Nat) : Dev :=
  s.inject { cls := .notice, vc := 0, dst := epMgmt, src := n, epoch := (s.pod (podOf n)).epoch,
             info := [((s.core n).updStep + 1).toNat] }

/-- An entry raises gradient overflow, once (R231). -/
def Dev.gradOvf (s : Dev) (n : Nat) (now : Bool) : Dev :=
  if now && !(s.core n).vGovf then
    ((((s.modCore n fun c => { c with vGovf := true }).orReg (ra (corePg n 2) 0x104) 4#32).evt
      (corePg n 2) 4).bump (corePg n 2) 7 1).notice n
  else s

/-- Saturated output elements are counted and stick (R235, R236). -/
def Dev.outSat (s : Dev) (n k : Nat) : Dev :=
  if k = 0 then s else (s.bump (corePg n 2) 9 k).orReg (ra (corePg n 2) 0x104) 1#32

/-- An output joins those on their way, in the order in which they are written. -/
def VOut.join (o : VOut) : List VOut → List VOut
  | [] => [o]
  | x :: l => if o.due < x.due then o :: x :: l else x :: o.join l

/-- An output is written. -/
def Dev.vecWrite (s : Dev) (n : Nat) (o : VOut) : Dev := ((s.spWrites n o.ws).outSat n o.sat).gradOvf n o.ovf

/-- An output goes on its way. -/
def Dev.vecOut (s : Dev) (n : Nat) (o : VOut) : Dev := s.modCore n fun c => { c with vOuts := o.join c.vOuts }

/-- The outputs that are due before core cycle `t` are written; all of them without one. -/
def Dev.vecFlush (s : Dev) (n : Nat) (t : Option Nat) : Dev :=
  let now := (s.core n).vOuts.takeWhile fun o => match t with
    | some c => decide (o.due < c)
    | none => true
  if now.isEmpty then s
  else now.foldl (fun s o => s.vecWrite n o) (s.modCore n fun c => { c with vOuts := c.vOuts.drop now.length })

/-- A request to these scratchpad bytes waits: a wipe runs, or the space is being cleared (R133, R138). -/
def Core.spHeld (c : Core) (ofs len : Nat) : Bool :=
  c.spWiping || c.carveClear.any fun p => decide (ofs < p.2) && decide (p.1 < ofs + len)

/-- An output on its way is held by a wipe or a clear of the scratchpad (R133, R138). -/
def Core.outsHeld (c : Core) : Bool := c.vOuts.any fun o => o.ws.any fun w => c.spHeld w.addr 8

/-! Work that is still to end. -/

/-- No array row, drain or weight load of the core is in flight. -/
def Core.arraysQuiet (c : Core) : Bool :=
  c.arrs.all (fun a => a.rows.isEmpty && !a.loading) && c.drains.isEmpty

/-- Held operations that can no longer hold a stream back: those that wait for abandoned work (R299). -/
def Core.workOpen (c : Core) (i : StreamId) (seq before : Nat) : Bool :=
  match i with
  | .X => c.drains.any (·.work < before) || (c.tq ++ c.tAbandoned).any (fun j => j.store && j.work < before)
      || (c.vq ++ c.vAbandoned).any (·.work < before)
  | .A =>
    let d := (c.dq ++ c.dAbandoned).any fun j => j.kind != .imem && j.work < before
    let g := (c.g0 ++ c.g1 ++ c.gAbandoned0 ++ c.gAbandoned1).any (·.work < before)
    (seq != 2 && d) || (seq != 1 && g)

/-- A remote held operation waits only for writes that could overtake it (R317): a job whose last write is
on its way on VC1 to the flag's own core no longer holds it. -/
def Core.workOpenFor (c : Core) (i : StreamId) (seq before dst : Nat) : Bool :=
  match i with
  | .X => c.workOpen .X seq before
  | .A =>
    let late (j : Job) : Bool := decide (j.work < before) && j.last != some dst
    let d := c.dq.any (fun j => j.kind != .imem && late j) || c.dAbandoned.any fun j => j.work < before
    let g := (c.g0 ++ c.g1).any late || (c.gAbandoned0 ++ c.gAbandoned1).any (·.work < before)
    (seq != 2 && d) || (seq != 1 && g)

/-- The held operation waits for abandoned work. -/
def Core.onAbandoned (c : Core) (i : StreamId) (h : Held) : Bool :=
  match i with
  | .X => c.tAbandoned.any (fun j => j.store && j.work < h.before) || c.vAbandoned.any (·.work < h.before)
  | .A =>
    (h.seq != 2 && c.dAbandoned.any (·.work < h.before)) ||
      (h.seq != 1 && (c.gAbandoned0 ++ c.gAbandoned1).any (·.work < h.before))

/-- Every instruction the stream issued has completed (R150), but for held operations that wait for
abandoned work (R299). -/
def Core.quiet (c : Core) (i : StreamId) : Bool :=
  match i with
  | .X => c.arraysQuiet && c.tq.isEmpty && c.vq.isEmpty && !c.outsHeld && c.x.held.all (c.onAbandoned .X)
      && !(c.reqs.any fun r => r.eng == 3)
  | .A => c.dq.all (·.kind == .imem) && c.g0.isEmpty && c.g1.isEmpty && c.a.held.all (c.onAbandoned .A)
      && !(c.reqs.any fun r => r.eng == 4)

/-! Issue. -/

/-- The outcome of an attempt to issue. -/
inductive Issue where
  /-- The slot waits, for a cause of R169. -/
  | wait (cause : Nat)
  /-- The slot faults. -/
  | fault (f : FRec)
  /-- The slot faults, with an event that stands in the device given. -/
  | faultOn (s : Dev) (f : FRec)
  /-- The slot issues. -/
  | ok (s : Dev)

/-- A core cycle of the stream: every array that still reads a tile register reads on (R47 to R49, R51, log 50). -/
def Stream.tick (t : Stream) : Stream :=
  { t with reading := (t.reading.map fun r => { r with left := r.left - 1 }).filter fun r => 0 < r.left }

/-- The stream does not issue in this core cycle: exactly one stall counter counts (R169), and S_WAIT shows
the cause. -/
def Dev.stall (s : Dev) (n : Nat) (i : StreamId) (slot cause flag : Nat) (ex : Bool) : Dev :=
  (s.modStrm n i fun t => { t.tick with waiting := true, cause := cause, wslot := slot, wflag := flag, wexpect := ex }).bumpAt
    (ra (corePg n 0) (0x200 + 0x80 * sidN i + 8 * cause)) 1

/-- Matched drains of abandoned entries start again from their first entry (R221). -/
def Core.abandonVec (c : Core) (k : Nat) : Core :=
  let gone := c.vq.drop k
  let mine (d : Drain) : Bool := match d.chain with
    | some w => gone.any (·.work == w)
    | none => false
  { c with
    vq := c.vq.take k,
    vAbandoned := c.vAbandoned ++ gone,
    vDrains := (c.vDrains ++ c.drains.filter mine).map (fun d => if mine d then { d with next := 0 } else d),
    drains := c.drains.filter fun d => !mine d }

/-- The header of a `vupd` (R245). -/
def Core.vupdHdr (c : Core) (e : VecEntry) : Nat := c.spBytes e.desc 64
/-- Step numbers compared modulo 2^32 as a signed difference (R238). -/
def stepDiff (a b : Nat) : Int := sfld ((a % 2 ^ 32 + 2 ^ 32 - b % 2 ^ 32) % 2 ^ 32) 0 32
/-- KIND of a `vupd` header. -/
def hdrKind (h : Nat) : Nat := fld h 24 3
/-- TSTEP of a `vupd` header. -/
def hdrStep (h : Nat) : Nat := fld h 32 32
/-- The entry, at the head of the queue, waits for a verdict (R247). -/
def Core.vupdWaits (c : Core) (e : VecEntry) : Bool :=
  let h := c.vupdHdr e
  let d := stepDiff (hdrStep h) c.updStep.toNat
  e.opc == 2 && !outSp e.desc 64 && match hdrKind h with
    | 0 | 2 => decide (0 < d)
    | 1 | 3 => decide (1 < d)
    | 4 => e.sealSent && decide (0 < d)
    | _ => false

/-- The first queued vector entry that expects drain rows no drain was issued for, or waits for a verdict at
the head of the queue (R221, R247). -/
def Core.starved (c : Core) : Option Nat :=
  (upFrom 0 c.vq.length).find? fun k => match c.vq[k]? with
    | some e => (e.drain && decide (e.claimed < e.expect)) || (k == 0 && c.vupdWaits e)
    | none => false

/-- Work of the execute stream that a stop abandons: tile instructions (R125), starved vector entries
and those behind them, and every entry behind one that is abandoned already (R221). -/
def Core.stopX (c : Core) : Core :=
  let c1 := { c with
    tAbandoned := c.tAbandoned ++ c.tq.map (fun (j : TileJob) => { j with started := false, staged := [], writes := [] }),
    tq := [] }
  match (if c1.vAbandoned.isEmpty then c1.starved else some 0) with
  | some k => c1.abandonVec k
  | none => c1

/-- ABORT discards what is abandoned: registers of tile instructions become EMPTY (R150, R221, R298), and the
held operations that depend on it go too (R299). -/
def Core.discardX (c : Core) : Core :=
  let regs := c.tAbandoned.map (·.reg)
  { c with
    x := { c.x with held := c.x.held.filter fun h => !c.onAbandoned .X h },
    tiles := (upFrom 0 16).map (fun r =>
      let t := lget {} c.tiles r
      if regs.elem r then { t with st := .empty } else t),
    tAbandoned := [],
    vAbandoned := [],
    vDrains := c.vDrains.filter fun d => match d.chain with
      | some w => !(c.vAbandoned.any (·.work == w))
      | none => true }
/-- ABORT discards the abandoned instructions of the access stream. -/
def Core.discardA (c : Core) : Core :=
  { c with
    a := { c.a with held := c.a.held.filter fun h => !c.onAbandoned .A h },
    dAbandoned := [], gAbandoned0 := [], gAbandoned1 := [] }

/-- Issue ends: the stream drains towards `target` (R150). -/
def Core.beginDrain (c : Core) (i : StreamId) (target : StreamState) : Core :=
  let t := c.strm i
  let t1 := { t with st := .draining, target := target, waiting := false, ending := none, halting := false,
                     lendable := false }
  let t2 := if t.part then t1 else { t1 with fetched := false, slots := [] }
  let c1 := c.setStrm i t2
  match i, target with
  | .X, .halted => c1
  | .X, .idle => c1.stopX.discardX
  | .X, _ => c1.stopX
  | .A, .idle => c1.discardA
  | .A, _ => c1

/-- A fault of an instruction of the stream (R149, R150, R173): issue ends at once, the target is FAULTED whatever the
stream was draining to, and the first fault is the one recorded. -/
def Core.faultStrm (c : Core) (i : StreamId) (f : FRec) : Core :=
  let t := c.strm i
  let t1 := { t with frec := some (t.frec.getD f) }
  match t.st, i with
  | .running, _ => (c.setStrm i t1).beginDrain i .faulted
  | .draining, .X => (c.setStrm i { t1 with target := .faulted }).stopX
  | .draining, .A => c.setStrm i { t1 with target := .faulted }
  | _, _ => c

/-- A core whose stream stops; entries that leave its vector queue raise ABANDONED (R221, R234). -/
def Dev.modStop (s : Dev) (n : Nat) (f : Core → Core) : Dev :=
  let s1 := s.modCore n f
  if (s1.core n).vq.length < (s.core n).vq.length then s1.evt (corePg n 2) 1 else s1

/-- A stream fault of core `n`. -/
def Dev.faultStrm (s : Dev) (n : Nat) (i : StreamId) (f : FRec) : Dev := s.modStop n fun c => c.faultStrm i f

/-- A fault that no slot of the bundle at issue has met, of an engine or of a request: issue ends at the stream's next
boundary (R125, R149, R318). -/
def Dev.faultEnd (s : Dev) (n : Nat) (i : StreamId) (f : FRec) : Dev :=
  let t := (s.core n).strm i
  if t.st = .running ∧ t.part then
    s.modStrm n i fun t => { t with ending := some .faulted, frec := some (t.frec.getD f) }
  else s.faultStrm n i f

/-- A fault found at issue: S_STAT.PARTIAL and SLOT say which slots of the bundle have issued. -/
def Dev.faultSlot (s : Dev) (n : Nat) (i : StreamId) (slot : Nat) (f : FRec) : Dev :=
  (s.modStrm n i fun t => { t with slot := slot, part := decide (0 < slot) }).faultStrm n i f

/-- The slot has issued. When it was the bundle's last, the stream counts the bundle and stands at its
next slot (R116, R171, R178); its lending timer starts anew (R332). -/
def Core.slotDone (c : Core) (i : StreamId) : Core :=
  let t := c.strm i
  match t.slots with
  | _ :: (k, o) :: rest =>
    c.setStrm i { t with slots := (k, o) :: rest, slot := k, part := true, waiting := false, lendable := false }
  | _ =>
    let t1 := { t.tick with
      slots := [], fetched := false, part := false, slot := 0, pc := t.nextPc, waiting := false, lendable := false,
      issued := satAdd (2 ^ 32 - 1) t.issued 1 }
    let c1 := c.setStrm i t1
    match t.ending, t.halting with
    | some .idle, _ => c1.beginDrain i .idle
    | some .faulted, _ => c1.beginDrain i .faulted
    | _, true => c1.beginDrain i .halted
    | some g, false => c1.beginDrain i g
    | none, false => c1

/-- The slot has issued; a finished bundle or instruction counts in X_BUNDLES or A_INSTRS (R178). -/
def Dev.slotDone (s : Dev) (n : Nat) (i : StreamId) : Dev :=
  let whole := decide (((s.core n).strm i).slots.length ≤ 1)
  let s1 := s.modStop n fun c => c.slotDone i
  if whole then s1.bump (corePg n 0) (sidN i) 1 else s1

/-- The slot that is next to issue: the stream runs, its bundle is fetched, and STOP_AFTER does not hold it. -/
def Core.nextSlot (c : Core) (i : StreamId) : Option (Nat × Op) :=
  let t := c.strm i
  if t.st = .running ∧ t.fetched then t.slots.head? else none

/-- What the stream's next slot waited for is there: the value of its `fwait`, an entry for its `qpop`, a place for its
`qpush` (R164, R167). -/
def Core.waitOver (c : Core) (i : StreamId) : Bool :=
  match c.nextSlot i with
  | some (_, .fwait f e _) => c.flag f == e
  | some (_, .qpop q _ _) => !(lget [] c.queues q).isEmpty
  | some (_, .qpush q _) => decide ((lget [] c.queues q).length < 16)
  | _ => false

/-- The share of core `n` is lent (R333). -/
def Dev.shareLent (s : Dev) (n : Nat) : Bool := (s.pod (podOf n)).lent.getLsbD (n % 8)

/-- The next slot of a stream tries to issue, when it holds an operation `want` accepts, and does what `act` says. A slot
that nothing else holds waits while the core's share is lent (R169, R201, R333). -/
def Dev.issue (s : Dev) (n : Nat) (i : StreamId) (want : Op → Bool) (act : Nat → Op → Issue) : Dev :=
  match (s.core n).nextSlot i with
  | none => s
  | some (k, o) =>
    if !want o then s
    else match act k o with
      | .wait c => match o with
        | .fwait f e _ => s.stall n i k c f e
        | _ => s.stall n i k c 0 false
      | r =>
        if s.shareLent n then s.stall n i k 14 0 false
        else match r with
          | .wait _ => s
          | .fault f => s.faultSlot n i k f
          | .faultOn s1 f => s1.faultSlot n i k f
          | .ok s1 => s1.slotDone n i

/-- A fault record of the stream itself. -/
def recOf (s : Dev) (n : Nat) (i : StreamId) (slot cause engine : Nat) : FRec :=
  { cause := cause, slot := slot, pc := ((s.core n).strm i).pc, engine := engine }

/-! Entering the target state (R150), and fault records (R438, R449). -/

/-- A core has a valid fault record. -/
def Dev.hasFault (s : Dev) (n : Nat) : Bool :=
  tb (s.regN (ra (corePg n 0) 0x600)) 31 || tb (s.regN (ra (corePg n 0) 0x620)) 31

/-- A fault record is filled; a later fault counts as lost (R438, R448). -/
def Dev.record (s : Dev) (n : Nat) (i : StreamId) (f : FRec) (hi : Nat) : Dev :=
  let pg := corePg n 0
  let b := 0x600 + 0x20 * sidN i
  if tb (s.regN (ra pg b)) 31 then s.bump pg 13 1
  else
    let P := s.corePart n
    let info := 2 ^ 31 + b2n f.poison * 2 ^ 30 + f.level % 4 * 2 ^ 28 + b2n f.write * 2 ^ 27 + f.akind % 8 * 2 ^ 24
      + f.cause % 256 * 2 ^ 16 + f.slot % 4 * 2 ^ 14 + f.pc % 4096
    let s1 := ((((s.setReg (ra pg b) (w32 info)).setReg (ra pg (b + 4)) (w32 (P * 65536 + sidN i * 32768 + n))).setReg
      (ra pg (b + 8)) (w32 f.addr)).setReg (ra pg (b + 12)) (w32 (hi + f.addr / 2 ^ 32 % 65536))).setReg
      (ra pg (b + 16)) (w32 f.engine)
    let s2 := s1.bump pg 12 1
    if P < 12 then s2.evt (pctlPg P) 0 else s2

/-- VALID of a fault record cleared (R439). -/
def Dev.clearRecord (s : Dev) (n : Nat) (i : StreamId) : Dev :=
  s.setFld (ra (corePg n 0) (0x600 + 0x20 * sidN i)) 31 1 0

/-- The event bit of a state a stream enters (R175). -/
def enterBit (i : StreamId) : StreamState → Option Nat
  | .halted => some (sidN i)
  | .stopped => some (2 + sidN i)
  | .suspended => some (4 + sidN i)
  | .faulted => some (6 + sidN i)
  | _ => none

/-- A stream enters a state it drained to: the event rises and, for FAULTED, the record is filled. -/
def Dev.enter (s : Dev) (n : Nat) (i : StreamId) (g : StreamState) : Dev :=
  let f := ((s.core n).strm i).frec
  let s1 := s.modStrm n i fun t => { t with st := g, target := .idle, waiting := false, frec := none }
  let s2 := match g, f with
    | .faulted, some r => s1.record n i r 0
    | _, _ => s1
  match enterBit i g with
  | some b => s2.evt (corePg n 0) b
  | none => s2

/-- Either stream of a core runs. -/
def Core.running (c : Core) : Bool := c.x.st == .running || c.a.st == .running
/-- Either stream is RUNNING or DRAINING. -/
def Core.active (c : Core) : Bool :=
  c.running || c.x.st == .draining || c.a.st == .draining

/-- An abandoned instruction (R298): it starts again at the first write that had not taken effect. -/
def Job.again (j : Job) : Job := { j with active := false, staged := [], wait := .none, last := none }

/-- The requests an abandoned instruction has out: their answers find nobody. -/
def Core.orphan (c : Core) (eng : Nat) : Core :=
  { c with
    reqs := c.reqs.map fun r => if r.eng = eng then { r with eng := 6 } else r
    vault := { c.vault with pend := c.vault.pend.map fun a => if a.who = .local eng then { a with who := .local 6 } else a } }

/-- An engine (0 DMA, 1 and 2 gather) abandons its instructions, but for instruction-memory loads (R298). -/
def Core.abandonEng (c : Core) (eng : Nat) : Core :=
  let load : Bool := match c.dq with
    | j :: _ => eng == 0 && j.kind == .imem
    | [] => false
  let c1 := if load then c else c.orphan eng
  match eng with
  | 0 => { c1 with dAbandoned := c1.dAbandoned ++ (c1.dq.filter (·.kind != .imem)).map Job.again,
                   dq := c1.dq.filter (·.kind == .imem) }
  | 1 => { c1 with gAbandoned0 := c1.gAbandoned0 ++ c1.g0.map Job.again, g0 := [] }
  | _ => { c1 with gAbandoned1 := c1.gAbandoned1 ++ c1.g1.map Job.again, g1 := [] }

/-- An engine instruction faults (R298): its stream ends issue, and the engine abandons what it holds. -/
def Dev.faultJob (s : Dev) (n eng : Nat) (f : FRec) : Dev := (s.modCore n fun c => c.abandonEng eng).faultEnd n .A f

end Sys2Proof.Machine
end

