-- ==== Sys2Proof/Machine/Fetch.lean ====
section
/-! DEFINITION. Decoding a fetched bundle or access instruction (R179 to R199). A slot that holds a reserved
opcode, a nonzero reserved field or a reserved value decodes to none: ILLEGAL (R181). Run-time values
are those from before the bundle (R161, R182). -/
namespace Sys2Proof.Machine
open Sys2Proof

/-- The run-time value a selector names (R182). -/
def selVal (c : Core) (i : StreamId) (v : Nat) : Option Nat :=
  if v = 0 then some 0
  else if 8 ≤ v ∧ v < 16 then some (lget 0 (c.strm i).lcnt (v - 8))
  else if 32 ≤ v ∧ i = .X then some (lget 0 (lget [] c.cur ((v - 32) / 8)) (v % 8)).toNat
  else none

/-- A comparison (R160): 0 eq, 1 ne, 2 lt, 3 ge. -/
def cmpHolds (op a b : Nat) : Bool :=
  match op with
  | 0 => a == b
  | 1 => a != b
  | 2 => decide (a < b)
  | _ => decide (b ≤ a)

/-- A branch (R160, R184, R197): its condition, polarity, selector and target. -/
def branchOp (c : Core) (i : StreamId) (cond sel target : Nat) (pol : Bool) : Option Op :=
  match cond with
  | 0 => if sel = 0 then some (.br true target) else none
  | 1 => if sel < 4 then some (.br ((c.strm i).cmp.getLsbD sel == pol) target) else none
  | 2 => some (.brFlag sel pol target)
  | _ => none

/-- The C24 form of the control slot (R184). -/
def decC24 (c : Core) (opc p : Nat) : Option Op :=
  match opc with
  | 0 => if p = 0 then some .nop else none
  | 1 =>
    let l := fld p 17 3
    if tb p 20 then (if fld p 12 5 = 0 then some (.loopStep l (fld p 0 12)) else none)
    else if tb p 16 then
      (if fld p 6 10 = 0 then (selVal c .X (fld p 0 6)).map fun n => .loopSet l n else none)
    else some (.loopSet l (fld p 0 16))
  | 2 =>
    match selVal c .X (fld p 11 6) with
    | none => none
    | some a =>
      if tb p 10 then some (.cmp (fld p 19 2) (cmpHolds (fld p 17 2) a (fld p 0 10)))
      else if fld p 6 4 = 0 then
        (selVal c .X (fld p 0 6)).map fun b => .cmp (fld p 19 2) (cmpHolds (fld p 17 2) a b)
      else none
  | 3 => branchOp c .X (fld p 19 2) (fld p 12 6) (fld p 0 12) (tb p 18)
  | 4 => if fld p 1 2 < 2 ∧ fld p 0 1 = 0 then some (.flag (tb p 20) (fld p 14 6) (tb p 13) (fld p 3 10) (fld p 1 2)) else none
  | 5 => if fld p 0 13 = 0 then some (.fwait (fld p 15 6) (tb p 14) (tb p 13)) else none
  | 6 => if fld p 0 3 = 0 then some (.qpop (fld p 19 2) (tb p 18) (32 * fld p 3 15)) else none
  | _ => if fld p 0 13 = 0 then some (.halt (fld p 13 8) false 0) else none

/-- The C40 form (R184, R185). -/
def decC40 (c : Core) (opc p : Nat) : Option Op :=
  match opc with
  | 1 => if fld p 36 1 = 0 ∧ fld p 32 1 = 0 ∧ fld p 24 8 = 0 then some (.loopSet (fld p 33 3) (fld p 0 24)) else none
  | 2 =>
    if fld p 26 1 = 1 ∧ fld p 24 2 = 0 then
      (selVal c .X (fld p 27 6)).map fun a => .cmp (fld p 35 2) (cmpHolds (fld p 33 2) a (fld p 0 24))
    else none
  | _ => if fld p 21 16 = 0 then decC24 c opc (fld p 0 21) else none

/-- The array slot (R188). -/
def decArray (c : Core) (w : Nat) : Option Op :=
  let p := fld w 0 50
  match fld w 50 3 with
  | 0 => if p = 0 then some .nop else none
  | 1 => if fld p 0 26 = 0 then
      (selVal c .X (fld p 28 6)).map fun v => .wld (fld p 46 4) (fld p 42 4) (fld p 35 7 + 32 * v * fld p 26 2) (tb p 34)
    else none
  | 2 => if fld p 0 46 = 0 then some (.wsw (fld p 46 4)) else none
  | 3 => (selVal c .X (fld p 11 6)).map fun v =>
      .mm false (fld p 46 4) (fld p 42 4) (fld p 35 7 + v * fld p 5 6) (fld p 28 7 + 1) (tb p 27) (tb p 26) (tb p 25)
        (fld p 17 8 + v * fld p 0 5)
  | 4 => if fld p 26 1 = 0 then (selVal c .X (fld p 11 6)).map fun v =>
      .mm true (fld p 46 4) (fld p 42 4) (fld p 35 7 + v * fld p 5 6) (fld p 28 7 + 1) (tb p 27) true (tb p 25)
        (fld p 17 8 + v * fld p 0 5)
    else none
  | 5 => some (.drn (fld p 46 4) (fld p 38 8) (fld p 30 8 + 1) (tb p 29) (tb p 28) (128 * fld p 15 13)
      (128 * fld p 8 7) (128 * fld p 0 8))
  | _ => none

/-- The tile slot (R193). -/
def decTile (c : Core) (w : Nat) : Option Op :=
  let p := fld w 0 46
  let mv (store : Bool) : Option Op := (selVal c .X (fld p 0 6)).map fun v =>
    .tmove store (fld p 42 4) (fld p 35 7) (fld p 28 7 + 1) (32 * (fld p 13 15 + v)) (tb p 12) (fld p 6 6)
  match fld w 46 3 with
  | 0 => if p = 0 then some .nop else none
  | 1 => if fld p 0 17 = 0 then some (.tcfg (fld p 30 16) (fld p 22 8) (fld p 18 4) (tb p 17)) else none
  | 2 => if fld p 0 30 = 0 then some (.trel (fld p 30 16)) else none
  | 3 => mv false
  | 4 => mv true
  | _ => none

/-- The vector slot (R195). -/
def decVector (c : Core) (w : Nat) : Option Op :=
  let p := fld w 0 43
  match fld w 43 3 with
  | 0 => if p = 0 then some .nop else none
  | 1 | 2 | 3 =>
    if fld p 0 4 = 0 then (selVal c .X (fld p 23 6)).map fun v =>
      .vec (fld w 43 3) (64 * fld p 29 14) (v * fld p 11 12) (tb p 10) (fld p 4 6)
    else none
  | _ => none

/-- The four slots of a bundle in program order, absent ones as nop; reserved bits of the template count for
the lowest-numbered absent slot (R179 to R181). -/
def decBundle (c : Core) (b : Nat) : List (Option Op) :=
  let ctl := decC24 c (fld b 123 3) (fld b 102 21)
  match fld b 126 2 with
  | 0 => [ctl, decArray c (fld b 49 53), decTile c (fld b 0 49), some .nop]
  | 1 => [ctl, decArray c (fld b 49 53), if fld b 46 3 = 0 then some .nop else none, decVector c (fld b 0 46)]
  | 2 => [ctl, if fld b 46 7 = 0 then some .nop else none, decTile c (fld b 53 49), decVector c (fld b 0 46)]
  | _ => [decC40 c (fld b 123 3) (fld b 86 37), decArray c (fld b 33 53),
          if fld b 0 33 = 0 then some .nop else none, some .nop]

/-- An access instruction (R197, R198). -/
def decAccess (c : Core) (w : Nat) : Option Op :=
  let sel (v : Nat) : Option Nat := selVal c .A v
  let dma (glb : Bool) : Option Op :=
    match sel (fld w 40 6) with
    | none => none
    | some v =>
      if tb w 0 then
        if fld w 8 32 = 0 then some (.dma glb (64 * (fld w 46 14 + v)) 0 0 (tb w 7) (fld w 1 6)) else none
      else some (.dma glb (64 * fld w 46 14) (32 * v * sfld w 24 16) (32 * v * sfld w 8 16) (tb w 7) (fld w 1 6))
  let gather (sct : Bool) : Option Op :=
    if fld w 0 16 = 0 then (sel (fld w 39 6)).map fun v =>
      .gather sct (fld w 59 1) (64 * fld w 45 14) (4 * v * sfld w 23 16) (tb w 22) (fld w 16 6)
    else none
  let flag (clr : Bool) : Option Op :=
    if fld w 0 41 = 0 then some (.flag clr (fld w 54 6) (tb w 53) (fld w 43 10) (fld w 41 2)) else none
  match fld w 60 4 with
  | 1 => dma false
  | 2 => dma true
  | 3 => gather false
  | 4 => gather true
  | 5 => if fld w 0 21 = 0 then (sel (fld w 37 6)).map fun v =>
      .qpush (fld w 58 2) (32 * ((fld w 43 15 : Int) + v * sfld w 21 16))
    else none
  | 6 => flag false
  | 7 => flag true
  | 8 => if fld w 0 52 = 0 then some (.fwait (fld w 54 6) (tb w 53) (tb w 52)) else none
  | 9 =>
    if tb w 59 then (if fld w 12 44 = 0 then some (.loopStep (fld w 56 3) (fld w 0 12)) else none)
    else if fld w 0 32 = 0 then some (.loopSet (fld w 56 3) (fld w 32 24)) else none
  | 10 =>
    match sel (fld w 50 6) with
    | none => none
    | some a =>
      if fld w 24 25 ≠ 0 then none
      else if tb w 49 then some (.cmp (fld w 58 2) (cmpHolds (fld w 56 2) a (fld w 0 24)))
      else if fld w 6 18 = 0 then (sel (fld w 0 6)).map fun b => .cmp (fld w 58 2) (cmpHolds (fld w 56 2) a b)
      else none
  | 11 => if fld w 12 39 = 0 then branchOp c .A (fld w 58 2) (fld w 51 6) (fld w 0 12) (tb w 57) else none
  | 12 => if fld w 0 36 = 0 then some (.halt (fld w 52 8) (tb w 51) (32 * fld w 36 15)) else none
  | _ => none

/-- Slots paired with their numbers; the number of the first illegal one otherwise. -/
def numberSlots : Nat → List (Option Op) → Except Nat (List (Nat × Op))
  | _, [] => .ok []
  | k, none :: _ => .error k
  | k, some o :: l => match numberSlots (k + 1) l with
    | .ok r => .ok ((k, o) :: r)
    | .error j => .error j

/-- The words of a slot of an instruction memory. -/
def imemWords (c : Core) (i : StreamId) (pc : Nat) : List MWord :=
  match i with
  | .X => [mget noWord c.imemX (2 * pc), mget noWord c.imemX (2 * pc + 1)]
  | .A => [mget noWord c.imemA pc]

/-- The number a fetched slot spells. -/
def imemNat (ws : List MWord) : Nat := ws.foldr (fun w acc => w.value.data.toNat + 2 ^ 64 * acc) 0

/-- STOP_AFTER has been reached (R171). -/
def Dev.stopDue (s : Dev) (n : Nat) (i : StreamId) : Bool :=
  let t := (s.core n).strm i
  t.armed && decide (s.regN (ra (corePg n 0) (0x148 + 0x60 * sidN i)) ≤ t.issued)

/-- A stream fetches and decodes its next bundle or instruction (R154, R173, R181): what is fetched stands
ready for its slots, and a fault stops the stream before any slot issues. -/
def Dev.fetch (s : Dev) (n : Nat) (i : StreamId) : Dev :=
  let c := s.core n
  let t := c.strm i
  let pg := corePg n 0
  if t.st ≠ .running ∨ t.fetched ∨ s.stopDue n i then s
  else if 4096 ≤ t.pc then
    (s.modStrm n i fun t => { t with pc := 0 }).faultSlot n i 0 { cause := 0x13, slot := 0, pc := 0, engine := 0 }
  else
    let ws := imemWords c i t.pc
    if ws.any (fun w => !w.valid) then s.faultSlot n i 0 (recOf s n i 0 0x11 7)
    else if ws.any (fun w => w.value.poison) then
      ((s.bump pg 10 1).evt pg 11).faultSlot n i 0 (recOf s n i 0 0x12 7)
    else
      let s1 := if ws.any (fun w => w.find != .clean) then (s.bump pg 9 1).evt pg 10 else s
      let slots := match i with
        | .X => decBundle c (imemNat ws)
        | .A => [decAccess c (imemNat ws)]
      match numberSlots 0 slots with
      | .ok l => s1.modStrm n i fun t =>
          { t with fetched := true, slots := l, nextPc := t.pc + 1, slot := 0, part := false }
      | .error k =>
        (s1.modStrm n i fun t => { t with slot := k, part := false }).faultStrm n i (recOf s n i k 0x10 0)

end Sys2Proof.Machine
end

