-- ==== Sys2Proof/Machine/Control.lean ====
section
/-! DEFINITION. Commands of the streams (R145 to R178, R186, R187, R197 to R199): fetch, the control slot and the
access stream's own instructions, STREAM_CMD, draining, STOP_AFTER, chains and instruction-memory
loads. -/
namespace Sys2Proof.Machine
open Sys2Proof

/-! Who may write a register (R420, R422). -/

/-- JTAG's DEBUG scope is open (R467, R476): in every life-cycle state but DEPLOYED, and there by token. -/
def Dev.debugOpen (s : Dev) : Bool := s.critR 0 0 % 4 != 2 || s.scopes.getLsbD 1

/-- Every BAR2 write that the port has received has taken effect (R314): none waits for its acknowledgement or for its
translation. -/
def PciePort.settled (q : PciePort) : Bool := q.writes.isEmpty && q.walks.all fun w => !w.write

/-- A register access that reaches a visible page, and whether it acts: the router of a pod that is gone answers it
ABSENT (R38). -/
def Dev.pageGate (s : Dev) (pg : Nat) : Dev × Bool :=
  if s.pageDark pg then
    (match pagePod pg with
      | some p => s.absentMark p
      | none => s, false)
  else (s, true)

/-- Critical words that an access by `w` to a page reads (R362, log 27): the owner of a page that belongs to a partition and the
entry of that partition, for JTAG the life-cycle state; and what the page itself stands for. -/
def Dev.gateKeys (s : Dev) (w : Writer) (pg : Nat) : List Nat :=
  let owned : List Nat := (2 * 65536 + 12 + pg) :: (if fld (s.owner pg) 0 4 < 12 then [2 * 65536 + fld (s.owner pg) 0 4] else [])
  let page : List Nat := match pageKind pg with
    | some (.ls, P) => owned ++ lsKeys P
    | some (.net, _) | some (.pctl, _) | some (.core, _) | some (.tile, _) | some (.vec, _) | some (.dma, _) | some (.pod, _) => owned
    | some (.ptable, _) => ptKeys
    | some (.sec, _) => 0 :: upFrom 65536 16
    | _ => []
  match w with
  | .host _ => page
  | .jtag => 0 :: page
  | .record => []

/-- A register access by `w` and whether it acts: a host's arrives while its port's link is up, and is forwarded once the
BAR2 writes before it have taken effect (R314); it counts at the port, as a hole access where the page is not visible
(R422, R446), and acts only where it reaches the page and the page's block has power (log 31). A boot record acts in
start-up alone, and is no command of its own. -/
def Dev.regGate (s : Dev) (w : Writer) (pg : Nat) : Dev × Bool :=
  match w with
  | .host p =>
    if !(s.port p).up || !(s.port p).settled then (s, false)
    else
      let s1 := (s.bump (pciePg p) 2 1).critSeen (s.gateKeys w pg)
      if !s.visible p pg then (s1.bump (pciePg p) 3 1, false) else s1.pageGate pg
  | .jtag => if s.debugOpen && (pageKind pg).isSome then (s.critSeen (s.gateKeys w pg)).pageGate pg else (s, false)
  | .record => (s, false)

/-- A register access that does `f` where it acts. -/
def Dev.regAccess (s : Dev) (w : Writer) (pg : Nat) (f : Dev → Dev) : Dev :=
  let g := s.regGate w pg
  if g.2 then f g.1 else g.1

/-! Fetch and the control slot. -/

/-- FETCH (R181). -/
def execFetch (core : Nat) (i : StreamId) (s : State) : Host.Outcome State Fault Refusal :=
  .next (s.onCore core fun d => d.fetch core i)

/-- NOP (R180): it issues and has no other effect. -/
def execNop (core : Nat) (i : StreamId) (s : State) : Host.Outcome State Fault Refusal :=
  .next (s.onCore core fun d => d.issue core i (fun o => o == .nop) fun _ _ => .ok d)

/-- `loop` SET (R159). -/
def Dev.loopSet (s : Dev) (core : Nat) (i : StreamId) : Dev :=
  s.issue core i (fun o => match o with | .loopSet _ _ => true | _ => false) fun k o => match o with
    | .loopSet l n =>
      if n = 0 ∨ 16777215 < n then .fault (recOf s core i k 0x14 0)
      else .ok (s.modStrm core i fun t => { t with llim := lset t.llim l n, lcnt := lset t.lcnt l 0 })
    | _ => .ok s

/-- LOOP_SET. -/
def execLoopSet (core : Nat) (i : StreamId) (s : State) : Host.Outcome State Fault Refusal :=
  .next (s.onCore core fun d => d.loopSet core i)

/-- A taken branch or `loop` STEP (R178). -/
def Dev.taken (s : Dev) (core : Nat) (i : StreamId) (target : Nat) : Dev :=
  (s.modStrm core i fun t => { t with nextPc := target }).bump (corePg core 0) (2 + sidN i) 1

/-- `loop` STEP (R159). -/
def Dev.loopStep (s : Dev) (core : Nat) (i : StreamId) : Dev :=
  s.issue core i (fun o => match o with | .loopStep _ _ => true | _ => false) fun _ o => match o with
    | .loopStep l target =>
      let t := (s.core core).strm i
      if lget 0 t.lcnt l + 1 < lget 0 t.llim l then
        .ok ((s.modStrm core i fun t => { t with lcnt := lset t.lcnt l (lget 0 t.lcnt l + 1) }).taken core i target)
      else .ok (s.modStrm core i fun t => { t with lcnt := lset t.lcnt l (lget 0 t.llim l) })
    | _ => .ok s

/-- LOOP_STEP. -/
def execLoopStep (core : Nat) (i : StreamId) (s : State) : Host.Outcome State Fault Refusal :=
  .next (s.onCore core fun d => d.loopStep core i)

/-- A comparator written. -/
def setCmp (v : BitVec 4) (k : Nat) (b : Bool) : BitVec 4 :=
  let m := BitVec.ofNat 4 (2 ^ k)
  if b then v ||| m else v &&& ~~~m

/-- `cmp` (R160). -/
def Dev.cmpOp (s : Dev) (core : Nat) (i : StreamId) : Dev :=
  s.issue core i (fun o => match o with | .cmp _ _ => true | _ => false) fun _ o => match o with
    | .cmp c b => .ok (s.modStrm core i fun t => { t with cmp := setCmp t.cmp c b })
    | _ => .ok s

/-- CMP. -/
def execCmp (core : Nat) (i : StreamId) (s : State) : Host.Outcome State Fault Refusal :=
  .next (s.onCore core fun d => d.cmpOp core i)

/-- `br` (R160). -/
def Dev.branch (s : Dev) (core : Nat) (i : StreamId) : Dev :=
  s.issue core i (fun o => match o with | .br _ _ | .brFlag _ _ _ => true | _ => false) fun _ o => match o with
    | .br b target => .ok (if b then s.taken core i target else s)
    | .brFlag f pol target => .ok (if (s.core core).flag f = pol then s.taken core i target else s)
    | _ => .ok s

/-- BR. -/
def execBr (core : Nat) (i : StreamId) (s : State) : Host.Outcome State Fault Refusal :=
  .next (s.onCore core fun d => d.branch core i)

/-- A remote flag operation enters the core's VC1 queue (R315, R316): none where 16 are outstanding (R318) or
no tag is free (R310). -/
def Dev.sendFlagOp (s : Dev) (core : Nat) (i : StreamId) (clr : Bool) (f dst pc : Nat) : Option Dev :=
  let c := s.core core
  if 16 ≤ c.flagOps then none
  else c.freeTag.map fun t => s.request core t (3 + sidN i)
    { cls := .flagOp, vc := 1, dst := dst, src := core, addr := f, op := b2n clr } 0 0 pc false none

/-- `fset` and `fclr` (R187). -/
def Dev.flagInstr (s : Dev) (core : Nat) (i : StreamId) (which : Bool) : Dev :=
  s.issue core i (fun o => match o with | .flag clr _ _ _ _ => clr == which | _ => false) fun k o => match o with
    | .flag clr f remote dst seq =>
      let P := s.corePart core
      let t := (s.core core).strm i
      if remote && (decide (Config.cores ≤ dst) || s.corePart dst != P || decide (12 ≤ P)) then
        .fault (recOf s core i k 0x16 0)
      else
        let far := remote && dst != core
        let s1 := if clr then s else s.bump (corePg core 0) 6 1
        if seq = 0 then
          if far then match s1.sendFlagOp core i clr f dst t.pc with
            | none => .wait 9
            | some s2 => .ok s2
          else .ok (s1.flagTo core f clr 1 (sidN i))
        else
          .ok (s1.modCore core fun c => c.setStrm i { c.strm i with held := (c.strm i).held ++
            [{ clr := clr, flag := f, remote := far, core := dst, seq := seq, before := c.work, pc := t.pc }] })
    | _ => .ok s

/-- FSET. -/
def execFset (core : Nat) (i : StreamId) (s : State) : Host.Outcome State Fault Refusal :=
  .next (s.onCore core fun d => d.flagInstr core i false)
/-- FCLR. -/
def execFclr (core : Nat) (i : StreamId) (s : State) : Host.Outcome State Fault Refusal :=
  .next (s.onCore core fun d => d.flagInstr core i true)

/-- The held operation that may apply: the first that does not wait for abandoned work, when what its SEQ
names has been written (R187, R299, R317). -/
def Core.release (c : Core) (i : StreamId) : Option Held :=
  match (c.strm i).held.find? fun h => !c.onAbandoned i h with
  | none => none
  | some h =>
    if h.remote then (if c.workOpenFor i h.seq h.before h.core then none else some h)
    else if c.workOpen i h.seq h.before then none else some h

/-- A held operation applies, as a completion set of the core's engines, or enters the VC1 queue (R187,
R317). FLAG_LAST then records the stream whose operation it is (DESIGN CHOICE, log 51: R177 has no SOURCE code for it). -/
def Dev.seqRelease (s : Dev) (core : Nat) (i : StreamId) : Dev :=
  match (s.core core).release i with
  | none => s
  | some h =>
    let s1 := s.modStrm core i fun t => { t with held := t.held.erase h }
    if h.remote then (s1.sendFlagOp core i h.clr h.flag h.core h.pc).getD s
    else s1.flagTo core h.flag h.clr 1 (sidN i)

/-- SEQ_OP_RELEASE. -/
def execSeqOpRelease (core : Nat) (i : StreamId) (s : State) : Host.Outcome State Fault Refusal :=
  .next (s.onCore core fun d => d.seqRelease core i)

/-- `fwait` (R167). -/
def Dev.flagWait (s : Dev) (core : Nat) (i : StreamId) : Dev :=
  s.issue core i (fun o => match o with | .fwait _ _ _ => true | _ => false) fun _ o => match o with
    | .fwait f e auto =>
      if (s.core core).flag f = e then .ok (if auto && e then s.clrFlag core f else s) else .wait 8
    | _ => .ok s

/-- FWAIT. -/
def execFwait (core : Nat) (i : StreamId) (s : State) : Host.Outcome State Fault Refusal :=
  .next (s.onCore core fun d => d.flagWait core i)

/-! Data queues (R163, R164). -/

/-- The range checks of queue accesses (R163): TILE_RANGE, then SP_CARVE. -/
def Dev.lspFault (s : Dev) (n : Nat) (ofs : Int) (len : Nat) : Option Nat :=
  if ofs < 0 ∨ spSize < ofs.toNat + len then some 0x2A
  else if s.inCarve n ofs.toNat len then some 0x2D
  else none

/-- A record with a scratchpad address. -/
def FRec.at (f : FRec) (kind addr : Nat) (write poison : Bool) : FRec :=
  { f with akind := kind, addr := addr, write := write, poison := poison }

/-- `qpush` (R163, R164). -/
def Dev.qpush (s : Dev) (core : Nat) : Dev :=
  s.issue core .A (fun o => match o with | .qpush _ _ => true | _ => false) fun k o => match o with
    | .qpush q src =>
      let c := s.core core
      if 16 ≤ (lget [] c.queues q).length then .wait 4
      else if c.spHeld src.toNat 256 then .wait 6
      else match s.lspFault core src 256 with
        | some f => .fault ((recOf s core .A k f 0).at 1 (src.toNat) false false)
        | none =>
          let r := s.spRead core (wordsAt src.toNat 256)
          .ok ((r.2.modCore core fun c => { c with queues := lset c.queues q (lget [] c.queues q ++ [r.1]) }).bump
            (corePg core 0) 4 1)
    | _ => .ok s

/-- QPUSH. -/
def execQpush (core : Nat) (s : State) : Host.Outcome State Fault Refusal :=
  .next (s.onCore core fun d => d.qpush core)

/-- Writes by a source other than `drn`, `tst`, vector outputs and the DMA engine: what falls in the
activation reserve while a stream runs is refused and counts (R69, R141, R144). -/
def Dev.spWritesOther (s : Dev) (n : Nat) (ws : List WWrite) : Dev :=
  let r := s.reserve n
  if (s.core n).running && ws.any (fun w => decide (r ≤ w.addr)) then
    ((s.spWrites n (ws.filter fun w => w.addr < r)).bump (corePg n 1) 15 1).evt (corePg n 1) 10
  else s.spWrites n ws

/-- The current words an entry gives (R163). -/
def currentOf (e : QEntry) : List Word :=
  (e.take 4).flatMap fun w => [w32 w.data.toNat, w32 (w.data.toNat / 2 ^ 32)]

/-- `qpop` (R163, R164). -/
def Dev.qpop (s : Dev) (core : Nat) : Dev :=
  s.issue core .X (fun o => match o with | .qpop _ _ _ => true | _ => false) fun k o => match o with
    | .qpop q d dst =>
      let c := s.core core
      match lget [] c.queues q with
      | [] => .wait 5
      | e :: rest =>
        if d && c.spHeld dst 256 then .wait 6
        else match (if d then s.lspFault core (dst : Int) 256 else none) with
        | some f => .fault ((recOf s core .X k f 0).at 1 dst true false)
        | none =>
          if (e.take 4).any (·.poison) then .fault (recOf s core .X k 0x2E 0)
          else
            let s1 := (s.modCore core fun c => { c with
              queues := lset c.queues q rest, cur := lset c.cur q (currentOf e),
              curValid := c.curValid ||| BitVec.ofNat 4 (2 ^ q) }).bump (corePg core 0) 5 1
            .ok (if d then s1.spWritesOther core ((upFrom 0 32).map fun j =>
                { addr := dst + 8 * j, mask := BitVec.allOnes 64, data := (lget {} e j).data, poison := (lget {} e j).poison })
              else s1)
    | _ => .ok s

/-- QPOP. -/
def execQpop (core : Nat) (s : State) : Host.Outcome State Fault Refusal :=
  .next (s.onCore core fun d => d.qpop core)

/-! Halt, chains and loads (R153 to R158). -/

/-- `halt` (R153, R158). -/
def Dev.haltOp (s : Dev) (core : Nat) (i : StreamId) : Dev :=
  s.issue core i (fun o => match o with | .halt _ _ _ => true | _ => false) fun k o => match o with
    | .halt code chain rcd =>
      if chain && (decide (spSize < rcd + 32) || s.inCarve core rcd 32) then
        .fault ((recOf s core i k 0x15 0).at 1 rcd false false)
      else
        .ok (s.modCore core fun c =>
          let c1 := c.setStrm i { c.strm i with haltCode := code, halting := true }
          if chain then { c1 with chain := some { record := rcd } } else c1)
    | _ => .ok s

/-- HALT. -/
def execHalt (core : Nat) (i : StreamId) (s : State) : Host.Outcome State Fault Refusal :=
  .next (s.onCore core fun d => d.haltOp core i)

/-- A load or chain ends with a result other than OK (R156). -/
def Dev.loadFail (s : Dev) (core res : Nat) : Dev :=
  (s.modCore core fun c => { c with imemResult := res, chain := none }).evt (corePg core 0) 9

/-- A pending chain is cancelled (R158); a load it has in progress stops where it stands (log 25). -/
def Dev.cancelChain (s : Dev) (core : Nat) : Dev :=
  if (s.core core).chain.isSome then
    ((s.modCore core fun c => { c with
      imemDone := match c.dq.find? (·.chain) with
        | some j => j.pos
        | none => c.imemDone,
      dq := c.dq.filter fun j => !j.chain }).loadFail core 6)
  else s

/-- A load in progress on a core: for one stream, or for any. -/
def Core.loading (c : Core) (i : StreamId) : Bool := c.dq.any fun j => j.kind == .imem && j.strm == i

/-- The stream starts (R152): `clear` when the other stream was IDLE or HALTED. -/
def Dev.startStrm (s : Dev) (n : Nat) (i : StreamId) (pc : Nat) (clear : Bool) : Dev :=
  let s1 := s.modCore n fun c =>
    let c1 := c.setStrm i { st := .running, pc := pc, haltCode := (c.strm i).haltCode, reading := (c.strm i).reading,
                            armed := s.reg (ra (corePg n 0) (0x148 + 0x60 * sidN i)) != 0 }
    if clear then { c1 with queues := [[], [], [], []],
                            cur := [[0, 0, 0, 0, 0, 0, 0, 0], [0, 0, 0, 0, 0, 0, 0, 0],
                                    [0, 0, 0, 0, 0, 0, 0, 0], [0, 0, 0, 0, 0, 0, 0, 0]],
                            curValid := 0 }
    else c1
  { s1 with ctrs := mclear s1.ctrs (ra (corePg n 0) (0x200 + 0x80 * sidN i)) (ra (corePg n 0) (0x280 + 0x80 * sidN i)) }

/-- IDLE or HALTED. -/
def Stream.atRest (t : Stream) : Bool := t.st == .idle || t.st == .halted

/-- A load enters the DMA engine behind every accepted descriptor (R155, R282). -/
def Dev.pushLoad (s : Dev) (core : Nat) (i : StreamId) (slot count src : Nat) (chain : Bool) : Dev :=
  s.modCore core fun c => { c with
    imemDone := 0
    dq := c.dq ++ [{ kind := .imem, desc := 0, strm := i, slot := slot, count := count, src := src, chain := chain }] }

/-- A word of the chain record (R158). -/
def Chain.field (h : Chain) (ofs len : Nat) : Nat :=
  let v := h.words.foldr (fun w acc => w.toNat + 2 ^ 64 * acc) 0
  v / 2 ^ (8 * ofs) % 2 ^ (8 * len)

/-- The chain starts the streams its record names (R152, R158). -/
def Dev.chainRun (s : Dev) (core : Nat) (h : Chain) : Dev :=
  let c := s.core core
  let st := h.field 24 1
  let s1 := s.modCore core fun c => { c with chain := none, imemResult := 0 }
  let s2 := if tb st 0 && c.x.atRest then s1.startStrm core .X (h.field 20 2 % 4096) c.a.atRest else s1
  if tb st 1 && c.a.atRest then s2.startStrm core .A (h.field 22 2 % 4096) c.x.atRest else s2

/-- A chain's load of `count` slots: refused as any load is (R156), which ends the chain, or in phase `p` under way. -/
def Dev.chainLoad (s : Dev) (core : Nat) (h : Chain) (i : StreamId) (p count src : Nat) : Dev :=
  if (s.core core).dq.any (·.kind == .imem) then s.loadFail core 1
  else if !((s.core core).strm i).atRest then s.loadFail core 2
  else if 4096 < count then s.loadFail core 3
  else (s.modCore core fun c => { c with chain := some { h with phase := p } }).pushLoad core i 0 count (src / 64 * 64) true

/-- A chain goes on to its next load, or to its start (R158). -/
def Dev.chainNext (s : Dev) (core : Nat) (h : Chain) (from1 : Bool) : Dev :=
  let xc := h.field 16 2
  let ac := h.field 18 2
  if from1 && decide (0 < xc) then s.chainLoad core h .X 1 xc (h.field 0 6)
  else if 0 < ac then s.chainLoad core h .A 2 ac (h.field 8 6)
  else s.chainRun core h

/-- A chain whose record is read waits for the execute stream (R158). -/
def Dev.chainWait (s : Dev) (core : Nat) (h : Chain) : Dev :=
  if (s.core core).x.atRest then s.chainNext core h true
  else s.modCore core fun c => { c with chain := some { h with phase := 4 } }

/-- A chain proceeds (R158): once the access stream is HALTED it reads its record, once the execute stream is IDLE or HALTED
it loads, and after its loads it starts the streams. A record that has come to lie in the far-read cache carve-out is an
access refused (R139), which ends the chain as an error response does (log 53). -/
def Dev.chainStart (s : Dev) (core : Nat) : Dev :=
  let c := s.core core
  match c.chain with
  | none => s
  | some h =>
    if c.a.st ≠ .halted then s
    else match h.phase with
      | 0 =>
        if c.spHeld h.record 32 then s
        else if s.inCarve core h.record 32 then s.loadFail core 7
        else
          let r := s.spRead core (wordsAt h.record 32)
          if r.1.any (·.poison) then r.2.loadFail core 5
          else r.2.chainWait core { h with words := r.1.map (·.data) }
      | 4 => s.chainWait core h
      | 3 => if c.x.atRest then s.chainRun core h else s
      | _ => s

/-- CHAIN_START. -/
def execChainStart (core : Nat) (s : State) : Host.Outcome State Fault Refusal :=
  .next (s.onCore core fun d => d.chainStart core)

/-- A recovery of the core's partition runs (R496). -/
def Dev.recovering (s : Dev) (n : Nat) : Bool :=
  let P := s.corePart n
  decide (P < 12) && (s.part P).hang.isSome

/-- A write of IMEM_LOAD (R155, R156). -/
def Dev.imemLoad (s : Dev) (core : Nat) (v : Word) : Dev :=
  let pg := corePg core 0
  let s1 := s.setReg (ra pg 0x408) (v &&& 0x1FFF1FFF#32)
  if !v.getLsbD 31 then s1
  else
    let c := s.core core
    let i : StreamId := if v.getLsbD 28 then .A else .X
    let slot := fld v.toNat 16 12
    let count := fld v.toNat 0 13
    let refuse (r : Nat) : Dev := (s1.modCore core fun c => { c with imemResult := r }).evt pg 9
    if s.recovering core || c.chain.isSome || c.dq.any (·.kind == .imem) then refuse 1
    else if !(c.strm i).atRest then refuse 2
    else if count = 0 ∨ 4096 < slot + count then refuse 3
    else (s1.modCore core fun c => { c with imemResult := 0 }).pushLoad core i slot count
      (s.regN (ra pg 0x400) + 2 ^ 32 * s.regN (ra pg 0x404)) false

/-- IMEM_LOAD. -/
def execImemLoad (w : Writer) (core : Nat) (v : Word) (s : State) : Host.Outcome State Fault Refusal :=
  .next (s.onDev fun d => d.regAccess w (corePg core 0) fun d => d.imemLoad core v)

/-- A load that has written its last slot, or met its end, leaves the DMA engine and reports (R156, R158). -/
def Dev.imemLoadDone (s : Dev) (core : Nat) : Dev :=
  let c := s.core core
  match c.dq with
  | j :: rest =>
    if j.kind = .imem ∧ (j.pos = j.count ∨ j.res ≠ 0) then
      let s1 := s.modCore core fun c => { c with dq := rest, imemDone := j.pos }
      if j.res ≠ 0 then s1.loadFail core j.res
      else
        let s2 := (s1.modCore core fun c => { c with imemResult := 0 }).evt (corePg core 0) 8
        match c.chain with
        | some h =>
          if !j.chain then s2
          else if h.phase = 1 ∧ 0 < h.field 18 2 then s2.chainNext core h false
          else s2.modCore core fun c => { c with chain := some { h with phase := 3 } }
        | none => s2
    else s
  | [] => s

/-- IMEM_LOAD_DONE. -/
def execImemLoadDone (core : Nat) (s : State) : Host.Outcome State Fault Refusal :=
  .next (s.onCore core fun d => d.imemLoadDone core)

/-! STREAM_CMD (R151, R152). -/

/-- What a command code comes to on a stream: a result code of R176, as the streams stand before the write. -/
def Dev.cmdResult (s : Dev) (n : Nat) (i : StreamId) (cmd : Nat) : Nat :=
  let c := s.core n
  let t := c.strm i
  if c.retired then 2
  else if s.recovering n then 1
  else match cmd with
    | 1 => if !t.atRest then 1 else if c.loading i then 3 else 0
    | 2 => if t.st = .running ∧ !t.halting ∧ t.ending ≠ some .faulted ∧ !(s.stopDue n i && !t.part) then 0 else 1
    | 3 => if t.st = .stopped ∨ t.st = .suspended ∨ t.st = .faulted then 0 else 1
    | _ => if t.st = .idle then 1 else 0

/-- Abandoned work of a stream takes its place again (R125, R221, R298): descriptors behind an instruction-memory load that
runs. -/
def Core.restart (c : Core) (i : StreamId) : Core :=
  match i with
  | .X => { c with
      tq := c.tAbandoned, tAbandoned := [],
      vq := c.vAbandoned.map fun e => { opc := e.opc, desc := e.desc, rowofs := e.rowofs, cfe := e.cfe, cf := e.cf,
                                         work := e.work, pc := e.pc, drain := e.drain, expect := e.expect,
                                         claimed := e.claimed },
      vAbandoned := [],
      drains := c.drains ++ c.vDrains.filter (fun d => c.vAbandoned.any fun e => d.chain == some e.work),
      vDrains := c.vDrains.filter (fun d => !c.vAbandoned.any fun e => d.chain == some e.work) }
  | .A => { c with
      dq := (match c.dq with
        | j :: rest => if j.active then j :: (c.dAbandoned ++ rest) else c.dAbandoned ++ c.dq
        | [] => c.dAbandoned)
      dAbandoned := [],
      g0 := c.gAbandoned0 ++ c.g0, gAbandoned0 := [], g1 := c.gAbandoned1 ++ c.g1, gAbandoned1 := [] }

/-- An accepted command acts on its stream. -/
def Dev.cmdAct (s : Dev) (n : Nat) (i : StreamId) (cmd : Nat) (otherRest : Bool) : Dev :=
  let pg := corePg n 0
  match cmd with
  | 1 => s.startStrm n i (s.regN (ra pg (0x144 + 0x60 * sidN i)) % 4096) otherRest
  | 2 => s.modStop n fun c =>
      if (c.strm i).part then c.setStrm i { c.strm i with ending := some ((c.strm i).ending.getD .suspended) }
      else c.beginDrain i .suspended
  | 3 =>
    let c := s.core n
    let s1 := (s.clearRecord n i).modCore n fun c => (c.restart i).setStrm i { c.strm i with st := .running, waiting := false, armed := false }
    match i with
    | .X =>
      let s2 := (s1.bump (corePg n 1) 8 c.tAbandoned.length).bump (corePg n 2) 8 c.vAbandoned.length
      if c.vAbandoned.isEmpty then s2 else s2.evt (corePg n 2) 0
    | .A =>
      let k := c.dAbandoned.length + c.gAbandoned0.length + c.gAbandoned1.length
      if k = 0 then s1 else (s1.bump (corePg n 3) 13 k).evt (corePg n 3) 2
  | _ => (s.clearRecord n i).modStop n fun c =>
      if (c.strm i).st = .running ∧ (c.strm i).part then c.setStrm i { c.strm i with ending := some .idle }
      else (c.setStrm i { c.strm i with part := false, frec := none }).beginDrain i .idle

/-- A write of STREAM_CMD: both commands take effect together, each judged by the state before the write
(R151); STREAM_RESULT reports them, and any command cancels a pending chain (R158). Codes other than
1 to 4 act as none. -/
def Dev.streamCmd (s : Dev) (n : Nat) (xc ac : Nat) : Dev :=
  let c := s.core n
  let pg := corePg n 0
  let isCmd (k : Nat) : Bool := decide (1 ≤ k) && decide (k ≤ 4)
  let rx := s.cmdResult n .X xc
  let ar := s.cmdResult n .A ac
  let s1 := if (isCmd xc || isCmd ac) && !c.retired then s.cancelChain n else s
  let one (i : StreamId) (cmd r : Nat) (rest : Bool) (s : Dev) : Dev :=
    if !isCmd cmd then s
    else
      let s1 := s.setFld (ra pg 0x104) (4 * sidN i) 4 r
      if r = 0 then s1.cmdAct n i cmd rest
      else if r = 2 then s1
      else (s1.bump pg 11 1).evt pg 12
  one .A ac ar c.x.atRest (one .X xc rx c.a.atRest s1)

/-- A STREAM_CMD write that names command `cmd` for the chosen streams. -/
def Dev.streamRow (s : Dev) (w : Writer) (core : Nat) (x a : Bool) (cmd : Nat) : Dev :=
  s.regAccess w (corePg core 0) fun d => d.streamCmd core (if x then cmd else 0) (if a then cmd else 0)

/-- START (R152). -/
def execStart (w : Writer) (core : Nat) (x a : Bool) (s : State) : Host.Outcome State Fault Refusal :=
  .next (s.onDev fun d => d.streamRow w core x a 1)
/-- SUSPEND (R151). -/
def execSuspend (w : Writer) (core : Nat) (x a : Bool) (s : State) : Host.Outcome State Fault Refusal :=
  .next (s.onDev fun d => d.streamRow w core x a 2)
/-- RESUME (R151). -/
def execResume (w : Writer) (core : Nat) (x a : Bool) (s : State) : Host.Outcome State Fault Refusal :=
  .next (s.onDev fun d => d.streamRow w core x a 3)
/-- ABORT (R151). -/
def execAbort (w : Writer) (core : Nat) (x a : Bool) (s : State) : Host.Outcome State Fault Refusal :=
  .next (s.onDev fun d => d.streamRow w core x a 4)

/-- A draining stream whose work has completed enters its target state (R150); the execute stream entering
STOPPED, SUSPENDED or FAULTED cancels a pending chain (R158). -/
def Dev.drainDone (s : Dev) (n : Nat) (i : StreamId) : Dev :=
  let c := s.core n
  let t := c.strm i
  if t.st = .draining ∧ c.quiet i then
    let s1 := (if i = .X then s.vecFlush n none else s).enter n i t.target
    if i = .X ∧ (t.target = .stopped ∨ t.target = .suspended ∨ t.target = .faulted) then s1.cancelChain n else s1
  else s

/-- STREAM_DRAIN_DONE. -/
def execStreamDrainDone (core : Nat) (i : StreamId) (s : State) : Host.Outcome State Fault Refusal :=
  .next (s.onCore core fun d => d.drainDone core i)

/-- The STOP_AFTER count is reached: the stream ends issue at the boundary and STOP_AFTER disarms (R171). -/
def Dev.stopAfter (s : Dev) (n : Nat) (i : StreamId) : Dev :=
  let t := (s.core n).strm i
  if t.st = .running ∧ !t.part ∧ s.stopDue n i then
    s.modStop n fun c => (c.setStrm i { c.strm i with armed := false }).beginDrain i .stopped
  else s

/-- STOP_AFTER. -/
def execStopAfter (core : Nat) (i : StreamId) (s : State) : Host.Outcome State Fault Refusal :=
  .next (s.onCore core fun d => d.stopAfter core i)

/-! Host flag writes (R165, R177). -/

/-- A write of FLAG_SET or FLAG_CLR: each 1 is a remote operation on its flag, from the host's port. -/
def Dev.hostFlags (s : Dev) (w : Writer) (n : Nat) (hi clr : Bool) (v : Word) : Dev :=
  let src := match w with
    | .host p => p.toNat
    | _ => fld (s.owner (corePg n 0)) 4 1
  (upFrom 0 32).foldl (fun s j =>
    if v.getLsbD j then (s.flagTo n (32 * b2n hi + j) clr 3 src).bump (corePg n 0) 7 1 else s) s

/-- FLAG_SET. -/
def execFlagSet (w : Writer) (core : Nat) (hi : Bool) (v : Word) (s : State) : Host.Outcome State Fault Refusal :=
  .next (s.onDev fun d => d.regAccess w (corePg core 0) fun d => d.hostFlags w core hi false v)
/-- FLAG_CLR. -/
def execFlagClr (w : Writer) (core : Nat) (hi : Bool) (v : Word) (s : State) : Host.Outcome State Fault Refusal :=
  .next (s.onDev fun d => d.regAccess w (corePg core 0) fun d => d.hostFlags w core hi true v)

end Sys2Proof.Machine
end

