-- ==== Sys2Proof/Machine/Flags.lean ====
section
/-! DEFINITION. Number formats, rounding and the status indications of a conversion (R78 to R110), FP32
arithmetic with one rounding, and the Awl generator (R253, R254). -/
namespace Sys2Proof.Machine
open Sys2Proof

/-! Exact values. -/

/-- What a code stands for: a NaN, an infinity, or sign x m x 2^e exactly (zero keeps its sign, R83). -/
inductive Val where
  | nan
  | inf (neg : Bool)
  | fin (neg : Bool) (m : Nat) (e : Int)
  deriving DecidableEq, Repr

/-- 2^d for a distance that is not negative. -/
def pow2 (d : Int) : Nat := 2 ^ d.toNat

/-- Positive zero. -/
def Val.zero : Val := .fin false 0 0
/-- One. -/
def Val.one : Val := .fin false 1 0

/-- An integer times 2^e. -/
def Val.ofInt (v e : Int) : Val := .fin (decide (v < 0)) v.natAbs e

/-- A finite value. -/
def Val.isFin : Val → Bool
  | .fin _ _ _ => true
  | _ => false
/-- A NaN. -/
def Val.isNan : Val → Bool
  | .nan => true
  | _ => false
/-- An infinity. -/
def Val.isInf : Val → Bool
  | .inf _ => true
  | _ => false
/-- A zero of either sign. -/
def Val.isZero : Val → Bool
  | .fin _ 0 _ => true
  | _ => false
/-- The sign bit. -/
def Val.sign : Val → Bool
  | .nan => false
  | .inf n => n
  | .fin n _ _ => n

/-- The value negated. -/
def Val.neg : Val → Val
  | .nan => .nan
  | .inf n => .inf !n
  | .fin n m e => .fin (!n) m e
/-- Its magnitude. -/
def Val.abs : Val → Val
  | .nan => .nan
  | .inf _ => .inf false
  | .fin _ m e => .fin false m e
/-- The value times 2^k. -/
def Val.scale (k : Int) : Val → Val
  | .fin n m e => .fin n m (e + k)
  | v => v

/-- A finite value as an integer at exponent `e0`, which is not above its own. -/
def signedAt (n : Bool) (m : Nat) (e e0 : Int) : Int :=
  let v : Int := (m * pow2 (e - e0) : Nat)
  if n then -v else v

/-- The exact sum; a zero that arises from cancellation is positive, and the sum of two zeros negative
only when both are. -/
def Val.add : Val → Val → Val
  | .nan, _ => .nan
  | _, .nan => .nan
  | .inf a, .inf b => if a = b then .inf a else .nan
  | .inf a, _ => .inf a
  | _, .inf b => .inf b
  | .fin a m e, .fin b n f =>
    let e0 := if e ≤ f then e else f
    let v := signedAt a m e e0 + signedAt b n f e0
    if v = 0 then .fin (a && b && m == 0 && n == 0) 0 e0 else Val.ofInt v e0

/-- The exact product. -/
def Val.mul : Val → Val → Val
  | .nan, _ => .nan
  | _, .nan => .nan
  | .inf a, .inf b => .inf (a != b)
  | .inf a, .fin b n _ => if n = 0 then .nan else .inf (a != b)
  | .fin a m _, .inf b => if m = 0 then .nan else .inf (a != b)
  | .fin a m e, .fin b n f => .fin (a != b) (m * n) (e + f)

/-- A plain FP8 tensor's value times its factor (R86); an exact zero keeps its own sign (R83). -/
def Val.byFactor (x q : Val) : Val := if x.isZero && q.isFin then x else x.mul q

/-- The exact difference. -/
def Val.sub (a b : Val) : Val := a.add b.neg

/-- Comparison of values that are not NaN: −1, 0 or 1; the zeros are equal. -/
def Val.cmp : Val → Val → Int
  | .inf a, .inf b => if a = b then 0 else if a then -1 else 1
  | .inf a, _ => if a then -1 else 1
  | _, .inf b => if b then 1 else -1
  | .fin a m e, .fin b n f =>
    let e0 := if e ≤ f then e else f
    let d := signedAt a m e e0 - signedAt b n f e0
    if d < 0 then -1 else if d = 0 then 0 else 1
  | _, _ => 0

/-- The magnitude of one finite value is above the other's. -/
def magGt (m : Nat) (e : Int) (n : Nat) (f : Int) : Bool :=
  let e0 := if e ≤ f then e else f
  decide (n * pow2 (f - e0) < m * pow2 (e - e0))

/-- floor(log2) of m x 2^e, m > 0. -/
def flog2 (m : Nat) (e : Int) : Int := (Nat.log2 m : Int) + e

/-! Rounding (R95, R96). -/

/-- The magnitude m x 2^e as a whole number of steps 2^q: `rnd` 0 and 3 to nearest even, 1 toward zero, 2
stochastic with the 16 bits `r`. -/
def roundMag (rnd r m : Nat) (e q : Int) : Nat :=
  if q ≤ e then m * pow2 (e - q)
  else
    let d := pow2 (q - e)
    let lo := m / d
    let rem := m % d
    if rem = 0 then lo
    else match rnd with
      | 1 => lo
      | 2 => if 65536 ≤ rem * 65536 / d + r then lo + 1 else lo
      | _ => if d < 2 * rem ∨ (2 * rem = d ∧ lo % 2 = 1) then lo + 1 else lo

/-- The status indications of R109. -/
structure Stat where
  sat : Bool := false
  nonfin : Bool := false
  fxovf : Bool := false
  deriving DecidableEq, Repr

/-! Formats (R78, R79). -/

/-- A floating format: exponent bits, mantissa bits, bias, largest finite code, NaN code (0 for none),
infinity code (0 for none). -/
structure FloatFmt where
  eb : Nat
  mb : Nat
  bias : Int
  maxCode : Nat
  nan : Nat
  inf : Nat

/-- The floating format of a code of R78; none for MXINT8, FX and raw formats. -/
def floatFmt : Nat → Option FloatFmt
  | 0 => some ⟨8, 23, 127, 0x7F7FFFFF, 0x7FC00000, 0x7F800000⟩
  | 1 => some ⟨8, 7, 127, 0x7F7F, 0x7FC0, 0x7F80⟩
  | 2 => some ⟨5, 10, 15, 0x7BFF, 0x7E00, 0x7C00⟩
  | 3 | 9 => some ⟨4, 3, 7, 0x7E, 0x7F, 0⟩
  | 4 | 10 => some ⟨5, 2, 15, 0x7B, 0x7E, 0x7C⟩
  | 5 => some ⟨2, 3, 1, 0x1F, 0, 0⟩
  | 6 => some ⟨3, 2, 3, 0x1F, 0, 0⟩
  | 7 => some ⟨2, 1, 1, 7, 0, 0⟩
  | _ => none

/-- Bits of an element (R78). -/
def elemBits : Nat → Nat
  | 0 | 11 | 13 => 32
  | 1 | 2 => 16
  | 5 | 6 => 6
  | 7 => 4
  | 12 => 64
  | 14 => 1
  | _ => 8

/-- The format is block scaled (R78). -/
def isMx (f : Nat) : Bool := 3 ≤ f && f ≤ 8
/-- MXFP6. -/
def isMx6 (f : Nat) : Bool := f == 5 || f == 6
/-- A plain FP8 format. -/
def isFp8 (f : Nat) : Bool := f == 9 || f == 10
/-- FX32 or FX64. -/
def isFx (f : Nat) : Bool := f == 11 || f == 12

/-- The value of a code of a floating format (R79). -/
def FloatFmt.dec (t : FloatFmt) (c : Nat) : Val :=
  let s := tb c (t.eb + t.mb)
  let ex := fld c t.mb t.eb
  let m := fld c 0 t.mb
  let mag := fld c 0 (t.eb + t.mb)
  if t.inf ≠ 0 ∧ mag = t.inf then .inf s
  else if t.nan ≠ 0 ∧ t.maxCode < mag then .nan
  else if ex = 0 then .fin s m (1 - t.bias - t.mb)
  else .fin s (2 ^ t.mb + m) ((ex : Int) - t.bias - t.mb)

/-- The value of an element's code, its scale apart (R79, R82). -/
def decElem (f c : Nat) : Val :=
  match floatFmt f with
  | some t => t.dec c
  | none => if f = 8 then Val.ofInt (sfld c 0 8) (-6) else .nan

/-- The value of an MX element under its block scale (R84, R85). -/
def decMx (f sc c : Nat) : Val := if sc = 0xFF then .nan else (decElem f c).scale ((sc : Int) - 127)

/-- A code of a floating format from a value divided by its scale (R96 to R98). Formats with no NaN or no
infinity get 0 here; the block rule writes the scale 0xFF for them (R98, R99). -/
def FloatFmt.enc (t : FloatFmt) (wide : Bool) (rnd r : Nat) (sat : Bool) (v : Val) : Nat × Stat :=
  let sg (n : Bool) : Nat := b2n n * 2 ^ (t.eb + t.mb)
  match v with
  | .nan => (t.nan, { nonfin := true })
  | .inf n =>
    if sat ∨ (t.inf = 0 ∧ t.nan = 0) then (sg n + t.maxCode, { sat := true, nonfin := true })
    else if t.inf = 0 then (t.nan, { nonfin := true })
    else (sg n + t.inf, { nonfin := true })
  | .fin n m e =>
    if m = 0 then (sg n, {})
    else
      let lowest := 1 - t.bias
      let x := if flog2 m e < lowest then lowest else flog2 m e
      let q := x - t.mb
      let k := roundMag rnd r m e q
      let code := (q - (lowest - t.mb)).toNat * 2 ^ t.mb + k
      if t.maxCode < code then
        (if wide && !sat then sg n + t.inf else sg n + t.maxCode, { sat := true })
      else (sg n + code, {})

/-- BF16, FP16 and FP32 overflow to infinity where SAT = 0; narrower formats saturate (R98). -/
def isWide (f : Nat) : Bool := f ≤ 2

/-- A code of any element format from a value divided by its scale; the integer format saturates to
±127 (R82, R98). -/
def encElem (f rnd r : Nat) (sat : Bool) (v : Val) : Nat × Stat :=
  match floatFmt f with
  | some t => t.enc (isWide f) rnd r sat v
  | none =>
    match v with
    | .nan => (0, { nonfin := true })
    | .inf n => (if n then 0x81 else 0x7F, { sat := true, nonfin := true })
    | .fin n m e =>
      let k := roundMag rnd r m e (-6)
      let c := if 127 < k then 127 else k
      (if n then (256 - c) % 256 else c, { sat := decide (127 < k) })

/-- FP32 from a value. -/
def encF32 (rnd r : Nat) (sat : Bool) (v : Val) : Word × Stat :=
  let p := encElem 0 rnd r sat v
  (w32 p.1, p.2)

/-- The FP32 nearest a value, infinities beyond the range. -/
def toF32 (v : Val) : Word := (encF32 0 0 false v).1
/-- The value of an FP32 word. -/
def ofF32 (w : Word) : Val := decElem 0 w.toNat

/-! Block scales (R100). -/

/-- emax and maxfin of an MX target, maxfin as m x 2^e. -/
def mxMax : Nat → Int × Nat × Int
  | 7 => (2, 3, 1)
  | 5 => (2, 15, -1)
  | 6 => (4, 7, 2)
  | 3 => (8, 7, 6)
  | 4 => (15, 7, 13)
  | _ => (0, 127, -6)

/-- The largest magnitude among the finite values. -/
def amaxOf : List Val → Nat × Int
  | [] => (0, 0)
  | .fin _ m e :: l => let r := amaxOf l; if magGt m e r.1 r.2 then (m, e) else r
  | _ :: l => amaxOf l

/-- The formats with no encoding for a non-finite element (R98, R100). -/
def noNan (f : Nat) : Bool := isMx f && f != 3 && f != 4

/-- The block scale of R100: `srule` 1 is FIT. -/
def blockScale (f : Nat) (sat srule : Bool) (vs : List Val) : Nat :=
  let a := amaxOf vs
  if noNan f && (vs.any Val.isNan || (!sat && vs.any Val.isInf)) then 0xFF
  else if a.1 = 0 then 0x7F
  else
    let p := mxMax f
    let x := flog2 a.1 a.2 - p.1
    let x1 := if srule && magGt a.1 a.2 p.2.1 (p.2.2 + x) then x + 1 else x
    let x2 := if x1 < -127 then -127 else if 127 < x1 then 127 else x1
    (x2 + 127).toNat

/-- The elements of one block of an MX target: the scale and the codes (R92, R98 to R100), each with its indications;
`rs` are the random bits of its elements. -/
def encBlock (f rnd : Nat) (sat srule : Bool) (vs : List Val) (rs : List Nat) : Nat × List (Nat × Stat) :=
  let sc := blockScale f sat srule vs
  if sc = 0xFF then (sc, vs.map fun _ => (0, { nonfin := true }))
  else (sc, (vs.zip rs).map fun p => encElem f rnd p.2 sat (p.1.scale (127 - (sc : Int))))

/-! FX (R102 to R107). -/

/-- Bits of an FX element. -/
def fxBits (f : Nat) : Nat := if f = 12 then 64 else 32
/-- L of R102. -/
def fxL (f h : Nat) : Int := (fxBits f : Int) - 1 - h

/-- The value of an FX element under bucket exponent `b` (R102). -/
def decFx (f h b c : Nat) : Val :=
  if b = 0xFF then .nan else Val.ofInt (sfld c 0 (fxBits f)) ((b : Int) - 127 - fxL f h)

/-- An FX element from an FP32 value (R105). -/
def encFx (f h b rnd r : Nat) (v : Val) : Nat × Stat :=
  let w := fxBits f
  let l := fxL f h
  let bound : Nat := pow2 l - 1
  let put (n : Bool) (m : Nat) : Nat := if n then (2 ^ w - m) % 2 ^ w else m
  let bad := match v with
    | .fin _ _ _ => false
    | _ => true
  if b = 0xFF then (0, { nonfin := true, fxovf := true })
  else match v with
    | .nan => (0, { nonfin := true, fxovf := true })
    | .inf n => (put n bound, { nonfin := bad, fxovf := true })
    | .fin n m e =>
      if m ≠ 0 ∧ !magGt 1 ((b : Int) - 127) m e then (put n bound, { fxovf := true })
      else
        let k := roundMag rnd r m e ((b : Int) - 127 - l)
        (put n (if bound < k then bound else k), {})

/-- The sum of two FX elements (R106), and whether it saturated. -/
def addFx (w a b : Nat) : Nat × Bool :=
  let v := sfld a 0 w + sfld b 0 w
  let hi : Int := (2 ^ (w - 1) : Nat) - 1
  if hi < v then (2 ^ (w - 1) - 1, true)
  else if v < -(hi + 1) then (2 ^ (w - 1), true)
  else ((v % (2 ^ w : Nat)).toNat, false)

/-- A proposal of R104 for the exact values of a bucket. -/
def proposal (vs : List Val) : Nat :=
  if vs.any (fun v => !v.isFin) then 0xFF
  else
    let a := amaxOf vs
    if a.1 = 0 then 0
    else
      let x := flog2 a.1 a.2 + 128
      if x < 0 then 0 else if 0xFE < x then 0xFE else x.toNat

/-! FP32 arithmetic with one rounding to nearest even. -/

/-- Sum. -/
def addF (a b : Word) : Word := toF32 ((ofF32 a).add (ofF32 b))
/-- Difference. -/
def subF (a b : Word) : Word := toF32 ((ofF32 a).sub (ofF32 b))
/-- Product. -/
def mulF (a b : Word) : Word := toF32 ((ofF32 a).mul (ofF32 b))
/-- a x b + c with one rounding. -/
def fmaF (a b c : Word) : Word := toF32 (((ofF32 a).mul (ofF32 b)).add (ofF32 c))

/-- Integer square root: the largest r in [lo, lo + 2^k) with r x r ≤ n. -/
def isqrtFrom (n : Nat) : Nat → Nat → Nat
  | 0, lo => lo
  | k + 1, lo => if (lo + 2 ^ k) * (lo + 2 ^ k) ≤ n then isqrtFrom n k (lo + 2 ^ k) else isqrtFrom n k lo

/-- The quotient of two finite nonzero magnitudes to 40 more bits than FP32 needs, its last bit set when
bits were dropped, so that one rounding of it is the rounding of the quotient. -/
def divVal (m : Nat) (e : Int) (n : Nat) (f : Int) : Nat × Int :=
  let k := 64 + Nat.log2 n
  let q := m * 2 ^ k / n
  (2 * q + b2n (m * 2 ^ k % n != 0), e - f - k - 1)

/-- Quotient, rounded once. -/
def divF (a b : Word) : Word :=
  match ofF32 a, ofF32 b with
  | .nan, _ => toF32 .nan
  | _, .nan => toF32 .nan
  | .inf _, .inf _ => toF32 .nan
  | .inf x, .fin y _ _ => toF32 (.inf (x != y))
  | .fin x _ _, .inf y => toF32 (.fin (x != y) 0 0)
  | .fin x m e, .fin y n f =>
    if n = 0 then (if m = 0 then toF32 .nan else toF32 (.inf (x != y)))
    else if m = 0 then toF32 (.fin (x != y) 0 0)
    else let r := divVal m e n f; toF32 (.fin (x != y) r.1 r.2)

/-- The square root of m x 2^e in the same form as `divVal`. -/
def sqrtVal (m : Nat) (e : Int) : Nat × Int :=
  let odd := e % 2 != 0
  let m1 := if odd then 2 * m else m
  let e1 := if odd then e - 1 else e
  let n := m1 * 2 ^ 128
  let r := isqrtFrom n (Nat.log2 n / 2 + 1) 0
  (2 * r + b2n (r * r != n), e1 / 2 - 65)

/-- Square root, rounded once. -/
def sqrtF (a : Word) : Word :=
  match ofF32 a with
  | .nan => toF32 .nan
  | .inf n => if n then toF32 .nan else toF32 (.inf false)
  | .fin n m e => if m = 0 then a else if n then toF32 .nan else let r := sqrtVal m e; toF32 (.fin false r.1 r.2)

/-! The Awl generator (R254). -/

/-- The round constants. -/
def rotA : Nat → Nat
  | 0 => 16 | 1 => 12 | 2 => 8 | 3 => 20 | _ => 24
/-- The round constants. -/
def rotB : Nat → Nat
  | 0 => 12 | 1 => 8 | 2 => 16 | 3 => 4 | _ => 28

/-- The generator's state: x[0] to x[3]. -/
structure AwlX where
  x0 : Word
  x1 : Word
  x2 : Word
  x3 : Word
  deriving DecidableEq, Repr

/-- Key word `i` of the schedule. -/
def awlKey (key : DWord) (i : Nat) : Word :=
  let lo := w32 key.toNat
  let hi := w32 (key.toNat / 2 ^ 32)
  match i % 3 with
  | 0 => lo
  | 1 => hi
  | _ => lo ^^^ hi ^^^ 0x1BD11BDA#32

/-- inject(j). -/
def awlInject (key : DWord) (j : Nat) (x : AwlX) : AwlX :=
  ⟨x.x0 + awlKey key j, x.x1 + awlKey key (j + 1), x.x2 + awlKey key (j + 2),
   x.x3 + w32 ((j + 1) * 0x9E3779B9)⟩

/-- Round `rd`. -/
def awlRound (key : DWord) (rd : Nat) (x : AwlX) : AwlX :=
  let a0 := x.x0 + x.x1
  let a3 := (x.x3 ^^^ a0).rotateLeft (rotA ((rd - 1) % 5))
  let a2 := x.x2 + a3
  let a1 := (x.x1 ^^^ a2).rotateLeft (rotB ((rd - 1) % 5))
  let y : AwlX := ⟨a1, a2, a3, a0⟩
  if rd % 2 = 0 then awlInject key (rd / 2) y else y

/-- Rounds 1 to `n`. -/
def awlRounds (key : DWord) : Nat → AwlX → AwlX
  | 0, x => x
  | n + 1, x => awlRound key (n + 1) (awlRounds key n x)

/-- The generator's output. -/
def awl (key : DWord) (stream step : Word) (index : Nat) : AwlX :=
  awlRounds key 10 (awlInject key 0 ⟨w32 index, w32 (index / 2 ^ 32), step, stream⟩)

/-- The 16 random bits of the element at flat position `i` (R97). -/
def Sr.bits (g : Sr) (i : Nat) : Nat :=
  let x := awl g.key g.stream g.step (i / 8)
  let w := match i % 8 / 2 with
    | 0 => x.x0 | 1 => x.x1 | 2 => x.x2 | _ => x.x3
  fld w.toNat (16 * (i % 2)) 16

/-! Elements in rows (R87, R88). -/

/-- Elements of a tile-register row. -/
def rowElems (f : Nat) : Nat :=
  if f = 7 then 128 else if f = 1 ∨ f = 2 then 32 else 64

/-- The code of element `j` of a row. -/
def rowCode (f : Nat) (el : BitVec 512) (j : Nat) : Nat :=
  if f = 7 then fld el.toNat (4 * j) 4
  else if f = 1 ∨ f = 2 then fld el.toNat (16 * j) 16
  else if isMx6 f then fld el.toNat (8 * j) 6
  else fld el.toNat (8 * j) 8

/-- Bits between the elements of a row. -/
def rowPitch (f : Nat) : Nat := if f = 7 then 4 else if f = 1 ∨ f = 2 then 16 else 8

/-- The number a list of fields of `w` bits spells, first lowest. -/
def packBits (w : Nat) (l : List Nat) : Nat := l.foldr (fun c acc => c % 2 ^ w + 2 ^ w * acc) 0

end Sys2Proof.Machine
end

