-- ==== Sys2Proof/Machine/Operands.lean ====
section
/-! DEFINITION. Operand forms: elements in memory (R89 to R91, R118, R210), tile descriptors (R117), stream
records (R209), and writes put together word by word. -/
namespace Sys2Proof.Machine
open Sys2Proof

/-- Data of a memory space by 8 B word. -/
abbrev Rd := Nat → Nat

/-- `len` bytes at byte `ofs` (little-endian). -/
def rdBytes (rd : Rd) (ofs len : Nat) : Nat :=
  let v := (wordsAt ofs len).foldr (fun i acc => rd i + 2 ^ 64 * acc) 0
  v / 2 ^ (8 * (ofs % 8)) % 2 ^ (8 * len)

/-- `w` bits at bit `pos` of the bit stream that begins at byte `base`. -/
def rdBits (rd : Rd) (base pos w : Nat) : Nat :=
  let sh := pos % 8
  rdBytes rd (base + pos / 8) ((sh + w + 7) / 8) / 2 ^ sh % 2 ^ w

/-- A masked write of `w` bits at bit `pos` of the stream from byte `base`. -/
def wrBits (base pos w v : Nat) : List WWrite :=
  let a := 8 * base + pos
  let word := a / 64
  let lo := a % 64
  let m := (2 ^ w - 1) * 2 ^ lo
  let x := v % 2 ^ w * 2 ^ lo
  if lo + w ≤ 64 then [{ addr := 8 * word, mask := w64 m, data := w64 x }]
  else [{ addr := 8 * word, mask := w64 m, data := w64 x },
        { addr := 8 * word + 8, mask := w64 (m / 2 ^ 64), data := w64 (x / 2 ^ 64) }]

/-- A write joined to the writes before it: writes to one word become one, the later bits winning. -/
def joinWrite : List WWrite → WWrite → List WWrite
  | [], w => [w]
  | v :: l, w =>
    if v.addr = w.addr then
      { addr := v.addr, mask := v.mask ||| w.mask, data := (v.data &&& ~~~w.mask) ||| (w.data &&& w.mask),
        poison := v.poison || w.poison } :: l
    else v :: joinWrite l w

/-- Writes put together word by word. -/
def joinWrites (ws : List WWrite) : List WWrite := ws.foldl joinWrite []

/-- Where the elements of one memory row lie: byte of the row in the element array (or the 4-bit plane), and
in the 2-bit plane (R89). -/
structure RowAt where
  fmt : Nat
  planes : Bool
  el : Nat
  p2 : Nat
  deriving DecidableEq, Repr

/-- Bit planes are in use (R89): MXFP6 under LAYOUT 1. -/
def usePlanes (fmt lay : Nat) : Bool := isMx6 fmt && lay == 1

/-- The code of element `c` of a memory row. -/
def RowAt.code (r : RowAt) (rd : Rd) (c : Nat) : Nat :=
  if r.planes then rdBits rd r.el (4 * c) 4 + 16 * rdBits rd r.p2 (2 * c) 2
  else rdBits rd r.el (elemBits r.fmt * c) (elemBits r.fmt)

/-- Writes of element `c` of a memory row. -/
def RowAt.put (r : RowAt) (c code : Nat) : List WWrite :=
  if r.planes then wrBits r.el (4 * c) 4 code ++ wrBits r.p2 (2 * c) 2 (code / 16)
  else wrBits r.el (elemBits r.fmt * c) (elemBits r.fmt) code

/-- First byte and byte count of elements `c` to `c + n - 1` in the element array or 4-bit plane. -/
def RowAt.span (r : RowAt) (c n : Nat) : Nat × Nat :=
  let w := if r.planes then 4 else elemBits r.fmt
  (r.el + w * c / 8, (w * (c + n) + 7) / 8 - w * c / 8)

/-- The same in the 2-bit plane. -/
def RowAt.span2 (r : RowAt) (c n : Nat) : Nat × Nat := (r.p2 + 2 * c / 8, (2 * (c + n) + 7) / 8 - 2 * c / 8)

/-- The value of an element code of a memory format with its scale byte (MX), its factor (plain FP8) or its
bucket exponent (FX). -/
def memVal (fmt sc : Nat) (factor : Val) (h code : Nat) : Val :=
  if isMx fmt then decMx fmt sc code
  else if isFp8 fmt then (decElem fmt code).byFactor factor
  else if isFx fmt then decFx fmt h sc code
  else if fmt = 14 then (if code = 1 then .one else .zero)
  else decElem fmt code

/-- A tile descriptor (R117). -/
structure TileDesc where
  base : Nat
  p2 : Nat
  sbase : Nat
  fmt : Nat
  es : Int
  p2s : Int
  ss : Int
  ecol : Nat
  lay : Nat
  trans : Bool
  rnd : Nat
  sat : Bool
  srule : Bool
  bad : Bool
  deriving DecidableEq, Repr

/-- A tile descriptor from its 256 bits; `bad` when a reserved bit is set. -/
def tileDesc (v : Nat) : TileDesc :=
  { base := fld v 0 20, p2 := fld v 20 20, sbase := fld v 40 20, fmt := fld v 60 4, es := sfld v 64 21,
    p2s := sfld v 85 21, ss := sfld v 106 21, ecol := fld v 128 16, lay := fld v 144 2, trans := tb v 146,
    rnd := fld v 147 2, sat := tb v 149, srule := tb v 150,
    bad := tb v 127 || fld v 151 105 != 0 }

/-- An offset of row `r`: base plus a signed stride. -/
def rowOfs (base : Nat) (stride : Int) (r : Nat) : Int := (base : Int) + r * stride

/-- A stream record (R209). -/
structure VRec where
  base : Nat
  p2 : Nat
  sbase : Nat
  fmt : Nat
  es : Int
  p2s : Int
  ss : Int
  lay : Nat
  rnd : Nat
  sat : Bool
  srule : Bool
  h : Nat
  qk : Nat
  bad : Bool
  at_ : Nat
  deriving DecidableEq, Repr

/-- A stream record from its 256 bits; `ofs` is its own offset. -/
def vrec (v ofs : Nat) : VRec :=
  { base := fld v 0 20, p2 := fld v 20 20, sbase := fld v 40 20, fmt := fld v 60 4, es := sfld v 64 21,
    p2s := sfld v 85 21, ss := sfld v 106 21, lay := fld v 128 2, rnd := fld v 130 2, sat := tb v 132,
    srule := tb v 133, h := fld v 134 5, qk := fld v 140 2,
    bad := tb v 127 || tb v 139 || fld v 142 114 != 0, at_ := ofs }

/-- Row `r` of a stream's elements. -/
def VRec.row (d : VRec) (r : Nat) : RowAt :=
  { fmt := d.fmt, planes := usePlanes d.fmt d.lay, el := (rowOfs d.base d.es r).toNat, p2 := (rowOfs d.p2 d.p2s r).toNat }

/-- The number a list of words spells. -/
def wordsNat (l : List DWord) : Nat := l.foldr (fun w acc => w.toNat + 2 ^ 64 * acc) 0

/-! The size of a chain, of its header's 512 bits `h` (R206). -/

/-- ROWS. -/
def hRows (h : Nat) : Nat := fld h 0 16 + 1
/-- CB. -/
def hCb (h : Nat) : Nat := fld h 16 7 + 1
/-- COLS. -/
def hCols (h : Nat) : Nat := 32 * hCb h
/-- DRAIN. -/
def hDrain (h : Nat) : Bool := tb h 29
/-- Groups of a row: 64 columns each, the last 32 where CB is odd (R204). -/
def hRowGroups (h : Nat) : Nat := (hCb h + 1) / 2
/-- Drain rows that the group takes which is next to enter (R219). -/
def VecEntry.groupRows (e : VecEntry) : Nat :=
  let h := wordsNat (e.d.take 8)
  min 2 (hCb h - 2 * (e.groups % hRowGroups h))

end Sys2Proof.Machine
end

