-- ==== Sys2Proof/Machine/Arrays.lean ====
section
/-! DEFINITION. The matrix arrays (R41 to R77, R188 to R192): weight loads and swaps, rows, accumulation, drains. -/
namespace Sys2Proof.Machine
open Sys2Proof

/-- The arrays a mask names, in rank order. -/
def arraysOf (mask : Nat) : List Nat := (upFrom 0 4).filter fun a => tb mask a
/-- Array `a` of a core. -/
def Core.arr (c : Core) (a : Nat) : Arr := lget {} c.arrs a
/-- Array `a` changed. -/
def Core.modArr (c : Core) (a : Nat) (f : Arr → Arr) : Core := { c with arrs := lset c.arrs a (f (c.arr a)) }
/-- Tile register `r` of a core. -/
def Core.tile (c : Core) (r : Nat) : TileReg := lget {} c.tiles r
/-- Row `i` of a tile register; rows read as code 0 with scale bytes 0x7F until written (R113). -/
def TileReg.row (t : TileReg) (i : Nat) : TRow := mget (fun _ => {}) t.data i

/-- The class of an array format (R42, R43): 1 MX4 dual, 2 the 8-bit class, 3 BF16, 4 FP16; none otherwise. -/
def arrClass (f : Nat) : Option Nat :=
  if f = 7 then some 1
  else if f = 1 then some 3
  else if f = 2 then some 4
  else if 3 ≤ f ∧ f ≤ 10 then some 2
  else none

/-- Codes of the pass a K half selects (R44). -/
def passCodes (f : Nat) (kh : Bool) (r : TRow) : List Nat :=
  let n := if f = 7 then 64 else 32
  (upFrom (if kh then n else 0) n).map fun j => rowCode f r.el j

/-- The values of a pass, under their scales (R53, R55, R58): plain FP8, BF16 and FP16 have none. -/
def passVals (f : Nat) (kh : Bool) (r : TRow) : List Val :=
  let codes := passCodes f kh r
  if isMx f then
    let s0 := if f = 7 then (if kh then 2 else 0) else b2n kh
    (codes.zip (upFrom 0 codes.length)).map fun p => decMx f (fld r.sc.toNat (8 * (s0 + p.2 / 32)) 8) p.1
  else codes.map (decElem f)

/-- An exactly zero sum is +0 (R56). -/
def Val.plusZero (v : Val) : Val := if v.isZero then .zero else v

/-- A product with the bits below 2^cut discarded, truncating its magnitude (R58). -/
def Val.truncBelow (cut : Int) : Val → Val
  | .fin n m e => if e < cut then .fin n (m / pow2 (cut - e)) cut else .fin n m e
  | v => v

/-- X of one column (R53 to R56, R58). The largest product exponent E is that of the largest exact product, the floor of
its logarithm (DEDUCED, log 50: R58 calls X exact where every product is at least 2^-57 times the largest, and 57 and the 16
significant bits of a BF16 product make 73). -/
def columnSum (cls : Nat) (acts wgts : List Val) : Val :=
  let ps := (acts.zip wgts).map fun p => p.1.mul p.2
  let qs :=
    if cls = 3 ∨ cls = 4 then
      let a := amaxOf ps
      if a.1 = 0 then ps else ps.map (Val.truncBelow (flog2 a.1 a.2 - 73))
    else ps
  (qs.foldl Val.add Val.zero).plusZero

/-- The new value of an accumulator entry (R53). -/
def accNew (accum : Bool) (old : Word) (x : Val) : Word := toF32 (if accum then (ofF32 old).add x else x)

/-- The update overflowed: a finite sum became an infinity (R57). -/
def accOvf (accum : Bool) (old : Word) (x : Val) : Bool :=
  (if accum then (ofF32 old).add x else x).isFin && (ofF32 (accNew accum old x)).isInf

/-! Issue (R50, R70, R190). -/

/-- The lowest stall cause of a list of conditions. -/
def lowestWait : List (Bool × Nat) → Option Nat
  | [] => none
  | (b, c) :: l => match lowestWait l with
    | none => if b then some c else none
    | some d => if b && decide (c < d) then some c else some d

/-- The first fault of a list of checks; the lowest code is listed first. -/
def firstFault : List (Bool × Nat) → Option Nat
  | [] => none
  | (b, c) :: l => if b then some c else firstFault l

/-- An array-slot instruction issues after its waits, unless a check fails; array faults raise ARR_FAULT
(R75), drain faults do not. Where several checks fail, the lowest cause code is reported (R70; DESIGN CHOICE, log 50: R70
gives no order, R126 and R232 give this one for tile and vector faults). -/
def Dev.arraySlot (s : Dev) (n slot : Nat) (waits checks : List (Bool × Nat)) (act : Dev → Dev) : Issue :=
  match lowestWait waits with
  | some c => .wait c
  | none => match firstFault checks with
    | some f => .faultOn (if f ≤ 0x24 then s.evt (corePg n 1) 2 else s) (recOf s n .X slot f 6)
    | none => .ok (act s)

/-- An `mm` still streams rows into array `a` (R50). -/
def Core.inputBusy (c : Core) (a : Nat) : Bool := c.x.reading.any fun r => r.arr == a && !r.weights

/-- A core cycle in which a swap waits for a LOADING shadow of the arrays named counts (R77). -/
def Dev.swapWait (s old : Dev) (n : Nat) : Dev :=
  let c := old.core n
  let waits (mask : Nat) : Bool := (arraysOf mask).any fun a => (lget {} c.arrs a).loading
  match c.nextSlot .X with
  | some (_, .wsw mask) => if waits mask then s.bump (corePg n 1) 2 1 else s
  | some (_, .mm _ mask _ _ _ _ swap _ _) => if swap && waits mask then s.bump (corePg n 1) 2 1 else s
  | _ => s

/-- Planes exchanged (R49). -/
def Arr.swap (a : Arr) : Arr := { a with active := !a.active }
/-- The active plane: P1 when `active` is set. -/
def Arr.act (a : Arr) : Plane := if a.active then a.p1 else a.p0
/-- The shadow plane. -/
def Arr.shadow (a : Arr) : Plane := if a.active then a.p0 else a.p1
/-- The shadow plane replaced. -/
def Arr.setShadow (a : Arr) (p : Plane) : Arr := if a.active then { a with p0 := p } else { a with p1 := p }

/-- The arrays begin to read a tile register for so many core cycles (R47 to R49, R51). -/
def Core.reads (c : Core) (as : List Nat) (reg : Nat) (weights : Bool) (cycles : Nat) : Core :=
  { c with x := { c.x with reading := c.x.reading ++ as.map fun a => ⟨a, reg, weights, cycles⟩ } }

/-- `wld` (R49, R62, R63, R190): the tile enters the shadows of the arrays named, which are LOADING. -/
def Dev.wld (s : Dev) (n : Nat) : Dev :=
  s.issue n .X (fun o => match o with | .wld _ _ _ _ => true | _ => false) fun k o => match o with
    | .wld mask src row kh =>
      let c := s.core n
      let t := c.tile src
      let as := arraysOf mask
      s.arraySlot n k
        [(as.any fun a => (c.arr a).loading, 0), (t.st == .loading, 2)]
        [((arrClass t.fmt).isNone || (kh && (t.fmt == 1 || t.fmt == 2)), 0x21),
         (row % 32 != 0 || decide (t.rows < row + 32), 0x22),
         (mask == 0 || (!isSplit n && mask != 0xF), 0x23),
         (t.st == .empty || t.st == .unconfigured, 0x24)]
        fun s =>
          let p : Plane := { fmt := some t.fmt, kh := kh, rows := (upFrom row 32).map t.row }
          (s.modCore n fun c => (as.foldl (fun c a => c.modArr a fun r => { r.setShadow p with loading := true }) c).reads
            as src true 32).bump (corePg n 1) 1 as.length
    | _ => .ok s

/-- WLD. -/
def execWld (core : Nat) (s : State) : Host.Outcome State Fault Refusal :=
  .next (s.onCore core fun d => d.wld core)

/-- The tile has been read to its 32nd row, and the shadow becomes READY (R49, R51). -/
def Core.wldDone (c : Core) (a : Nat) : Core :=
  if (c.arr a).loading then
    { c.modArr a (fun r => { r with loading := false }) with
      x := { c.x with reading := c.x.reading.filter fun r => !(r.arr == a && r.weights) } }
  else c

/-- WLD_DONE. -/
def execWldDone (core arr : Nat) (s : State) : Host.Outcome State Fault Refusal :=
  .next (s.onCore core fun d => d.modCore core fun c => c.wldDone arr)

/-- `wsw` (R49). -/
def Dev.wsw (s : Dev) (n : Nat) : Dev :=
  let r := s.issue n .X (fun o => match o with | .wsw _ => true | _ => false) fun k o => match o with
    | .wsw mask =>
      let c := s.core n
      let as := arraysOf mask
      s.arraySlot n k [(as.any fun a => (c.arr a).loading, 1)] [(mask == 0, 0x23)]
        fun s => s.modCore n fun c => as.foldl (fun c a => c.modArr a Arr.swap) c
    | _ => .ok s
  if (match (s.core n).nextSlot .X with | some (_, .wsw _) => true | _ => false) then r.swapWait s n else r

/-- WSW. -/
def execWsw (core : Nat) (s : State) : Host.Outcome State Fault Refusal :=
  .next (s.onCore core fun d => d.wsw core)

/-- A drain of array `a` has still to read, or a chain's drain still to clear, an entry of the range (R50,
R220). -/
def Core.drainNeeds (c : Core) (a lo n : Nat) : Bool :=
  (c.drains.any fun d => d.arrays.elem a && decide (lo < d.acc + d.cnt) && decide (d.acc + (if d.chain.isSome then 0 else d.next) < lo + n))
    || c.vDrains.any fun d => d.arrays.elem a && decide (lo < d.acc + d.cnt) && decide (d.acc < lo + n)

/-- Core cycles a row occupies the input of an array: four in BF16 and FP16 (R42, R48). -/
def rowCycles (fmt : Nat) : Nat := if fmt = 1 ∨ fmt = 2 then 4 else 1

/-- Rows of an `mm` enter an array (R47, R53, R65). -/
def Core.streamRows (c : Core) (a src row cnt acc : Nat) (kh swap accum : Bool) : Core :=
  c.modArr a fun r =>
    let r1 := if swap then r.swap else r
    let t := c.tile src
    { r1 with rows := r1.rows ++ (upFrom 0 cnt).map fun m =>
        { fmt := t.fmt, kh := kh, row := t.row (row + m), plane := r1.act, entry := acc + m, accum := accum } }

/-- `mm` and `mmalt` (R47, R65, R189, R190). -/
def Dev.mm (s : Dev) (n : Nat) (which : Bool) : Dev :=
  let r := s.issue n .X (fun o => match o with | .mm alt _ _ _ _ _ _ _ _ => alt == which | _ => false) fun k o => match o with
    | .mm alt mask src row cnt kh swap accum acc =>
      let c := s.core n
      let t := c.tile src
      let as := arraysOf mask
      let after (a : Nat) : Arr := if swap then (c.arr a).swap else c.arr a
      let base (a : Nat) : Nat := if alt && (after a).active then acc + 128 else acc
      let pairs (a : Nat) : Bool := match (after a).act.fmt with
        | none => false
        | some f => (arrClass f).isSome && arrClass f == arrClass t.fmt
      s.arraySlot n k
        [(as.any c.inputBusy, 0), (swap && as.any fun a => (c.arr a).loading, 1), (t.st == .loading, 2),
         (as.any fun a => c.drainNeeds a (base a) cnt, 1)]
        [((arrClass t.fmt).isNone || (kh && (t.fmt == 1 || t.fmt == 2)) || !as.all pairs, 0x21),
         (decide (t.rows < row + cnt) || decide ((if alt then 128 else 256) < acc + cnt), 0x22),
         (mask == 0, 0x23),
         (t.st == .empty || t.st == .unconfigured, 0x24)]
        fun s => (s.modCore n fun c =>
          (as.foldl (fun c a => c.streamRows a src row cnt (base a) kh swap accum) c).reads as src false
            (rowCycles t.fmt * cnt)).bump (corePg n 1) 0 (cnt * as.length)
    | _ => .ok s
  match (s.core n).nextSlot .X with
  | some (_, .mm alt _ _ _ _ _ _ _ _) => if alt = which then r.swapWait s n else r
  | _ => r

/-- MM. -/
def execMm (core : Nat) (s : State) : Host.Outcome State Fault Refusal :=
  .next (s.onCore core fun d => d.mm core false)
/-- MMALT. -/
def execMmalt (core : Nat) (s : State) : Host.Outcome State Fault Refusal :=
  .next (s.onCore core fun d => d.mm core true)

/-! Accumulation (R52 to R57). -/

/-- One column's update of its entry: the accumulators, and whether it overflowed or wrote a NaN. -/
def accColumn (cls : Nat) (acts : List Val) (j : RowJob) (m : SMap Word × Nat × Nat) (n : Nat) : SMap Word × Nat × Nat :=
  let f := j.plane.fmt.getD 0
  let x := columnSum cls acts (passVals f j.plane.kh (lget {} j.plane.rows n))
  let old := mget (fun _ => 0) m.1 (256 * n + j.entry)
  let v := accNew j.accum old x
  (mset (fun _ => 0) m.1 (256 * n + j.entry) v, m.2.1 + b2n (accOvf j.accum old x), m.2.2 + b2n (ofF32 v).isNan)

/-- A streamed row takes effect in every column. -/
def accRow (acc : SMap Word) (j : RowJob) : SMap Word × Nat × Nat :=
  (upFrom 0 32).foldl (accColumn ((arrClass j.fmt).getD 0) (passVals j.fmt j.kh j.row) j) (acc, 0, 0)

/-- A sticky bit of ARR_STICKY rises, with its event when it was clear (R57, R75). -/
def Dev.stick (s : Dev) (n bit e : Nat) : Dev :=
  let pg := corePg n 1
  if tb (s.regN (ra pg 0x104)) bit then s else (s.orReg (ra pg 0x104) (w32 (2 ^ bit))).evt pg e

/-- A row that takes effect, and every row before it, has been read: no more cycles are left than `rest` takes. -/
def Core.readThrough (c : Core) (a : Nat) (rest : List RowJob) : Core :=
  let most := ((rest.getLast?.map fun j => rowCycles j.fmt).getD 0) * rest.length
  { c with x := { c.x with reading := (c.x.reading.map fun r =>
      if r.arr == a && !r.weights then { r with left := min r.left most } else r).filter fun r => 0 < r.left } }

/-- The oldest row in flight of an array takes effect (R52, R53, R57). -/
def Dev.accUpdate (s : Dev) (n a : Nat) : Dev :=
  match ((s.core n).arr a).rows with
  | [] => s
  | j :: rest =>
    let r := accRow ((s.core n).arr a).acc j
    let s1 := s.modCore n fun c => (c.modArr a fun x => { x with acc := r.1, rows := rest }).readThrough a rest
    let s2 := if r.2.1 = 0 then s1 else (s1.bump (corePg n 1) 4 r.2.1).stick n a 0
    if r.2.2 = 0 then s2 else (s2.bump (corePg n 1) 5 r.2.2).stick n (4 + a) 1

/-- ACC_UPDATE. -/
def execAccUpdate (core arr : Nat) (s : State) : Host.Outcome State Fault Refusal :=
  .next (s.onCore core fun d => d.accUpdate core arr)

/-! Drains (R59 to R61, R191, R192, R219, R220). -/

/-- Destination offsets of a drain's rows, in drain order. -/
def drainDests (cnt arrays dst rstride astride : Nat) : List Nat :=
  (upFrom 0 cnt).flatMap fun e => (upFrom 0 arrays).map fun i => dst + e * rstride + i * astride

/-- The oldest chain that takes a drain input and still expects rows (R192): its work number and the rows left. -/
def Core.openChain (c : Core) : Option (Nat × Nat) :=
  c.vq.findSome? fun e => if e.drain ∧ e.claimed < e.expect then some (e.work, e.expect - e.claimed) else none

/-- `drn` (R59, R190 to R192). -/
def Dev.drn (s : Dev) (n : Nat) : Dev :=
  s.issue n .X (fun o => match o with | .drn _ _ _ _ _ _ _ _ => true | _ => false) fun k o => match o with
    | .drn mask acc cnt keep chain dst rstride astride =>
      let c := s.core n
      let as := arraysOf mask
      let rows := drainDests cnt as.length dst rstride astride
      let supply := cnt * as.length
      s.arraySlot n k
        [(as.any fun a => c.drains.any fun d => d.arrays.elem a, 0),
         (as.any fun a => (c.arr a).rows.any fun j => decide (acc ≤ j.entry) && decide (j.entry < acc + cnt), 1)]
        [(decide (256 < acc + cnt), 0x22), (mask == 0, 0x23),
         (chain && (match c.openChain with | none => true | some (_, left) => decide (left < supply)), 0x25),
         (!chain && rows.any (fun o => outSp o 128 || s.inCarve n o 128), 0x26)]
        fun s => s.modCore n fun c =>
          let w := c.work
          match chain, c.openChain with
          | true, some (q, _) =>
            { c with
              work := w + 1,
              vq := c.vq.map (fun e => if e.work = q then { e with claimed := e.claimed + supply } else e),
              drains := c.drains ++ [⟨as, acc, cnt, keep, some q, dst, rstride, astride, w, 0⟩] }
          | _, _ => { c with work := w + 1, drains := c.drains ++ [⟨as, acc, cnt, keep, none, dst, rstride, astride, w, 0⟩] }
    | _ => .ok s

/-- DRN. -/
def execDrn (core : Nat) (s : State) : Host.Outcome State Fault Refusal :=
  .next (s.onCore core fun d => d.drn core)

/-- The 32 values of an entry, column 0 first (R59). -/
def Arr.entryRow (a : Arr) (e : Nat) : List Word := (upFrom 0 32).map fun n => mget (fun _ => 0) a.acc (256 * n + e)

/-- Entries of an array cleared to +0.0 (R60). -/
def Arr.clearEntries (a : Arr) (lo n : Nat) : Arr :=
  { a with acc := a.acc.filter fun p => p.1 % 256 < lo || lo + n ≤ p.1 % 256 }

/-- The bytes of 32 words as 8 B writes at an offset. -/
def rowWrites (ofs : Nat) (row : List Word) : List WWrite :=
  (upFrom 0 16).map fun j => { addr := ofs + 8 * j, mask := BitVec.allOnes 64,
                               data := lget 0 row (2 * j + 1) ++ lget 0 row (2 * j) }

/-- A drain reads its next entry: the rows go to the scratchpad, or to the chain it is matched with, and an
entry drained to the scratchpad is cleared unless KEEP is set (R59 to R61). -/
def Dev.drainEntry (s : Dev) (n : Nat) (d : Drain) : Dev :=
  let c := s.core n
  let e := d.acc + d.next
  let rows := d.arrays.map fun a => (c.arr a).entryRow e
  let s1 := s.bump (corePg n 1) 3 d.arrays.length
  match d.chain with
  | some w => s1.modCore n fun c => { c with vq := c.vq.map fun v => if v.work = w then { v with inbox := v.inbox ++ rows } else v }
  | none =>
    let s2 := (rows.zip (upFrom 0 rows.length)).foldl (fun s p =>
      s.spWrites n (rowWrites (d.dst + d.next * d.rstride + p.2 * d.astride) p.1)) s1
    if d.keep then s2
    else s2.modCore n fun c => d.arrays.foldl (fun c a => c.modArr a fun r => r.clearEntries e 1) c

/-- The vector chain a drain is matched with can take rows of it (R61, R219): it runs, and the group that is next to enter
still lacks rows, and no drain matched with it earlier has rows left. -/
def Core.chainTakes (c : Core) (d : Drain) (w : Nat) : Bool :=
  (match c.vq with
    | e :: _ => e.work == w && e.started && !e.ended && decide (e.inbox.length < e.groupRows)
    | [] => false)
  && c.drains.all fun x => x.chain != some w || d.work ≤ x.work

/-- The drain can read its next entry (R61): the scratchpad or the chain takes its rows. -/
def Core.drainTakes (c : Core) (d : Drain) : Bool :=
  match d.chain with
  | some w => c.chainTakes d w
  | none => !(drainDests 1 d.arrays.length (d.dst + d.next * d.rstride) 0 d.astride).any fun o => c.spHeld o 128

/-- Drain `i` reads up to `k` entries; it pauses where its rows are not taken, and ends when it has read its last entry
(R61). A drain matched with a chain is kept until the chain ends (R220). -/
def Dev.drainRun (s : Dev) (n i : Nat) : Nat → Dev
  | 0 => s
  | k + 1 =>
    match (s.core n).drains[i]? with
    | none => s
    | some d =>
      if !(s.core n).drainTakes d then s
      else
        let s1 := s.drainEntry n d
        let d1 := { d with next := d.next + 1 }
        if d1.next < d.cnt then (s1.modCore n fun c => { c with drains := lset c.drains i d1 }).drainRun n i k
        else s1.modCore n fun c => { c with
          drains := ldel c.drains i
          vDrains := if d.chain.isSome then c.vDrains ++ [d1] else c.vDrains }

/-- DRAIN_RESUME: drain `i` reads more entries (R61). -/
def execDrainResume (core count : Nat) (s : State) (i : Nat := 0) : Host.Outcome State Fault Refusal :=
  .next (s.onCore core fun d => d.drainRun core i count)

/-- DRAIN_DONE: drain `i` reads on to its last entry, as far as its rows are taken (R61). -/
def execDrainDone (core : Nat) (s : State) (i : Nat := 0) : Host.Outcome State Fault Refusal :=
  .next (s.onCore core fun d => d.drainRun core i 256)

end Sys2Proof.Machine
end

