-- ==== Sys2Proof/Machine/Tiles.lean ====
section
/-! DEFINITION. Tile registers and the tile unit (R111 to R126, R193, R194). -/
namespace Sys2Proof.Machine
open Sys2Proof

/-- A queued or abandoned tile instruction names a register of the mask, or an array instruction still reads one (R51,
R114). -/
def Core.tileBusy (c : Core) (mask : Nat) : Bool :=
  (c.tq ++ c.tAbandoned).any (fun j => tb mask j.reg) || c.x.reading.any fun r => tb mask r.reg

/-- Pool rows in use (R111, R142). -/
def Core.poolUsed (c : Core) : Nat := (c.tiles.map (·.rows)).sum

/-- Pool rows after a `tcfg` (R113). -/
def Core.poolAfter (c : Core) (mask rows : Nat) : Nat :=
  ((upFrom 0 16).map fun r => if tb mask r then rows else (c.tile r).rows).sum

/-- Every tile register changed, by its number. -/
def Core.modTiles (c : Core) (f : Nat → TileReg → TileReg) : Core :=
  { c with tiles := (upFrom 0 16).map fun r => f r (c.tile r) }

/-- `tcfg` (R113, R114, R126). -/
def Dev.tcfg (s : Dev) (n : Nat) : Dev :=
  let r := s.issue n .X (fun o => match o with | .tcfg _ _ _ _ => true | _ => false) fun k o => match o with
    | .tcfg mask rows fmt use =>
      let c := s.core n
      if c.tileBusy mask then .wait 3
      else match firstFault
          [(decide (1024 < c.poolAfter mask rows), 0x28),
           (mask == 0 || decide (128 < rows) || (decide (1 ≤ rows) && (fmt == 0 || decide (10 < fmt)))
             || (use && rows % 32 != 0), 0x29)] with
        | some f => .faultOn (s.evt (corePg n 1) 4) (recOf s n .X k f 4)
        | none => .ok (s.modCore n fun c => c.modTiles fun r t =>
            if tb mask r then
              (if rows = 0 then {} else { st := .empty, rows := rows, fmt := fmt, use := use, data := [] })
            else t)
    | _ => .ok s
  match (s.core n).nextSlot .X with
  | some (_, .tcfg mask _ _ _) => if (s.core n).tileBusy mask then r.bump (corePg n 1) 9 1 else r
  | _ => r

/-- TCFG. -/
def execTcfg (core : Nat) (s : State) : Host.Outcome State Fault Refusal :=
  .next (s.onCore core fun d => d.tcfg core)

/-- `trel` (R115). -/
def Dev.trel (s : Dev) (n : Nat) : Dev :=
  s.issue n .X (fun o => match o with | .trel _ => true | _ => false) fun _ o => match o with
    | .trel mask =>
      let c := s.core n
      if c.tileBusy mask then .wait 2
      else .ok (s.modCore n fun c => c.modTiles fun r t =>
        if tb mask r && t.st != .unconfigured then { t with st := .empty } else t)
    | _ => .ok s

/-- TREL. -/
def execTrel (core : Nat) (s : State) : Host.Outcome State Fault Refusal :=
  .next (s.onCore core fun d => d.trel core)

/-- `tld` and `tst` enter the tile queue (R122, R126, R194); a `tld` sets its register LOADING. -/
def Dev.tileIssue (s : Dev) (n : Nat) (which : Bool) : Dev :=
  s.issue n .X (fun o => match o with | .tmove st _ _ _ _ _ _ => st == which | _ => false) fun k o => match o with
    | .tmove store reg row cnt desc cfe cf =>
      let c := s.core n
      let t := c.tile reg
      if 4 ≤ c.tq.length then .wait 0
      else match firstFault
          [(decide (t.rows < row + cnt) || outSp desc 32, 0x2A), (store && t.st == .empty, 0x2C)] with
        | some f => .faultOn (s.evt (corePg n 1) 4) (recOf s n .X k f 4)
        | none => .ok (s.modCore n fun c => { c with
            work := c.work + 1
            tq := c.tq ++ [{ store := store, reg := reg, row := row, cnt := cnt, desc := desc, cfe := cfe, cf := cf,
                             work := c.work, pc := c.x.pc }]
            tiles := if store then c.tiles else lset c.tiles reg { t with st := .loading } })
    | _ => .ok s

/-- TLD. -/
def execTld (core : Nat) (s : State) : Host.Outcome State Fault Refusal :=
  .next (s.onCore core fun d => d.tileIssue core false)
/-- TST. -/
def execTst (core : Nat) (s : State) : Host.Outcome State Fault Refusal :=
  .next (s.onCore core fun d => d.tileIssue core true)

/-! The transfer (R117 to R120). -/

/-- The format pairs a transfer accepts (R120). -/
def tilePair (mem reg : Nat) : Bool :=
  (decide (mem ≤ 8) && decide (1 ≤ reg) && decide (reg ≤ 8)) || (isFp8 mem && mem == reg)

/-- Memory rows of a transfer, and the columns of each (R118): with TRANS the rows are the register's
elements. -/
def TileDesc.area (d : TileDesc) (cnt e : Nat) : Nat × Nat × Nat :=
  if d.trans then (e, d.ecol, cnt) else (cnt, d.ecol, e)

/-- The element array row at memory row `r`. -/
def TileDesc.rowAt (d : TileDesc) (r : Nat) : RowAt :=
  { fmt := d.fmt, planes := usePlanes d.fmt d.lay, el := (rowOfs d.base d.es r).toNat, p2 := (rowOfs d.p2 d.p2s r).toNat }

/-- Byte ranges a transfer touches, as first byte and count; the first byte may fall below 0. -/
def TileDesc.touched (d : TileDesc) (cnt e : Nat) : List (Int × Nat) :=
  let a := d.area cnt e
  (upFrom 0 a.1).flatMap fun r =>
    let z : RowAt := { fmt := d.fmt, planes := usePlanes d.fmt d.lay, el := 0, p2 := 0 }
    let s1 := z.span a.2.1 a.2.2
    let s2 := z.span2 a.2.1 a.2.2
    (rowOfs d.base d.es r + s1.1, s1.2)
      :: (if z.planes then [(rowOfs d.p2 d.p2s r + s2.1, s2.2)] else [])
      ++ (if isMx d.fmt then [(rowOfs d.sbase d.ss r + a.2.1 / 32, (a.2.2 + 31) / 32)] else [])

/-- A byte range lies outside the scratchpad. -/
def offSp (p : Int × Nat) : Bool := decide (p.1 < 0) || decide ((spSize : Int) < p.1 + p.2)

/-- The checks of a descriptor at start (R126), the lowest code first. -/
def Dev.tileFault (s : Dev) (n : Nat) (j : TileJob) (d : TileDesc) (t : TileReg) : Option Nat :=
  let e := rowElems t.fmt
  let ts := d.touched j.cnt e
  let planes := usePlanes d.fmt d.lay
  firstFault
    [(decide (t.rows < j.row + j.cnt) || outSp j.desc 32 || ts.any offSp
        || d.base % 8 != 0 || d.es % 8 != 0 || (planes && (d.p2 % 8 != 0 || d.p2s % 8 != 0))
        || (isMx d.fmt && d.ecol % 32 != 0)
        || (j.store && d.trans && isMx d.fmt && j.cnt % 32 != 0), 0x2A),
     (!tilePair d.fmt t.fmt || d.bad, 0x2B),
     (s.inCarve n j.desc 32 || ts.any (fun p => s.inCarve n p.1.toNat p.2), 0x2D)]

/-- The conversion settings of a core, as an instruction reads them at its start (R253); `tstep` is a `vupd`'s step. -/
def Dev.convNow (s : Dev) (n : Nat) (tstep : Option Nat) : Sr :=
  let pg := corePg n 2
  { key := s.reg (ra pg 0x154) ++ s.reg (ra pg 0x150)
    stream := s.reg (ra pg 0x158)
    step := match tstep with
      | some t => w32 t
      | none => if tb (s.regN (ra pg 0x160)) 0 then (s.core n).updStep + 1 else s.reg (ra pg 0x15C) }

/-- What a conversion draws its random bits from, `ofs` the offset of the record or descriptor that names the target
(R253). -/
def Sr.for_ (g : Sr) (ofs : Nat) : Sr := { g with stream := g.stream + w32 (ofs / 32) }

/-- The scratchpad of a core as data by word. -/
def Core.spRd (c : Core) : Rd := fun i => (c.spPeek i).data.toNat

/-- The memory element of register element (i, j) (R118). -/
def TileDesc.pos (d : TileDesc) (i j : Nat) : Nat × Nat := if d.trans then (j, d.ecol + i) else (i, d.ecol + j)

/-- Scale byte of memory element (r, c). -/
def TileDesc.scaleAt (d : TileDesc) (rd : Rd) (r c : Nat) : Nat := rdBytes rd ((rowOfs d.sbase d.ss r).toNat + c / 32) 1

/-- The random bits of a conversion at a position; none are drawn outside stochastic rounding. -/
def srBits (rnd : Nat) (g : Sr) (i : Nat) : Nat := if rnd = 2 then g.bits i else 0

/-- A register row from codes and scale bytes (R87): unused scale bytes are 0x7F. -/
def mkRow (f : Nat) (codes scales : List Nat) : TRow :=
  { el := BitVec.ofNat 512 (packBits (rowPitch f) codes)
    sc := w32 (packBits 8 ((upFrom 0 4).map fun b => lget 0x7F scales b)) }

/-- Row `i` a `tld` writes (R118, R119). With TRANS = 1 a row of equal plain FP8 formats is encoded again, under factor 1
(DESIGN CHOICE, log 54). -/
def loadRow (d : TileDesc) (rd : Rd) (f : Nat) (g : Sr) (i : Nat) : TRow :=
  let e := rowElems f
  let code (j : Nat) : Nat := let p := d.pos i j; (d.rowAt p.1).code rd p.2
  let scale (j : Nat) : Nat := let p := d.pos i j; if isMx d.fmt then d.scaleAt rd p.1 p.2 else 0x7F
  if d.fmt = f ∧ !d.trans then
    mkRow f ((upFrom 0 e).map code) (if isMx f then (upFrom 0 (e / 32)).map fun b => scale (32 * b) else [])
  else
    let val (j : Nat) : Val := memVal d.fmt (scale j) .one 0 (code j)
    if isMx f then
      let blocks := (upFrom 0 (e / 32)).map fun b =>
        encBlock f d.rnd d.sat d.srule ((upFrom (32 * b) 32).map val) ((upFrom (32 * b) 32).map fun j => srBits d.rnd g (i * e + j))
      mkRow f (blocks.flatMap fun k => k.2.map (·.1)) (blocks.map (·.1))
    else mkRow f ((upFrom 0 e).map fun j => (encElem f d.rnd (srBits d.rnd g (i * e + j)) d.sat (val j)).1) []

/-- The value of element `j` of a register row. -/
def rowVal (f : Nat) (r : TRow) (j : Nat) : Val := memVal f (fld r.sc.toNat (8 * (j / 32)) 8) .one 0 (rowCode f r.el j)

/-- The writes of a `tst` (R118, R119): along memory rows, blocks formed over the columns written. -/
def storeWrites (d : TileDesc) (t : TileReg) (row cnt : Nat) (g : Sr) : List WWrite :=
  let f := t.fmt
  let e := rowElems f
  let a := d.area cnt e
  let src (r c : Nat) : Nat × Nat := if d.trans then (c, r) else (r, c)
  joinWrites ((upFrom 0 a.1).flatMap fun r =>
    let at_ := d.rowAt r
    let el (c : Nat) : Nat × Nat := src r c
    let val (c : Nat) : Val := rowVal f (t.row (row + (el c).1)) (el c).2
    let bits (c : Nat) : Nat := srBits d.rnd g ((el c).1 * e + (el c).2)
    if d.fmt = f ∧ !d.trans then
      (upFrom 0 a.2.2).flatMap (fun c => at_.put (d.ecol + c) (rowCode f (t.row (row + r)).el c))
        ++ (if isMx f then (upFrom 0 (a.2.2 / 32)).flatMap fun b =>
              wrBits ((rowOfs d.sbase d.ss r).toNat + (d.ecol + 32 * b) / 32) 0 8 (fld (t.row (row + r)).sc.toNat (8 * b) 8)
            else [])
    else if isMx d.fmt then
      (upFrom 0 (a.2.2 / 32)).flatMap fun b =>
        let k := encBlock d.fmt d.rnd d.sat d.srule ((upFrom (32 * b) 32).map val) ((upFrom (32 * b) 32).map bits)
        ((k.2.zip (upFrom (32 * b) 32)).flatMap fun p => at_.put (d.ecol + p.2) p.1.1)
          ++ wrBits ((rowOfs d.sbase d.ss r).toNat + (d.ecol + 32 * b) / 32) 0 8 k.1
    else (upFrom 0 a.2.2).flatMap fun c => at_.put (d.ecol + c) (encElem d.fmt d.rnd (bits c) d.sat (val c)).1)

/-- Scratchpad words of byte ranges. -/
def rangeWords (rs : List (Int × Nat)) : List Nat := (rs.flatMap fun p => wordsAt p.1.toNat p.2).eraseDups

/-- The queued tile instruction at the head starts (R122), once no earlier array instruction reads the register it loads and
the space it reads is not being wiped or cleared: it reads its descriptor, makes its checks, and moves its rows; a fault
stops the execute stream (R125, R126), which then holds the tile queue. Every source word is read at the start (DESIGN
CHOICE, log 52: R124 leaves the cycle open). -/
def Dev.tileStart (s : Dev) (n : Nat) : Dev :=
  let c := s.core n
  match c.tq with
  | [] => s
  | j :: rest =>
    let d := tileDesc (rdBytes c.spRd j.desc 32)
    if j.started ∨ c.x.frec.isSome ∨ c.spHeld j.desc 32 ∨ (!j.store && c.x.reading.any fun r => r.reg == j.reg) then s
    else if (d.touched j.cnt (rowElems (c.tile j.reg).fmt)).any (fun p => c.spHeld p.1.toNat p.2) then s
    else
      let t := c.tile j.reg
      let s1 := s.spNote n (wordsAt j.desc 32)
      let e := rowElems t.fmt
      let rd := rangeWords (d.touched j.cnt e)
      let stop (s : Dev) (f addr : Nat) (poison : Bool) : Dev :=
        (s.faultEnd n .X { cause := f, slot := 2, pc := j.pc, engine := 4, akind := if poison then 1 else 0, addr := addr,
                            write := j.store }).evt (corePg n 1) 4
      match s.tileFault n j d t with
      | some f => stop s1 f 0 false
      | none =>
        if c.spPoison j.desc 32 then stop s1 0x2E j.desc true
        else
          let g := (s.convNow n none).for_ j.desc
          if j.store then
            s1.modCore n fun c => { c with tq := { j with started := true, writes := storeWrites d t j.row j.cnt g } :: rest }
          else
            let s2 := s1.spNote n rd
            match rd.find? fun i => (c.spPeek i).poison with
            | some i => stop s2 0x2E (8 * i) true
            | none => s2.modCore n fun c => { c with tq :=
                { j with started := true, staged := (upFrom 0 j.cnt).map (loadRow d c.spRd t.fmt g) } :: rest }

/-- TILE_START. -/
def execTileStart (core : Nat) (s : State) : Host.Outcome State Fault Refusal :=
  .next (s.onCore core fun d => d.tileStart core)

/-- The started tile instruction retires (R123, R124). A `tst` writes every row here, so that one abandoned before has
written none (DESIGN CHOICE, log 52: R125 lets it have written some). -/
def Dev.tileRetire (s : Dev) (n : Nat) : Dev :=
  match (s.core n).tq with
  | [] => s
  | j :: rest =>
    if !j.started || (j.store && j.writes.any fun w => (s.core n).spHeld w.addr 8) then s
    else
      let s1 := s.modCore n fun c => { c with tq := rest }
      let s2 :=
        if j.store then (s1.spWrites n j.writes).bump (corePg n 1) 7 j.cnt
        else
          (s1.modCore n fun c => c.modTiles fun r t =>
            if r = j.reg then
              { t with
                data := (j.staged.zip (upFrom j.row j.cnt)).foldl (fun m p => mset (fun _ => {}) m p.2 p.1) t.data
                st := if rest.any (fun k => !k.store && k.reg == j.reg) then .loading else .valid }
            else t).bump (corePg n 1) 6 j.cnt
      s2.complete n j.cfe j.cf 2

/-- TILE_RETIRE. -/
def execTileRetire (core : Nat) (s : State) : Host.Outcome State Fault Refusal :=
  .next (s.onCore core fun d => d.tileRetire core)

end Sys2Proof.Machine
end

