-- ==== Sys2Proof/Machine/Approx.lean ====
section
/-! DEFINITION. The operations the spec bounds by ulps (R214 to R217): their exact results in fixed point with 640
fraction bits, which is exact to far below an ulp, and the FP32 words within the bound. Which of those words comes out is a
free value (log 9). -/
namespace Sys2Proof.Machine
open Sys2Proof

/-! Fixed point: an integer counts units of 2^-640. -/

/-- Fraction bits. -/
def fxBitsP : Nat := 640
/-- One. -/
def fxOne : Int := (2 ^ fxBitsP : Nat)
/-- Product. -/
def fxMul (a b : Int) : Int := a * b / (2 ^ fxBitsP : Nat)
/-- Quotient. -/
def fxDiv (a b : Int) : Int := a * (2 ^ fxBitsP : Nat) / b
/-- A whole number of `d`-ths. -/
def fxOf (n : Int) (d : Nat) : Int := n * (2 ^ fxBitsP : Nat) / d
/-- The value of m x 2^e with a sign. -/
def fxVal (neg : Bool) (m : Nat) (e : Int) : Int :=
  let v : Int := (if 0 ≤ e + 640 then m * pow2 (e + 640) else m / pow2 (-(e + 640)) : Nat)
  if neg then -v else v
/-- A value kept between bounds. -/
def fxClamp (lo hi : Int) (x : Int) : Int := if x < lo * fxOne then lo * fxOne else if hi * fxOne < x then hi * fxOne else x

/-- Terms of z + z^3/3 + z^5/5 + ..., from the power `t` of z. -/
def fxAtanhSum (z2 : Int) : Nat → Nat → Int → Int
  | 0, _, _ => 0
  | k + 1, n, t => t / (2 * n + 1 : Nat) + fxAtanhSum z2 k (n + 1) (fxMul t z2)
/-- atanh z for z up to 1/3. -/
def fxAtanh (z : Int) : Int := fxAtanhSum (fxMul z z) 220 0 z
/-- ln 2. -/
def fxLn2 : Int := 2 * fxAtanh (fxOf 1 3)

/-- Terms of 1 + r + r^2/2 + ..., from term `t`. -/
def fxExpSum (r : Int) : Nat → Nat → Int → Int
  | 0, _, _ => 0
  | k + 1, n, t => t + fxExpSum r k (n + 1) (fxMul t r / (n + 1 : Nat))
/-- e^x, of an argument kept between −500 and 200. -/
def fxExp (x : Int) : Int :=
  let y := fxClamp (-500) 200 x
  let k := y / fxLn2
  let s := fxExpSum (y - k * fxLn2) 140 0 fxOne
  if 0 ≤ k then s * pow2 k else s / pow2 (-k)

/-- Terms of x + x^3/3 + x^5/15 + ..., from term `t`. -/
def fxErfSum (x2 : Int) : Nat → Nat → Int → Int
  | 0, _, _ => 0
  | k + 1, n, t => t + fxErfSum x2 k (n + 1) (fxMul t x2 / (2 * n + 3 : Nat))
/-- Terms of arctan (1/n), from term `t`. -/
def fxAtanSum (n2 : Int) : Nat → Nat → Int → Int
  | 0, _, _ => 0
  | k + 1, i, t => t / (2 * i + 1 : Nat) - fxAtanSum n2 k (i + 1) (t / n2)
/-- Pi, by Machin's formula. -/
def fxPi : Int := 4 * (4 * fxAtanSum 25 150 0 (fxOf 1 5) - fxAtanSum 57121 150 0 (fxOf 1 239))
/-- Square root. -/
def fxSqrt (a : Int) : Int :=
  let n := a.toNat * 2 ^ fxBitsP
  (isqrtFrom n (Nat.log2 n / 2 + 1) 0 : Nat)
/-- The standard normal distribution function; beyond 16 it is 0 or 1 to far below an ulp of any result. -/
def fxPhi (x : Int) : Int :=
  if 16 * fxOne ≤ x then fxOne
  else if x ≤ -(16 * fxOne) then 0
  else
    let x2 := fxMul x x
    fxOne / 2 + fxDiv (fxMul (fxExp (-(x2 / 2))) (fxErfSum x2 900 0 x)) (fxSqrt (2 * fxPi))

/-- 1 / (1 + e^-x). -/
def fxSigmoid (x : Int) : Int := fxDiv fxOne (fxOne + fxExp (-x))
/-- ln (1 + e^x). -/
def fxSoftplus (x : Int) : Int :=
  let t := fxExp (if x < 0 then x else -x)
  (if x < 0 then 0 else x) + 2 * fxAtanh (fxDiv t (2 * fxOne + t))
/-- log2 of m x 2^e, m > 0. -/
def fxLog2 (m : Nat) (e : Int) : Int :=
  let y := fxVal false m (-(Nat.log2 m : Int))
  fxDiv (2 * fxAtanh (fxDiv (y - fxOne) (y + fxOne))) fxLn2 + flog2 m e * fxOne

/-! The words within a bound. -/

/-- The value of magnitude code `c`; the code of infinity stands for 2^128. -/
def codeMag (c : Nat) : Nat × Int := if c < 2 ^ 23 then (c, -149) else (2 ^ 23 + c % 2 ^ 23, (c / 2 ^ 23 : Nat) - 150)

/-- An FP32 word within `n` units in the last place of the exact value m x 2^e: `pick` chooses among them. Infinity where
the value lies beyond the range. -/
def withinUlps (n : Nat) (neg : Bool) (m : Nat) (e : Int) (pick : Nat) : Word :=
  let x : Int := if m = 0 then -126 else max (flog2 m e) (-126)
  let q := x - 23
  let lo := roundMag 1 0 m e q
  let at_ : Int := (x + 126) * (2 ^ 23 : Nat) + lo
  let top : Int := 0x7F800000
  let word (i : Int) : Word := w32 (i.natAbs + if (decide (i < 0) != neg) then 2 ^ 31 else 0)
  if top ≤ at_ then word top
  else
    let near (i : Int) : Bool :=
      let c := codeMag i.natAbs
      let e0 := min (min c.2 e) q
      let d := signedAt (decide (i < 0)) c.1 c.2 e0 - signedAt false m e e0
      decide (i ≤ top) && decide (d.natAbs ≤ n * pow2 (q - e0))
    let ok := ((upFrom 0 (3 * n + 2)).map fun (k : Nat) => at_ - 2 * n + (k : Nat)).filter near
    word (lget at_ ok (pick % ok.length))

/-- A word within `n` units of a fixed-point result, 40 bits of which absorb its own error. -/
def fxPick (n : Nat) (v : Int) (pick : Nat) : Word :=
  withinUlps n (decide (v < 0)) ((v.natAbs + 2 ^ 39) / 2 ^ 40) (-600) pick

/-- The constants of `gelu_t` as R216 prints them: x + 0.044715 x^3, times 2 x 0.797885. -/
def fxGeluArg (x : Int) : Int := fxMul (fxOf 1595770 1000000) (x + fxMul (fxOf 44715 1000000) (fxMul x (fxMul x x)))

/-- An approximated operation at a finite operand neg, m x 2^e, away from the points the spec states exactly
(R215 to R217). -/
def approxAt (f : ApproxFn) (neg : Bool) (m : Nat) (e : Int) (pick : Nat) : Word :=
  let x := fxVal neg m e
  match f with
  | .exp2 =>
    let y := fxClamp (-700) 200 x
    let k := y / fxOne
    let s := fxExpSum (fxMul (y - k * fxOne) fxLn2) 140 0 fxOne
    fxPick 1 (if 0 ≤ k then s * pow2 k else s / pow2 (-k)) pick
  | .log2 => fxPick 1 (fxLog2 m e) pick
  | .rcp => let r := divVal 1 0 m e; withinUlps 1 neg r.1 r.2 pick
  | .rsqrt => let r := divVal 1 0 m e; let q := sqrtVal r.1 r.2; withinUlps 1 false q.1 q.2 pick
  | .gelu => fxPick 3 (fxMul x (fxPhi x)) pick
  | .geluT => fxPick 3 (fxMul x (fxSigmoid (fxGeluArg x))) pick
  | .silu => fxPick 3 (fxMul x (fxSigmoid x)) pick
  | .sigmoid => fxPick 2 (fxSigmoid x) pick
  | .tanh => fxPick 2 (fxOne - fxDiv (2 * fxOne) (fxOne + fxExp (2 * x))) pick
  | .softplus => fxPick 2 (fxSoftplus x) pick
  | .exp => fxPick 2 (fxExp x) pick
  | .dsoftplus => fxPick 2 (fxOne - fxExp (-x)) pick

end Sys2Proof.Machine
end

