-- ==== Sys2Proof/Machine/Cubics.lean ====
section
/-! DEFINITION. The cubics of the derivative tables (R218): 32 per branch of `gelu`, `gelu_t` and `silu`, computed from the
rule's construction (Chebyshev nodes, exact targets, one rounding of each coefficient) outside the package (log 10). A
literal holds c3, c2, c1, c0 as four FP32 words, c0 lowest. -/
namespace Sys2Proof.Machine
open Sys2Proof

/-- `gelu`, right branch, segments 0 to 31 (R218). -/
def geluRightCubics : List Nat :=
  [0xbfcc26de3fa10ccf3f6c75cb3913feba, 0xbf88cab93f3336da3f951f923e075225, 0xbf6c1b343e9a1d033fa526693e92c103,
   0xbf51157dbd34f5733fa946673ee6d093, 0xbf390e22beb36f1f3fa2fc0a3f1d241b, 0xbf1dff40bf1f49343f9375963f441fb7,
   0xbef20bd3bf5aed913f77c38f3f6630f6, 0xbe821b09bf847f763f3b78143f80c095]
  ++ [0x3da5f8cbbf912fc63eecad843f8a55d1, 0x3f0e47e5bf8dc4263e3bd13c3f8f7bab, 0x3f8b455fbf65d353bd87fdb33f905772,
   0x3fae3331bef394d6be7515de3f8dc180, 0x3f747f2d3d66e7f7be972d2e3f8950c1, 0x3d619d723ed58014be73cd493f84f156,
   0xbef837b33ed60a9abe07783e3f81fb16, 0xbed079f03e65a547bd4e6cd83f80942e]
  ++ [0xbe295bd93d95ac5cbc5467ed3f801e86, 0xbd1e04c83c7251a9bb0fd0313f800444, 0xbbacea5e3aef605fb976cc693f800063,
   0xb9d9467c390b3067b7802a063f800006, 0xb796f96b36b62aa1b5191b123f800000, 0xb4dd958833ff1311b24725ca3f800000,
   0xb1a30b0730b4da5faf050f723f800000, 0xade35b152cf4ed76ab2bd4703f800000]
  ++ [0xa98d63a12894dc63a6c91bb93f800000, 0xa4931bc523982204a1c77b283f800000, 0x9eef56791df41ae49c1c596f3f800000,
   0x988dcae2178f16fc95b407143f800000, 0x9163302a10636ed28e8d1f743f800000, 0x8963be2c0862a050868b2e913f800000,
   0x8083bbc90020a0c380027c5f3f800000, 0x8000000a00000002800000003f800000]

/-- `gelu`, left branch, segments 0 to 31 (R218). -/
def geluLeftCubics : List Nat :=
  [0x4278c2ffc026e3efbf5a9b40b9fbc987, 0x3fe8a04d3faa7562bf595490bce3f8b1, 0x3fefbf563fbffbccbf42a8bcbd5918d1,
   0x4004e8f53fd664f2bf294004bd9a18b1, 0x4016b3743fef3de3bf0ce270bdc0ede5, 0x402ed21c4005b1f8beda6723bde043dd,
   0x4050bbc54015ff88be936cb2bdf7377e, 0x4081884840296aa8be06f7aabe026076]
  ++ [0x40a9d1c4404169ec3d3b0252be03d228, 0x40f1e56840609a5e3e802fdbbdfe5818, 0x41460a4340860c293efc23aebde6d472,
   0x41d6cc7540a6ff5c3f4add80bdbe29a8, 0x43127b5140b2dd863f9bb671bd7eb95e, 0x4512f90ac3102d08402cbdc4bc71595a,
   0x00000000000000000000000000000000, 0x00000000000000000000000000000000]
  ++ [0x00000000000000000000000000000000, 0x00000000000000000000000000000000, 0x00000000000000000000000000000000,
   0x00000000000000000000000000000000, 0x00000000000000000000000000000000, 0x00000000000000000000000000000000,
   0x00000000000000000000000000000000, 0x00000000000000000000000000000000]
  ++ [0x00000000000000000000000000000000, 0x00000000000000000000000000000000, 0x00000000000000000000000000000000,
   0x00000000000000000000000000000000, 0x00000000000000000000000000000000, 0x00000000000000000000000000000000,
   0x00000000000000000000000000000000, 0x00000000000000000000000000000000]

/-- `gelu_t`, right branch, segments 0 to 31 (R218). -/
def geluTRightCubics : List Nat :=
  [0xbfbb10c53f9d20d13f6ccb5838a3700c, 0xbf8922333f3404333f950bf73e0732af, 0xbf6d6ed03e9b232c3fa528333e92ad36,
   0xbf5235bcbd34fe663fa950aa3ee6c06f, 0xbf397745beb44f193fa2ffa83f1d1e08, 0xbf1d41f8bf1fe3713f9369073f441897,
   0xbeedcc87bf5b40df3f778d6e3f6624a7, 0xbe783323bf843f103f3b47043f80b6ed]
  ++ [0x3db40962bf9053cb3eecd2893f8a4ada, 0x3f0ae17bbf8c848f3e3e1d633f8f75bd, 0x3f860d7abf64a888bd7f8fb03f905ed9,
   0x3faa332cbefa0ae0be71bf4e3f8dd90a, 0x3f7f57843cfe277fbe97cdcd3f896d2f, 0x3dfca8563ed27d23be7977cb3f84fe7e,
   0xbefeafd23ee0ba40be0b82553f81f2f1, 0xbee683033e730132bd4be1363f8085be]
  ++ [0xbe2ee7233d8ec461bc34c7693f80168e, 0xbcf6bbca3c2adb50baae97f63f800223, 0xbb1475363a376e5ab89f17643f800019,
   0xb8832683379587bfb5e564403f800000, 0xb50c9d7d34179767b254b8373f800000, 0xb091d08a2f97586aadc794433f800000,
   0xaae04fc529e3270aa80fb9073f800000, 0xa3bc2b4b22bbb050a0e7775d3f800000]
  ++ [0x9af16d7519eebb7e9811062c3f800000, 0x901d868b0f1b0f818d3ae81c3f800000, 0x830318a20200c4f5804d51753f800000,
   0x8000000000000000800000003f800000, 0x8000000000000000800000003f800000, 0x8000000000000000800000003f800000,
   0x8000000000000000800000003f800000, 0x8000000000000000800000003f800000]

/-- `gelu_t`, left branch, segments 0 to 31 (R218). -/
def geluTLeftCubics : List Nat :=
  [0x4217d7a1bf8aa00fbf620a19b994c6c8, 0x3fde24c63fab0ac6bf59179bbce39bd1, 0x3feac00d3fbfb276bf426862bd58c9d9,
   0x40021f7e3fd5a603bf29105cbd99e2e4, 0x4013446f3fedf9d5bf0cd316bdc0afdb, 0x402a9fc54004bda2bedaae3ebde007e9,
   0x404bcd2e4014a63dbe944754bdf70d1d, 0x407dbefa402799ddbe0a4196be025ef2]
  ++ [0x40a79863403f15b63d259a14be03f2e2, 0x40f22efe405dcec73e787ebbbdff02eb, 0x414b4ee3408493f93ef6d657bde8138f,
   0x41e6385a40a5e7aa3f47c852bdc024c0, 0x432ae9ed40a8e9ad3f9b1bdcbd82116b, 0x451ebf9ec31bba3e403a94e3bc8257d9,
   0x00000000000000000000000000000000, 0x00000000000000000000000000000000]
  ++ [0x00000000000000000000000000000000, 0x00000000000000000000000000000000, 0x00000000000000000000000000000000,
   0x00000000000000000000000000000000, 0x00000000000000000000000000000000, 0x00000000000000000000000000000000,
   0x00000000000000000000000000000000, 0x00000000000000000000000000000000]
  ++ [0x00000000000000000000000000000000, 0x00000000000000000000000000000000, 0x00000000000000000000000000000000,
   0x00000000000000000000000000000000, 0x00000000000000000000000000000000, 0x00000000000000000000000000000000,
   0x00000000000000000000000000000000, 0x00000000000000000000000000000000]

/-- `silu`, right branch, segments 0 to 31 (R218). -/
def siluRightCubics : List Nat :=
  [0xbfb5a6773f8ab0423f253db239c209cf, 0xbf2b9e283f24ce003f5a47303dc30479, 0xbf23ed6b3ec8a4cc3f7b73283e579b75,
   0xbf174fc63e1ad23b3f866f783ead2928, 0xbf059dbfbd916c5e3f87be973ef0ff37, 0xbede0144be88d6593f825cda3f19e3bb,
   0xbea7a2cfbedc54ee3f6e78753f3931c4, 0xbe52eb5cbf0db1aa3f4f0f8d3f551e3f]
  ++ [0xbd976e7cbf2185663f293b3e3f6caf0c, 0x3d7a0d1fbf289ae03f0007f93f7f46e8, 0x3e401ae5bf22a2443ead59d83f8656a6,
   0x3e94dfd3bf10656c3e4147333f8a8833, 0x3eb56306bee848c63d7bdc1d3f8c7f22, 0x3ebb2fa9bea37653bd1099483f8ca963,
   0x3ea54cd9be39158bbdc8d5503f8b8cbb, 0x3e74ddbcbd70fdf4be035b3a3f89b330]
  ++ [0x3e0ec8893cfd0aa4be07233f3f8796f1, 0x3d4d43853da920a8bdf16de03f859321, 0xbc4864fa3dcdd624bdc295e03f83ddc1,
   0xbd3674d93dc2d5f4bd906e4a3f828b42, 0xbd5ab95a3d9f8cf3bd4811f43f819841, 0xbd4671fc3d6c050cbd0282a13f80f4a7,
   0xbd1b0fcb3d215055bca172c53f808c8b, 0xbcdaff973cce94b2bc3e4db43f804d8f]
  ++ [0xbc8f1ed43c7a0675bbd67f313f80292f, 0xbc2f73b63c0fd3a0bb67c58e3f801511, 0xbbcb62cd3b9dea09baf086e03f800a64,
   0xbb601d2e3b25ea24ba700ecf3f8004f2, 0xbaeb95183aa723dab9e6a6eb3f800246, 0xba6cd3eb3a21ac9fb95583ce3f800102,
   0xb9e41c2939965520b8be8bc83f80006f, 0xb952d01e39067e88b82404f93f80002e]

/-- `silu`, left branch, segments 0 to 31 (R218). -/
def siluLeftCubics : List Nat :=
  [0x42e733cbc0cc37c9bf038552ba81453b, 0x3f820d543f6da332bf19b9abbca1f8d6, 0x3f34be1a3f8258abbf0a1f7fbd1a023a,
   0x3f2b4bba3f8ac5f1bef29a5cbd5ae89d, 0x3f27ef463f92cba5becee826bd8991ce, 0x3f25b6723f9aaa5cbea93979bda11925,
   0x3f23ecc73fa26e91be81966dbdb3cb4f, 0x3f229b1d3faa1d22be3009f6bdc16a24]
  ++ [0x3f221b203fb1bb6cbdb22745bdc9b825, 0x3f2321b83fb952dc3ad8439fbdcc7850, 0x3f2706ff3fc0f4f73dc087b4bdc96dca,
   0x3f307e0e3fc8c2673e42b49fbdc05b48, 0x3f4586223fd0f9733e9494ffbdb101ed, 0x3f75a7903fda16a73ec9febebd9b1f10,
   0x3fba384b3fe522c43f00fe9abd7ccf0d, 0x4055a2ad3ff400613f1ecb01bd34f841]
  ++ [0xc3c8a90d417ac89e3f25cdbfbcba3784, 0x00000000000000000000000000000000, 0x00000000000000000000000000000000,
   0x00000000000000000000000000000000, 0x00000000000000000000000000000000, 0x00000000000000000000000000000000,
   0x00000000000000000000000000000000, 0x00000000000000000000000000000000]
  ++ [0x00000000000000000000000000000000, 0x00000000000000000000000000000000, 0x00000000000000000000000000000000,
   0x00000000000000000000000000000000, 0x00000000000000000000000000000000, 0x00000000000000000000000000000000,
   0x00000000000000000000000000000000, 0x00000000000000000000000000000000]

/-- Coefficient `i` of segment `k` on branch `t` of table `f` (0 `gelu`, 1 `gelu_t`, 2 `silu`). -/
def cubicCoef (f t k i : Nat) : Word :=
  let rows := match f, t with
    | 0, 0 => geluRightCubics
    | 0, _ => geluLeftCubics
    | 1, 0 => geluTRightCubics
    | 1, _ => geluTLeftCubics
    | _, 0 => siluRightCubics
    | _, _ => siluLeftCubics
  w32 ((match rows[k]? with
    | some v => v
    | none => 0) / 2 ^ (32 * i))

end Sys2Proof.Machine
end

