-- ==== Sys2Proof/Machine/VecMath.lean ====
section
/-! DEFINITION. The operations of a vector stage (R213 to R218) and the reductions' orders (R224). -/
namespace Sys2Proof.Machine
open Sys2Proof

/-- The canonical NaN (R213). -/
def nanW : Word := 0x7FC00000#32
/-- 1.0. -/
def oneW : Word := 0x3F800000#32
/-- The infinities. -/
def infW (neg : Bool) : Word := if neg then 0xFF800000#32 else 0x7F800000#32
/-- A NaN. -/
def isNanW (w : Word) : Bool := (ofF32 w).isNan
/-- A zero of either sign. -/
def isZeroW (w : Word) : Bool := (ofF32 w).isZero
/-- Every NaN a stage produces is the canonical one (R213). -/
def canonW (w : Word) : Word := if isNanW w then nanW else w
/-- FP32 order of two values that are not NaN. -/
def ordW (a b : Word) : Int := (ofF32 a).cmp (ofF32 b)
/-- Above zero. -/
def posW (a : Word) : Bool := ordW a 0 == 1

/-- `min` and `max` (R213): −0 is below +0. -/
def minF (a b : Word) : Word :=
  if isNanW a ∨ isNanW b then nanW
  else if ordW a b < 0 then a else if 0 < ordW a b then b else if (ofF32 a).sign then a else b
/-- The larger value. -/
def maxF (a b : Word) : Word :=
  if isNanW a ∨ isNanW b then nanW
  else if ordW a b < 0 then b else if 0 < ordW a b then a else if (ofF32 a).sign then b else a
/-- The magnitude. -/
def absF (a : Word) : Word := a &&& 0x7FFFFFFF#32
/-- Negation. -/
def negF (a : Word) : Word := a ^^^ 0x80000000#32

/-- Comparisons of `cmp` (R215). -/
def cmpF (param : Nat) (a b : Word) : Bool :=
  if isNanW a ∨ isNanW b then param == 1 || param == 6
  else
    let o := ordW a b
    match param with
    | 0 => o == 0
    | 1 => o != 0
    | 2 => decide (o < 0)
    | 3 => decide (o ≤ 0)
    | 4 => decide (0 < o)
    | 5 => decide (0 ≤ o)
    | _ => false

/-- The transcendental operations and activation functions (R215 to R217): their special points, and elsewhere a word within
the error bound, the same for the same operand (R214; the choice among them is a free value, log 9). -/
def approxF (f : ApproxFn) (a : Word) : Word :=
  let pick := (Config.approx f a).toNat
  match ofF32 a, f with
  | .nan, _ => nanW
  | .inf n, .exp2 | .inf n, .exp | .inf n, .softplus => if n then 0 else infW false
  | .inf n, .log2 => if n then nanW else infW false
  | .inf n, .rcp => if n then 0x80000000#32 else 0
  | .inf n, .rsqrt => if n then nanW else 0
  | .inf n, .gelu | .inf n, .geluT | .inf n, .silu => if n then 0x80000000#32 else infW false
  | .inf n, .sigmoid => if n then 0 else oneW
  | .inf n, .tanh => if n then negF oneW else oneW
  | .inf _, .dsoftplus => Config.approx f a
  | .fin n m e, .log2 => if m = 0 then infW true else if n then nanW else approxAt f n m e pick
  | .fin n m e, .rcp => if m = 0 then infW n else approxAt f n m e pick
  | .fin n m e, .rsqrt => if m = 0 then infW n else if n then nanW else approxAt f n m e pick
  | .fin n m e, _ => approxAt f n m e pick

/-- ymin of a derivative table (R218): 0 `gelu`, 1 `gelu_t`, 2 `silu`. -/
def dtabMin : Nat → Word
  | 0 => 0xBE2E0C9E#32
  | 1 => 0xBE2E1EF7#32
  | _ => 0xBE8E924F#32

/-- The derivative operations with tables (R218). -/
def dTable (f : Nat) (y tag : Word) : Word :=
  let t := !isZeroW tag
  if isNanW y then nanW
  else if t && decide (0 ≤ ordW y 0) then 0
  else if !t && y == infW false then oneW
  else
    let s := sqrtF (maxF (subF y (dtabMin f)) 0)
    let d : Int := if t then -5 else -3
    match ofF32 s with
    | .fin _ m e =>
      let k := roundMag 1 0 m e d
      if 31 < k then oneW
      else
        let u := toF32 ((ofF32 s).sub (.fin false k d))
        let c := cubicCoef f (b2n t) k
        fmaF (fmaF (fmaF (c 3) u (c 2)) u (c 1)) u (c 0)
    | _ => oneW

/-- Operands an operation uses; none for a reserved code (R215 to R217). -/
def opArity (op : Nat) : Option Nat :=
  if op = 0 ∨ op = 8 then some 1
  else if op = 4 ∨ op = 5 ∨ op = 9 then some 3
  else if 1 ≤ op ∧ op ≤ 0x0A then some 2
  else if 0x0B ≤ op ∧ op ≤ 0x10 then some 1
  else if 0x18 ≤ op ∧ op ≤ 0x20 then some 1
  else if 0x2A ≤ op ∧ op ≤ 0x2C then some 2
  else if 0x28 ≤ op ∧ op ≤ 0x30 then some 1
  else none

/-- PARAM values an operation takes (R207). -/
def paramOk (op p : Nat) : Bool :=
  if op = 0x0A then decide (p ≤ 6)
  else if op = 0x19 ∨ op = 0x29 then decide (p ≤ 3)
  else if op = 0x0B then decide (p ≤ 1)
  else p == 0

/-- The result of a stage (R213 to R218); `k` is the slope of `lrelu` and `dlrelu`. -/
def stageFn (op param : Nat) (k a b c : Word) : Word :=
  canonW (match op with
    | 0x00 | 0x10 => a
    | 0x01 => addF a b
    | 0x02 => subF a b
    | 0x03 => mulF a b
    | 0x04 => fmaF a b c
    | 0x05 => fmaF (negF a) b c
    | 0x06 => minF a b
    | 0x07 => maxF a b
    | 0x08 => absF a
    | 0x09 => if isZeroW c then b else a
    | 0x0A => if cmpF param a b then oneW else 0
    | 0x0B => toF32 (decElem (1 + param) (encElem (1 + param) 0 0 false (ofF32 a)).1)
    | 0x0C => approxF .exp2 a
    | 0x0D => approxF .log2 a
    | 0x0E => approxF .rcp a
    | 0x0F => approxF .rsqrt a
    | 0x18 => maxF a 0
    | 0x19 => if isNanW a then nanW else if posW a then a else mulF k a
    | 0x1A => approxF .gelu a
    | 0x1B => approxF .geluT a
    | 0x1C => approxF .silu a
    | 0x1D => approxF .sigmoid a
    | 0x1E => approxF .tanh a
    | 0x1F => approxF .softplus a
    | 0x20 => approxF .exp a
    | 0x28 => if isNanW a then nanW else if posW a then oneW else 0
    | 0x29 => if isNanW a then nanW else if posW a then oneW else k
    | 0x2A => dTable 0 a b
    | 0x2B => dTable 1 a b
    | 0x2C => dTable 2 a b
    | 0x2D => fmaF (negF a) a a
    | 0x2E => fmaF (negF a) a oneW
    | 0x2F => approxF .dsoftplus a
    | _ => a)

/-- The region tag of a stage (R216). -/
def stageTag (op : Nat) (a : Word) : Bool :=
  let below (t : Word) : Bool := !isNanW a && decide (ordW a t < 0)
  match op with
  | 0x1A => below 0xBF40754F#32
  | 0x1B => below 0xBF40A32F#32
  | 0x1C => below 0xBFA3A494#32
  | _ => false

/-- The operation writes a region tag to a BIT output (R211). -/
def tagged (op : Nat) : Bool := op == 0x1A || op == 0x1B || op == 0x1C

/-! Reductions (R224, R225): 0 sum, 1 max, 2 min, 3 amax. -/

/-- Two values reduced. -/
def redF : Nat → Word → Word → Word
  | 0 => addF
  | 2 => minF
  | _ => maxF
/-- A value as it enters the reduction. -/
def redIn (rop : Nat) (a : Word) : Word := if rop = 3 then absF a else a
/-- Where a running value starts. -/
def redStart : Nat → Word
  | 1 => infW true
  | 2 => infW false
  | _ => 0
/-- Adjacent pairs reduced. -/
def pairUp (f : Word → Word → Word) : List Word → List Word
  | a :: b :: l => f a b :: pairUp f l
  | l => l
/-- The binary tree over the lanes: `k` levels. -/
def treeRed (f : Word → Word → Word) : Nat → List Word → List Word
  | 0, l => l
  | k + 1, l => treeRed f k (pairUp f l)
/-- The reduced value of a group of 64 or 32 lanes. -/
def groupRed (rop : Nat) (l : List Word) : Word := lget 0 (treeRed (redF rop) 6 (l.map (redIn rop))) 0

end Sys2Proof.Machine
end

