-- ==== Sys2Proof/Machine/Vector.lean ====
section
/-! DEFINITION. The vector engine: its queue, chains and their faults (R195, R196, R203 to R232). -/
namespace Sys2Proof.Machine
open Sys2Proof

/-! The chain header (R206), but for its size, which stands in Operands; `h` is its 512 bits. -/

/-- Stages in use. -/
def hNst (h : Nat) : Nat := fld h 24 3 + 1
/-- Input streams. -/
def hNin (h : Nat) : Nat := fld h 27 2
/-- NOUT. -/
def hNout (h : Nat) : Nat := fld h 30 2
/-- HAS_BROW. -/
def hBrow (h : Nat) : Bool := tb h 32
/-- HAS_BCOL. -/
def hBcol (h : Nat) : Bool := tb h 33
/-- GPHASE. -/
def hGphase (h : Nat) : Bool := tb h 34
/-- RF. -/
def hRf (h : Nat) : Bool := tb h 35
/-- The first stage of the second half; all stages are in the first half without RF. -/
def hSplit (h : Nat) : Nat := if hRf h then fld h 36 3 else hNst h
/-- RMODE. -/
def hRmode (h : Nat) : Nat := fld h 39 3
/-- ROP. -/
def hRop (h : Nat) : Nat := fld h 42 2
/-- RACC. -/
def hRacc (h : Nat) : Bool := tb h 44
/-- RSRC. -/
def hRsrc (h : Nat) : Nat := fld h 45 4
/-- Source of output `k`. -/
def hOsrc (h k : Nat) : Nat := fld h (78 + 4 * k) 4
/-- Stage word `i` (R207). -/
def hStage (h i : Nat) : Nat := fld h (128 + 32 * i) 32
/-- Immediate `k`. -/
def hImm (h k : Nat) : Word := w32 (fld h (384 + 32 * k) 32)

/-- Stream record `i` behind a header at `desc`, from the descriptor's words (R205, R245). -/
def recAt (desc : Nat) (d : List DWord) (i : Nat) : VRec :=
  vrec (wordsNat ((d.drop (8 + 4 * i)).take 4)) (desc + 64 + 32 * i)
/-- Number of records of a chain. -/
def hNrec (h : Nat) : Nat := hNin h - b2n (hDrain h) + b2n (hBrow h) + b2n (hBcol h) + hNout h
/-- Record number of input `j`. -/
def hInAt (h j : Nat) : Nat := j - b2n (hDrain h)
/-- Record number of BROW. -/
def hBrowAt (h : Nat) : Nat := hNin h - b2n (hDrain h)
/-- Record number of BCOL. -/
def hBcolAt (h : Nat) : Nat := hBrowAt h + b2n (hBrow h)
/-- Record number of output `k`. -/
def hOutAt (h k : Nat) : Nat := hBcolAt h + b2n (hBcol h) + k

/-! Checks (R208, R211, R232). -/

/-- A source code is usable by stage `i` of a half (R208). -/
def srcOk (h : Nat) (second : Bool) (i code : Nat) : Bool :=
  if code < 3 then !second && decide (code < hNin h)
  else if code = 3 then hBrow h
  else if code = 4 then hBcol h
  else if code < 9 then true
  else if code < 16 then decide (code - 9 < i) && (!second || decide (hSplit h ≤ code - 9))
  else if code < 18 then second
  else if code = 18 then second && tb h 71
  else if code = 19 then second && tb h 77
  else false

/-- An output source code is usable (R208). -/
def outOk (h code : Nat) : Bool :=
  if code < 8 then decide (code < hNst h) else decide (code < 11) && decide (code - 8 < hNin h)

/-- A stage word is in order. -/
def stageOk (h i : Nat) : Bool :=
  let w := hStage h i
  let op := fld w 0 6
  let second := hRf h && decide (hSplit h ≤ i)
  match opArity op with
  | none => false
  | some n =>
    fld w 24 8 == 0 && paramOk op (fld w 21 3) && ((upFrom 0 n).all fun j => srcOk h second i (fld w (6 + 5 * j) 5))
      && ((op != 0x19 && op != 0x29) || (posW (hImm h (fld w 21 2)) && (ofF32 (hImm h (fld w 21 2))).isFin))

/-- Reserved bits and values of a record (R209). -/
def recBad (r : VRec) : Bool := r.bad || (isFx r.fmt && decide (24 < r.h))

/-- VEC_DESC of a chain (R232), for a `vred` or a `vch`. -/
def chainBad (h : Nat) (red : Bool) (recs : List VRec) : Bool :=
  let nb := b2n (tb h 71) + b2n (tb h 77)
  tb h 23 || tb h 49 || fld h 86 42 != 0
    || decide (4 < hRmode h) || decide (4 < fld h 50 3) || decide (4 < fld h 58 3)
    || (hDrain h && hNin h == 0) || hNout h == 0 || hNout h == 3
    || (hRf h && (hSplit h == 0 || decide (hNst h ≤ hSplit h)))
    || (hRf h && decide (16384 < hCols h * 4 * nb))
    || (red == (hRmode h == 0))
    || !(upFrom 0 (hNst h)).all (stageOk h)
    || (hRf h && fld h 50 3 != 0 && !srcOk h false (hSplit h) (fld h 53 5))
    || (hRf h && fld h 58 3 != 0 && !srcOk h false (hSplit h) (fld h 61 5))
    || (hRf h && tb h 71 && !srcOk h false (hSplit h) (fld h 66 5))
    || (hRf h && tb h 77 && !srcOk h false (hSplit h) (fld h 72 5))
    || (if red then !outOk h (hRsrc h) else !outOk h (hOsrc h 0))
    || (hNout h == 2 && !outOk h (hOsrc h 1))
    || recs.any recBad

/-- A format of an element stream (R211). -/
def elemFmt (f : Nat) : Bool := decide (f ≤ 12) || f == 14

/-- VEC_FMT of a chain (R211), of the records that lie in the scratchpad. -/
def chainFmtBad (h : Nat) (rs : Nat → VRec) : Bool :=
  let bad (ok : Nat → Bool) (i : Nat) : Bool := !outSp (rs i).at_ 32 && !ok (rs i).fmt
  ((upFrom (b2n (hDrain h)) (hNin h - b2n (hDrain h))).any fun j => bad elemFmt (hInAt h j))
    || (hBrow h && bad (· == 0) (hBrowAt h)) || (hBcol h && bad (· == 0) (hBcolAt h))
    || bad (match hRmode h with
        | 0 => elemFmt
        | 4 => isFx
        | _ => (· == 0)) (hOutAt h 0)
    || (hNout h == 2 && bad elemFmt (hOutAt h 1))

/-- Byte ranges of `n` elements from column `c0` of row `R` of a stream, whose flat position is `p`
(R210). -/
def VRec.ranges (v : VRec) (R c0 n p : Nat) : List (Int × Nat) :=
  let z : RowAt := { fmt := v.fmt, planes := usePlanes v.fmt v.lay, el := 0, p2 := 0 }
  let s1 := z.span c0 n
  let s2 := z.span2 c0 n
  (rowOfs v.base v.es R + s1.1, s1.2)
    :: (if z.planes then [(rowOfs v.p2 v.p2s R + s2.1, s2.2)] else [])
    ++ (if isMx v.fmt then [(rowOfs v.sbase v.ss R + c0 / 32, (n + 31) / 32)] else [])
    ++ (if isFx v.fmt then [((v.sbase : Int) + p / 4096, (p + n - 1) / 4096 - p / 4096 + 1)] else [])

/-- Byte ranges of every row of a stream. -/
def VRec.allRanges (v : VRec) (rowofs rows cols : Nat) : List (Int × Nat) :=
  (upFrom rowofs rows).flatMap fun R => v.ranges R 0 cols (R * cols)

/-- Alignment of an element stream (R209). -/
def VRec.unaligned (v : VRec) : Bool :=
  v.base % 4 != 0 || v.es % 4 != 0 || (usePlanes v.fmt v.lay && (v.p2 % 4 != 0 || v.p2s % 4 != 0))

/-- Byte ranges of O0 of a `vred` (R225). -/
def redRange (h rowofs : Nat) (v : VRec) : Int × Nat :=
  match hRmode h with
  | 1 => (((v.base + 4 * rowofs : Nat) : Int), 4 * hRows h)
  | 2 => ((v.base : Int), 4 * hCols h)
  | 3 => ((v.base : Int), 4)
  | _ =>
    let p0 := rowofs * hCols h
    (((v.sbase + p0 / 4096 : Nat) : Int), (p0 + hRows h * hCols h - 1) / 4096 - p0 / 4096 + 1)

/-- Byte ranges a chain touches, and whether an alignment fails (R232). -/
def chainTouch (h rowofs : Nat) (rs : Nat → VRec) : List (Int × Nat) × Bool :=
  let el (i : Nat) : List (Int × Nat) × Bool := ((rs i).allRanges rowofs (hRows h) (hCols h), (rs i).unaligned)
  let ins := (upFrom (b2n (hDrain h)) (hNin h - b2n (hDrain h))).map fun j => el (hInAt h j)
  let brow : List (List (Int × Nat) × Bool) := if hBrow h then [([(((rs (hBrowAt h)).base + 4 * rowofs : Int), 4 * hRows h)], (rs (hBrowAt h)).base % 4 != 0)] else []
  let bcol : List (List (Int × Nat) × Bool) := if hBcol h then [([(((rs (hBcolAt h)).base : Int), 4 * hCols h)], (rs (hBcolAt h)).base % 4 != 0)] else []
  let o0 := if hRmode h = 0 then [el (hOutAt h 0)]
    else [([redRange h rowofs (rs (hOutAt h 0))], hRmode h != 4 && (rs (hOutAt h 0)).base % 4 != 0)]
  let o1 := if hNout h = 2 then [el (hOutAt h 1)] else []
  let all := ins ++ brow ++ bcol ++ o0 ++ o1
  (all.flatMap (·.1), all.any (·.2))

/-! Faults (R232, R221). -/

/-- The entry at the head faults: it and those behind it are abandoned, and the execute stream stops. What its earlier
groups have brought on its way is written (log 55). -/
def Dev.vecFault (s : Dev) (n cause addr : Nat) (poison : Bool) : Dev :=
  match (s.core n).vq with
  | [] => s
  | e :: _ =>
    (((s.vecFlush n none).modCore n fun c => c.abandonVec 0).faultEnd n .X
      { cause := cause, slot := 3, pc := e.pc, engine := 5, akind := if poison then 1 else 0, addr := addr }).raise
      (corePg n 2) (if poison then 0xE else 0x6)

/-- The first poisoned word of a list. -/
def Core.poisonIn (c : Core) (is : List Nat) : Option Nat := is.find? fun i => (c.spPeek i).poison

/-! Issue (R195, R196). -/

/-- `vch`, `vupd` and `vred` enter the vector queue; a chain's drain fields are read (R196). -/
def Dev.vecIssue (s : Dev) (n which : Nat) : Dev :=
  s.issue n .X (fun o => match o with | .vec opc _ _ _ _ => opc == which | _ => false) fun _ o => match o with
    | .vec opc desc rowofs cfe cf =>
      let c := s.core n
      if 2 ≤ c.vq.length then .wait 0
      else if opc != 2 && c.spHeld desc 8 then .wait 6
      else
        let h := c.spBytes desc 8
        let dr := opc != 2 && hDrain h
        let s1 := if opc = 2 then s else s.spNote n (wordsAt desc 8)
        .ok (s1.modCore n fun c => { c with
          work := c.work + 1
          vq := c.vq ++ [{ opc := opc, desc := desc, rowofs := rowofs, cfe := cfe, cf := cf, work := c.work, pc := c.x.pc,
                           drain := dr, expect := if dr then hRows h * hCb h else 0 }] })
    | _ => .ok s

/-- VCH. -/
def execVch (core : Nat) (s : State) : Host.Outcome State Fault Refusal :=
  .next (s.onCore core fun d => d.vecIssue core 1)
/-- VRED (R225). -/
def execVred (core : Nat) (s : State) : Host.Outcome State Fault Refusal :=
  .next (s.onCore core fun d => d.vecIssue core 3)
/-- VUPD (R245). -/
def execVupd (core : Nat) (s : State) : Host.Outcome State Fault Refusal :=
  .next (s.onCore core fun d => d.vecIssue core 2)

/-! Elements in and out (R210, R211). -/

/-- The value of element (R, c) of an input stream at flat position `p`, converted to FP32. RND is that of FX decodes;
a plain FP8 element times its factor is rounded to nearest even (DESIGN CHOICE, log 54). -/
def VRec.inW (v : VRec) (rd : Rd) (h : Nat) (g : Sr) (R c p : Nat) : Word :=
  let code := (v.row R).code rd c
  let sc := if isMx v.fmt then rdBytes rd ((rowOfs v.sbase v.ss R).toNat + c / 32) 1
    else if isFx v.fmt then rdBytes rd (v.sbase + p / 4096) 1 else 0
  (encF32 (if isFx v.fmt then v.rnd else 0) (if isFx v.fmt then srBits v.rnd g p else 0) v.sat
    (memVal v.fmt sc (ofF32 (hImm h v.qk)) v.h code)).1

/-- What an output takes for an element: its value, whether its source writes a region tag, and the tag. -/
abbrev OutVal := Val × Bool × Bool

/-- The writes of one group of an output from column `c0` of row `R`, with the indications of each element
(R211). -/
def VRec.outW (v : VRec) (rd : Rd) (h : Nat) (g : Sr) (R c0 p : Nat) (vs : List OutVal) : List WWrite × List Stat :=
  let at_ := v.row R
  let cols := vs.zip (upFrom 0 vs.length)
  let bits (k : Nat) : Nat := srBits v.rnd g (p + k)
  if isMx v.fmt then
    let blocks := (upFrom 0 ((vs.length + 31) / 32)).map fun b =>
      (b, encBlock v.fmt v.rnd v.sat v.srule (((vs.drop (32 * b)).take 32).map (·.1)) ((upFrom (32 * b) 32).map bits))
    (blocks.flatMap (fun k => ((k.2.2.zip (upFrom (c0 + 32 * k.1) 32)).flatMap fun q => at_.put q.2 q.1.1)
        ++ wrBits ((rowOfs v.sbase v.ss R).toNat + c0 / 32 + k.1) 0 8 k.2.1),
     blocks.flatMap fun k => k.2.2.map (·.2))
  else
    let one (x : OutVal) (k : Nat) : Nat × Stat :=
      if v.fmt = 14 then (b2n (if x.2.1 then x.2.2 else !x.1.isZero), {})
      else if isFp8 v.fmt then encElem v.fmt v.rnd (bits k) v.sat (x.1.byFactor (ofF32 (hImm h v.qk)))
      else if isFx v.fmt then encFx v.fmt v.h (rdBytes rd (v.sbase + (p + k) / 4096) 1) v.rnd (bits k) x.1
      else encElem v.fmt v.rnd (bits k) v.sat x.1
    let cs := cols.map fun q => (c0 + q.2, one q.1 q.2)
    (cs.flatMap fun q => at_.put q.1 q.2.1, cs.map (·.2.2))

/-! One group (R203, R208, R222, R225). -/

/-- An element on its way through the stages. -/
structure Lane where
  ins : List Word
  brow : Word := 0
  bcol : Word := 0
  redA : Word := 0
  redB : Word := 0
  buf : Word × Word := (0, 0)
  res : List Word := []
  tags : List Bool := []
  nan : Bool := false
  bad : Bool := false
  deriving DecidableEq, Repr

/-- The value of a source code. -/
def Lane.src (l : Lane) (h code : Nat) : Word :=
  if code < 3 then lget 0 l.ins code
  else if code = 3 then l.brow
  else if code = 4 then l.bcol
  else if code < 9 then hImm h (code - 5)
  else if code < 16 then lget 0 l.res (code - 9)
  else if code = 16 then l.redA
  else if code = 17 then l.redB
  else if code = 18 then l.buf.1
  else l.buf.2

/-- Stage `i` applied. -/
def Lane.stage (h : Nat) (l : Lane) (i : Nat) : Lane :=
  let w := hStage h i
  let op := fld w 0 6
  let n := (opArity op).getD 0
  let a := l.src h (fld w 6 5)
  let b := l.src h (fld w 11 5)
  let c := l.src h (fld w 16 5)
  let r := stageFn op (fld w 21 3) (hImm h (fld w 21 2)) a b c
  let clean := (upFrom 0 n).all fun j => !isNanW (l.src h (fld w (6 + 5 * j) 5))
  { l with res := l.res ++ [r], tags := l.tags ++ [stageTag op a], nan := l.nan || (clean && isNanW r),
           bad := l.bad || (op == 0x10 && !(ofF32 a).isFin) }

/-- Stages `lo` to `hi - 1`. -/
def Lane.run (h : Nat) (l : Lane) (lo hi : Nat) : Lane := (upFrom lo (hi - lo)).foldl (Lane.stage h) l

/-- The value an output source code names. -/
def Lane.out (l : Lane) (h code : Nat) : OutVal :=
  if code < 8 then (ofF32 (lget 0 l.res code), tagged (fld (hStage h code) 0 6), lget false l.tags code)
  else (ofF32 (lget 0 l.ins (code - 8)), false, false)
/-- The word an output source code names. -/
def Lane.outWord (l : Lane) (code : Nat) : Word := if code < 8 then lget 0 l.res code else lget 0 l.ins (code - 8)

/-- An output source is formed in the second half. -/
def hLate (h code : Nat) : Bool := decide (code < 8) && decide (hSplit h ≤ code)

/-- A lane that enters the second half: only its buffered values and the row's values pass (R208, R222). -/
def lateLane (h : Nat) (brow bcol redA redB : Word) (buf : Word × Word) : Lane :=
  { ins := [], brow := brow, bcol := bcol, redA := redA, redB := redB, buf := buf,
    res := (upFrom 0 (hSplit h)).map fun _ => 0, tags := (upFrom 0 (hSplit h)).map fun _ => false }

/-- The part of a core a chain works on: the part, and the entry. -/
abbrev ChainSt := Dev × VecEntry

/-- Stages of the first half. -/
def hNf (h : Nat) : Nat := hSplit h
/-- Stages of the second half. -/
def hNs (h : Nat) : Nat := hNst h - hSplit h

/-- The outputs of one half for a group go on their way, to be written in core cycle `due` (R225, R228), O0 first. -/
def chainOuts (n h : Nat) (late : Bool) (due R c0 p : Nat) (ls : List Lane) (x : ChainSt) : ChainSt :=
  let ks := (upFrom (if hRmode h = 0 then 0 else 1) (hNout h - if hRmode h = 0 then 0 else 1)).filter fun k =>
    hLate h (hOsrc h k) == late
  ks.foldl (fun (x : ChainSt) k =>
    let v := recAt x.2.desc x.2.d (hOutAt h k)
    let o := v.outW (x.1.core n).spRd h (x.2.conv.for_ v.at_) R c0 p (ls.map fun l => l.out h (hOsrc h k))
    (x.1.vecOut n { due := due, ws := joinWrites o.1, sat := (o.2.filter (·.sat)).length,
                    ovf := hGphase h && o.2.any (·.fxovf) }, x.2)) x

/-- What a `vred` does with a group's reduced values (R225). -/
def chainRed (h : Nat) (late : Bool) (c0 p : Nat) (ls : List Lane) (e : VecEntry) : VecEntry :=
  if hRmode h = 0 ∨ hLate h (hRsrc h) ≠ late then e
  else
    let ws := ls.map fun l => l.outWord (hRsrc h)
    match hRmode h with
    | 2 => { e with colAcc := (e.colAcc.zip (upFrom 0 e.colAcc.length)).map fun q =>
        if c0 ≤ q.2 ∧ q.2 < c0 + ws.length then redF (hRop h) q.1 (redIn (hRop h) (lget 0 ws (q.2 - c0))) else q.1 }
    | 4 => { e with buckets := (ws.zip (upFrom p ws.length)).foldl (fun m q =>
        mset (fun _ => 0) m (q.2 / 4096) (max (mget (fun _ => 0) m (q.2 / 4096)) (proposal [ofF32 q.1]))) e.buckets }
    | _ => { e with rowAcc := redF (hRop h) e.rowAcc (groupRed (hRop h) ws) }

/-- The bytes of the buckets that a group is the first to touch (R225): those that begin in it, and the chain's first. -/
def bucketHeld (h : Nat) (v : VRec) (rd : Rd) (first p w : Nat) (m : SMap Nat) : SMap Nat :=
  (upFrom (p / 4096) ((p + w - 1) / 4096 - p / 4096 + 1)).foldl (fun m b =>
    if hRmode h = 4 ∧ hRacc h ∧ (p ≤ 4096 * b ∨ p = first) then mset (fun _ => 0) m b (rdBytes rd (v.sbase + b) 1) else m) m

/-- A lane made a NaN of operands that are none, or `fchk` met a non-finite operand in a gradient phase (R230, R235). -/
def Dev.laneNotes (s : Dev) (n h : Nat) (ls : List Lane) : Dev :=
  (if ls.any (·.nan) then s.orReg (ra (corePg n 2) 0x104) 2#32 else s).gradOvf n (hGphase h && ls.any (·.bad))

/-- The first half of a group that enters in core cycle `t`, or the whole of it without RF. -/
def chainFirst (n h t R c0 p : Nat) (ls : List Lane) (x : ChainSt) : ChainSt :=
  let ls1 := ls.map fun l => l.run h 0 (hSplit h)
  let y := chainOuts n h false (t + 9 + 4 * hNf h) R c0 p ls1 x
  let e := chainRed h false c0 p ls1 y.2
  let red (op src : Nat) (acc : Word) : Word :=
    if op = 0 then acc else redF (op - 1) acc (groupRed (op - 1) (ls1.map fun l => l.src h src))
  (y.1.laneNotes n h ls1, if hRf h then
      { e with
        redA := red (fld h 50 3) (fld h 53 5) e.redA
        redB := red (fld h 58 3) (fld h 61 5) e.redB
        rowVals := e.rowVals ++ ls1.map fun l => (l.src h (fld h 66 5), l.src h (fld h 72 5)) }
    else e)

/-- The second half of group `g` of the row whose reductions are complete (R222), which enters it in core cycle
`t2 + g`. -/
def chainSecond (n h t2 R p : Nat) (x : ChainSt) (g : Nat) : ChainSt :=
  let e := x.2
  let c0 := 64 * g
  let w := min 64 (hCols h - c0)
  let ls := ((e.rowVals.drop c0).take w).zip (upFrom c0 w) |>.map fun q =>
    (lateLane h e.brow (lget 0 e.bcol q.2) e.redA e.redB q.1).run h (hSplit h) (hNst h)
  let y := chainOuts n h true (t2 + g + 6 + 4 * hNs h) R c0 (p + c0) ls x
  (y.1.laneNotes n h ls, chainRed h true c0 (p + c0) ls y.2)

/-- FP32 words as writes from a byte offset. -/
def wordWrites (ofs : Nat) (ws : List Word) : List WWrite :=
  joinWrites ((ws.zip (upFrom 0 ws.length)).flatMap fun q => wrBits (ofs + 4 * q.2) 0 32 q.1.toNat)

/-- The end of a row whose last group entered in core cycle `t`: its groups enter the second half one after another, the
row leaves the buffer with the last of them (R222, R223), and its value goes on its way (R225, R228). -/
def chainRowEnd (n h t R p : Nat) (x : ChainSt) : ChainSt :=
  let t2 := max (t + 11 + 4 * hNf h) x.2.second
  let k := hRowGroups h
  let y := if hRf h then
      let z := (upFrom 0 k).foldl (chainSecond n h t2 R p) x
      (z.1, { z.2 with second := t2 + k, leaves := z.2.leaves ++ [t2 + k - 1] })
    else x
  let e := y.2
  match hRmode h with
  | 1 =>
    let due := if hLate h (hRsrc h) then t2 + k - 1 + 8 + 4 * hNs h else t + 11 + 4 * hNf h
    (y.1.vecOut n { due := due, ws := wordWrites ((recAt e.desc e.d (hOutAt h 0)).base + 4 * R) [e.rowAcc] }, e)
  | 3 => (y.1, { e with whole := redF (hRop h) e.whole e.rowAcc })
  | _ => y

/-- The end of a chain's last group, which entered in core cycle `t`: a `vred`'s column values, whole value or proposals
(R225, R230) follow its outputs (R228). -/
def chainLast (n h t : Nat) (x : ChainSt) : ChainSt :=
  let e := x.2
  let v := recAt e.desc e.d (hOutAt h 0)
  let due := (if hLate h (hRsrc h) then e.second - 1 + 6 + 4 * hNs h else t + 9 + 4 * hNf h) + 12
  let put (ws : List WWrite) (ovf : Bool) : ChainSt := (x.1.vecOut n { due := due, ws := ws, ovf := hGphase h && ovf }, e)
  match hRmode h with
  | 2 => put (wordWrites v.base e.colAcc) false
  | 3 => put (wordWrites v.base [e.whole]) false
  | 4 =>
    let r := redRange h e.rowofs v
    let b0 := r.1.toNat - v.sbase
    let bs := (upFrom b0 r.2).map fun b => (b, mget (fun _ => 0) e.buckets b)
    put (joinWrites (bs.flatMap fun q => wrBits (v.sbase + q.1) 0 8 q.2)) (bs.any (·.2 == 0xFF))
  | _ => x

/-- The scratchpad ranges a group reads: inputs, BROW with the row's first group, exponents of FX outputs, and
a `vred`'s held values that are read with the group (R225, R227). -/
def groupReads (h : Nat) (e : VecEntry) (R c0 n p : Nat) : List (Int × Nat) :=
  let rs (i : Nat) : VRec := recAt e.desc e.d i
  ((upFrom (b2n (hDrain h)) (hNin h - b2n (hDrain h))).flatMap fun j => (rs (hInAt h j)).ranges R c0 n p)
    ++ (if hBrow h && c0 == 0 then [(((rs (hBrowAt h)).base + 4 * R : Int), 4)] else [])
    ++ ((upFrom 0 (hNout h)).flatMap fun k =>
        if isFx (rs (hOutAt h k)).fmt && (k == 1 || hRmode h == 0) then
          [((((rs (hOutAt h k)).sbase + p / 4096 : Nat) : Int), (p + n - 1) / 4096 - p / 4096 + 1)] else [])
    ++ (if hRacc h && hRmode h == 1 && c0 == 0 then [(((rs (hOutAt h 0)).base + 4 * R : Int), 4)] else [])
    ++ (if hRacc h && hRmode h == 4 then
          [((((rs (hOutAt h 0)).sbase + p / 4096 : Nat) : Int), (p + n - 1) / 4096 - p / 4096 + 1)] else [])

/-- The scratchpad ranges a group writes. -/
def groupWrites (h : Nat) (e : VecEntry) (R c0 n p : Nat) : List (Int × Nat) :=
  (upFrom (if hRmode h = 0 then 0 else 1) (hNout h - if hRmode h = 0 then 0 else 1)).flatMap fun k =>
    (recAt e.desc e.d (hOutAt h k)).ranges R c0 n p

/-- Groups of a chain. -/
def hGroups (h : Nat) : Nat := hRows h * hRowGroups h

/-- The scratchpad period of a group (R227): a core cycle per 512 B that its streams read and write. -/
def groupPeriod (h : Nat) (e : VecEntry) (R c0 n p : Nat) : Nat :=
  max 1 ((((groupReads h e R c0 n p ++ groupWrites h e R c0 n p).map (·.2)).sum + 511) / 512)

/-- Rows the row buffer holds (R223). -/
def rbufRows (h : Nat) : Nat := 32768 / (hCols h * 4 * max (b2n (tb h 71) + b2n (tb h 77)) 1)

/-- The core cycle in which a group of a row may enter that is not to enter before `t`: the first of an RF chain's row waits
until the rows in flight leave room in the buffer (R223). -/
def VecEntry.roomAt (e : VecEntry) (h c0 t : Nat) : Nat :=
  if hRf h ∧ c0 = 0 ∧ rbufRows h ≤ e.leaves.length then max t (lget 0 e.leaves (e.leaves.length - rbufRows h)) else t

/-- The group of the head entry that is next to enter: its row, its first column and its width. -/
def VecEntry.nextGroup (e : VecEntry) : Nat × Nat × Nat :=
  let h := wordsNat (e.d.take 8)
  let c0 := 64 * (e.groups % hRowGroups h)
  (e.rowofs + e.groups / hRowGroups h, c0, min 64 (hCols h - c0))

/-- The head entry works, and a group of it is still to enter. -/
def VecEntry.open_ (e : VecEntry) : Bool :=
  e.started && e.opc != 2 && !e.ended && decide (e.groups < hGroups (wordsNat (e.d.take 8)))

/-- The head entry's next group lacks drain rows (R219, R235). -/
def VecEntry.lacksRows (e : VecEntry) : Bool := e.drain && e.open_ && decide (e.inbox.length < e.groupRows)

/-- The first half pauses for room in the row buffer (R223, R235). -/
def VecEntry.rbufFull (e : VecEntry) : Bool :=
  e.open_ && decide (e.clock < e.roomAt (wordsNat (e.d.take 8)) e.nextGroup.2.1 e.clock)

/-- The next group's lanes at the entry to the stages (R203, R210, R211). -/
def VecEntry.lanes (e : VecEntry) (rd : Rd) (brow : Word) : List Lane :=
  let h := wordsNat (e.d.take 8)
  let g := e.nextGroup
  let dr := (e.inbox.take e.groupRows).flatten
  (upFrom 0 g.2.2).map fun k =>
    { ins := (upFrom 0 (hNin h)).map (fun j =>
        if hDrain h && j == 0 then lget 0 dr k
        else
          let v := recAt e.desc e.d (hInAt h j)
          v.inW rd h (e.conv.for_ v.at_) g.1 (g.2.1 + k) (g.1 * hCols h + g.2.1 + k))
      brow := brow
      bcol := lget 0 e.bcol (g.2.1 + k) }

/-- The entry as its next group enters: drain rows are taken, the row's values are set up with its first group. -/
def VecEntry.take (e : VecEntry) (rd : Rd) (p : Nat) : VecEntry :=
  let h := wordsNat (e.d.take 8)
  let g := e.nextGroup
  let rstart (op : Nat) : Word := if op = 0 then 0 else redStart (op - 1)
  let o0 := recAt e.desc e.d (hOutAt h 0)
  let word (base : Nat) : Word := w32 (rdBytes rd (base + 4 * g.1) 4)
  let e1 := { e with
    inbox := if hDrain h then e.inbox.drop e.groupRows else e.inbox
    buckets := bucketHeld h o0 rd (e.rowofs * hCols h) p g.2.2 e.buckets }
  if g.2.1 = 0 then
    { e1 with
      brow := if hBrow h then word (recAt e.desc e.d (hBrowAt h)).base else 0
      redA := rstart (fld h 50 3)
      redB := rstart (fld h 58 3)
      rowVals := []
      rowAcc := if hRmode h = 1 ∧ hRacc h then word o0.base else redStart (hRop h) }
  else e1

/-- The entry replaced at the head of the queue. -/
def Core.setHead (c : Core) (e : VecEntry) : Core :=
  { c with vq := match c.vq with
      | _ :: rest => e :: rest
      | [] => [] }

/-- The counters of a group that enters (R236). -/
def Dev.groupCounts (s : Dev) (n : Nat) (e : VecEntry) (wait pause : Nat) : Dev :=
  let h := wordsNat (e.d.take 8)
  let g := e.nextGroup
  let pg := corePg n 2
  let el := hCols h * (e.groups / hRowGroups h) + g.2.1
  ((((s.bump pg 1 g.2.2).bump pg 2 ((el + g.2.2) * hNst h / 64 - el * hNst h / 64)).bump pg 3
    (if hDrain h then e.groupRows else 0)).bump pg 5 wait).bump pg 6 pause

/-- The next group enters in core cycle `t`, the row's and the chain's last step with it (R222, R225, R227). -/
def Dev.groupEnter (s : Dev) (n t : Nat) (e : VecEntry) : Dev :=
  let h := wordsNat (e.d.take 8)
  let g := e.nextGroup
  let p := g.1 * hCols h + g.2.1
  let rd := (s.core n).spRd
  let e1 := e.take rd p
  let x := chainFirst n h t g.1 g.2.1 p (e.lanes rd e1.brow) (s, e1)
  let x1 := if g.2.1 + g.2.2 = hCols h then chainRowEnd n h t g.1 (g.1 * hCols h) x else x
  let last := e.groups + 1 == hGroups h
  let x2 := if last then chainLast n h t x1 else x1
  x2.1.modCore n fun c => c.setHead { x2.2 with
    groups := e.groups + 1, ended := last, clock := t + groupPeriod h e g.1 g.2.1 g.2.2 p }

/-- The next group of the chain at the queue's head enters, `wait` core cycles late for scratchpad banks; the outputs due
before it are written first (R204, R219, R222, R227, R228). Where it cannot enter for want of drain rows, a core cycle
passes. -/
def Dev.chainGroup (s : Dev) (n wait : Nat) : Dev :=
  let c := s.core n
  match c.vq with
  | [] => s
  | e :: rest =>
    let h := wordsNat (e.d.take 8)
    let g := e.nextGroup
    let p := g.1 * hCols h + g.2.1
    let reads := groupReads h e g.1 g.2.1 g.2.2 p
    if !e.open_ then s
    else if e.lacksRows then (s.modCore n fun c => { c with vq := { e with clock := e.clock + 1 } :: rest }).bump (corePg n 2) 4 1
    else if (reads ++ groupWrites h e g.1 g.2.1 g.2.2 p).any (fun q => c.spHeld q.1.toNat q.2) then s
    else
      let t0 := e.clock + wait
      let t := e.roomAt h g.2.1 t0
      let s1 := s.vecFlush n (some t)
      let is := rangeWords reads
      let s2 := s1.spNote n is
      match (s1.core n).poisonIn is with
      | some i => s2.vecFault n 0x2E (8 * i) true
      | none => (s2.groupCounts n e wait (t - t0)).groupEnter n t e

/-- CHAIN_GROUP. -/
def execChainGroup (core : Nat) (s : State) (wait : Nat := 0) : Host.Outcome State Fault Refusal :=
  .next (s.onCore core fun d => d.chainGroup core wait)

/-! The end of an entry (R220, R228). -/

/-- Accumulator entries of the drains matched with an ended chain are cleared (R60, R220). -/
def Core.clearChained (c : Core) (work : Nat) : Core :=
  let mine (d : Drain) : Bool := d.chain == some work
  let c1 := (c.vDrains.filter mine).foldl (fun (c : Core) d =>
    if d.keep then c else d.arrays.foldl (fun c a => c.modArr a fun r => r.clearEntries d.acc d.cnt) c) c
  { c1 with vDrains := c1.vDrains.filter fun d => !mine d }

/-- The head entry ends: its last outputs are written, its completion flag is set, its drains commit, and the next entry
may start. -/
def Dev.chainEnd (s : Dev) (n : Nat) : Dev :=
  match (s.core n).vq with
  | e :: _ =>
    if e.started && e.ended && !(s.core n).outsHeld then
      (((s.vecFlush n none).modCore n fun c => ({ c with vq := c.vq.drop 1 }).clearChained e.work).bump (corePg n 2) 0 1).complete
        n e.cfe e.cf 5
    else s
  | [] => s

/-- CHAIN_END. -/
def execChainEnd (core : Nat) (s : State) : Host.Outcome State Fault Refusal :=
  .next (s.onCore core fun d => d.chainEnd core)

/-! The start of an entry (R226, R232, R247, R260). -/

/-- Scratchpad words a descriptor with `k` records occupies. -/
def descWords (desc k : Nat) : List Nat := wordsAt desc (64 + 32 * k)

/-- The faults of a chain at start, the lowest code first (R232); what cannot be read breaks no other rule. -/
def Dev.chainFault (s : Dev) (n : Nat) (e : VecEntry) (h : Nat) (d : List DWord) : Option Nat :=
  let rs (i : Nat) : VRec := recAt e.desc d i
  let k := hNrec h
  let t := chainTouch h e.rowofs rs
  if outSp e.desc 64 then firstFault [(s.inCarve n e.desc 64, 0x2D), (true, 0x32)]
  else
    firstFault
      [(s.inCarve n e.desc (64 + 32 * k) || t.1.any (fun p => s.inCarve n p.1.toNat p.2), 0x2D),
       (chainBad h (e.opc == 3) (((upFrom 0 k).map rs).filter fun v => !outSp v.at_ 32), 0x30),
       (chainFmtBad h rs, 0x31),
       (outSp e.desc (64 + 32 * k) || t.1.any offSp || t.2, 0x32)]

/-- The head entry takes up its descriptor and the values read before its first group (R225, R226, R253). -/
def Core.chainBegin (c : Core) (e : VecEntry) (h : Nat) (d : List DWord) (g : Sr) : VecEntry :=
  let rs (i : Nat) : VRec := recAt e.desc d i
  let row (base k : Nat) : List Word := (upFrom 0 k).map fun j => w32 (rdBytes c.spRd (base + 4 * j) 4)
  let o0 := rs (hOutAt h 0)
  { e with
    started := true
    d := d
    conv := g
    bcol := if hBcol h then row (rs (hBcolAt h)).base (hCols h) else []
    colAcc := if hRmode h = 2 then (if hRacc h then row o0.base (hCols h) else (upFrom 0 (hCols h)).map fun _ => redStart (hRop h)) else []
    whole := if hRmode h = 3 ∧ hRacc h then lget 0 (row o0.base 1) 0 else redStart (hRop h) }

/-- Ranges read when a chain starts: BCOL, and the held values of RMODE 2 and 3. -/
def startReads (h : Nat) (rs : Nat → VRec) : List (Int × Nat) :=
  (if hBcol h then [(((rs (hBcolAt h)).base : Int), 4 * hCols h)] else [])
    ++ (if hRacc h && (hRmode h == 2 || hRmode h == 3) then [redRange h 0 (rs (hOutAt h 0))] else [])

/-- A chain at the head starts; it waits while what it touches is being cleared (R133, R138). -/
def Dev.chainBegin (s : Dev) (n : Nat) (e : VecEntry) : Dev :=
  let c := s.core n
  let h := c.spBytes e.desc 64
  let ws := descWords e.desc (hNrec h)
  let d := ws.map fun i => (c.spPeek i).data
  let s1 := s.spNote n ws
  let rs (i : Nat) : VRec := recAt e.desc d i
  let held := !outSp e.desc 64 && (c.spHeld e.desc (64 + 32 * hNrec h)
    || (chainTouch h e.rowofs rs).1.any fun q => c.spHeld q.1.toNat q.2)
  if held then s
  else match c.poisonIn ws, s.inCarve n e.desc (64 + 32 * hNrec h) with
  | some i, false => s1.vecFault n 0x2E (8 * i) true
  | _, _ =>
    match s.chainFault n e h d with
    | some f => s1.vecFault n f 0 false
    | none =>
      let is := rangeWords (startReads h rs)
      match c.poisonIn is with
      | some i => (s1.spNote n is).vecFault n 0x2E (8 * i) true
      | none => (s1.spNote n is).modCore n fun c => { c.setHead (c.chainBegin e h d (s.convNow n none)) with vGovf := false }

end Sys2Proof.Machine
end

