-- ==== Sys2Proof/Machine/Access.lean ====
section
/-! DEFINITION. Reads and writes where they land: reduce-writes (R275, R321, R324), a vault's gate (R39, R354 to
R359), the partition window (R268), page-table walks (R433 to R436), and the Block Owner Table
(R289 to R291). -/
namespace Sys2Proof.Machine
open Sys2Proof

/-! Reduce-writes (R275, R321). -/

/-- OP of an add (`wmode` 1) or max (2) in a format; 0 where it acts as plain. -/
def rwOp (wmode fmt : Nat) : Nat :=
  let base := match fmt with
    | 0 => 1 | 1 => 2 | 2 => 3 | 11 => 4 | 12 => 5 | 13 => 6 | _ => 0
  if base = 0 then 0 else if wmode = 1 then base else if wmode = 2 then base + 6 else 0

/-- The element format of an OP. -/
def rwFmt (op : Nat) : Nat :=
  match (op - 1) % 6 with
  | 0 => 0 | 1 => 1 | 2 => 2 | 3 => 11 | 4 => 12 | _ => 13

/-- The larger of two values under R215. -/
def Val.maxOf (a b : Val) : Val :=
  if a.isNan || b.isNan then .nan
  else if a.cmp b < 0 then b else if 0 < a.cmp b then a else if a.sign then b else a

/-- One element combined: its new code, and whether an FX addition saturated. -/
def rwElem (op a b : Nat) : Nat × Bool :=
  let f := rwFmt op
  let w := elemBits f
  let add := decide (op ≤ 6)
  if isFx f then
    if add then addFx w a b else (if sfld a 0 w < sfld b 0 w then b else a, false)
  else if f = 13 then (if add then (a + b) % 2 ^ 32 else max a b, false)
  else
    let v := if add then (decElem f a).add (decElem f b) else (decElem f a).maxOf (decElem f b)
    ((encElem f 0 0 false v).1, false)

/-- The elements of a word that a mask names, combined with those the word holds. -/
def rwWord (op : Nat) (old new mask : DWord) : DWord × Bool :=
  let w := elemBits (rwFmt op)
  (upFrom 0 (64 / w)).foldl (fun (x : DWord × Bool) i =>
    if fld mask.toNat (w * i) w = 0 then x
    else
      let r := rwElem op (fld old.toNat (w * i) w) (fld new.toNat (w * i) w)
      let m := w64 ((2 ^ w - 1) * 2 ^ (w * i))
      ((x.1 &&& ~~~m) ||| w64 (r.1 * 2 ^ (w * i)), x.2 || r.2)) (old, false)

/-- A write, plain (`op` 0) or reducing, to a scratchpad word; `addr` is the offset. -/
def Dev.spRw (s : Dev) (n op : Nat) (w : WWrite) : Dev × Bool :=
  let i := w.addr / 8
  if op = 0 then (s.spWrite n i w.mask ⟨w.data, w.poison⟩, false)
  else
    let old := (s.core n).spPeek i
    let r := rwWord op old.data w.data w.mask
    ((s.spNote1 n i).spPut n i (freshWord ⟨r.1, old.poison || w.poison⟩), r.2)

/-- The same for a vault word. -/
def Dev.vRw (s : Dev) (n op : Nat) (w : WWrite) : Dev × Bool :=
  let i := w.addr / 8
  if op = 0 then (s.vWrite n i w.mask ⟨w.data, w.poison⟩, false)
  else
    let o := s.vCheck n i (mget noWord (s.core n).vault.mem i) 0 0 0
    let r := rwWord op o.1.data w.data w.mask
    (o.2.vPut n i (freshWord ⟨r.1, o.1.poison || w.poison⟩), r.2)

/-- Writes one after another. -/
def rwAll (f : Dev → WWrite → Dev × Bool) (s : Dev) (ws : List WWrite) : Dev × Bool :=
  ws.foldl (fun x w => let r := f x.1 w; (r.1, x.2 || r.2)) (s, false)

/-! Gates. -/

/-- What a vault controller does with a request that reaches it. -/
inductive Gate where
  | ok | hold | absent
  deriving DecidableEq, Repr

/-- A request at vault offset `o` of core `n`: unpopulated and retired places and tiers under overwrite answer
ABSENT (R25, R356, R359); a wipe, a clear, self-refresh or a tier without power hold it (R39, R348, R354,
R355). -/
def Dev.vaultGate (s : Dev) (n o : Nat) : Gate :=
  let v := (s.core n).vault
  let qt := qtOf n o
  if vaultSize ≤ o then .absent
  else if (s.core n).pcGone o || s.power.ovwActive.getLsbD qt then .absent
  else if v.wiping || v.selfRefresh || s.power.tierOff.getLsbD qt || s.power.clearing.getLsbD qt then .hold
  else .ok

/-- ABSENT answered by the controller is counted where the place is retired (R359). -/
def Dev.absentVault (s : Dev) (n o : Nat) : Dev :=
  if o < vaultSize ∧ (s.core n).pcGone o then s.bump (vqPg (quarterOf n)) 11 1 else s

/-! The partition window (R267, R268, R289). -/

/-- Spine page of segment S1, where the Block Owner Table registers lie (R304). -/
def botPg : Nat := 0xD01
/-- First entry and number of entries of partition `P`. -/
def Dev.botRange (s : Dev) (P : Nat) : Nat × Nat := (s.regN (ra botPg (0x140 + 8 * P)), s.regN (ra botPg (0x144 + 8 * P)))
/-- The virtual window of partition `P` (R433). -/
def Dev.window (s : Dev) (P : Nat) : Nat := 2 ^ (s.regN (ra (pctlPg P) 0x108) % 64)
/-- XL_ROOT. -/
def Dev.xlRoot (s : Dev) (P : Nat) : Nat := s.regN (ra (pctlPg P) 0x100) + 2 ^ 32 * s.regN (ra (pctlPg P) 0x104)
/-- Core `n` belongs to partition `P`. -/
def Dev.inPart (s : Dev) (P n : Nat) : Bool :=
  let c := s.ptCores P
  decide (P < 12) && decide (c.1 ≤ n) && decide (n < c.1 + c.2)
/-- An entry of the Block Owner Table. -/
def Dev.botEntry (s : Dev) (i : Nat) : Nat := (mget (fun _ => 0#64) s.bot i).toNat

/-! Walks (R434, R435). -/

/-- How a walk ends. -/
inductive WalkRes where
  | page (e : XlEntry)
  | unmapped (lvl : Nat) (poison : Bool)
  | absent (lvl : Nat)
  | timeout (lvl : Nat)
  | hold
  deriving DecidableEq, Repr

/-- A table target for a table of `size` bytes (R435). -/
def Dev.tableTarget (s : Dev) (P a size : Nat) : Bool :=
  match placeOf a with
  | .vault n o => a % size == 0 && s.inPart P n && decide (o + size ≤ vaultSize)
  | _ => false

/-- A page target (R435). -/
def Dev.pageTarget (s : Dev) (P a size : Nat) : Bool :=
  match placeOf a with
  | .vault n o => s.inPart P n && decide (o + size ≤ vaultSize)
  | .host m y => m == (s.ptPort P).toNat && decide (y + size ≤ 2 ^ 44)
  | _ => false

/-- Bytes of a table of a level. -/
def tableSize (lvl : Nat) : Nat := if lvl = 3 then 256 else 4096
/-- Index of an address in a table of a level. -/
def tableIdx (va lvl : Nat) : Nat :=
  match lvl with
  | 0 => fld va 39 9
  | 1 => fld va 30 9
  | 2 => fld va 21 9
  | _ => fld va 16 5

/-- The levels of a walk from level `4 - k`; `late` names the level whose read the request timeout ends. -/
def Dev.walkFrom (s : Dev) (P va : Nat) (late : Option Nat) : Nat → Nat → WalkRes × Dev
  | 0, _ => (.unmapped 3 false, s)
  | k + 1, t =>
    let lvl := 3 - k
    match placeOf (t + 8 * tableIdx va lvl) with
    | .vault n o =>
      if late = some lvl then (.timeout lvl, s)
      else if s.podGone (podOf n) then (.absent lvl, s.absentMark (podOf n))
      else match s.vaultGate n o with
        | .absent => (.absent lvl, s.absentVault n o)
        | .hold => (.hold, s)
        | .ok =>
          let r := (s.openRow n o).vCheck n (o / 8) (mget noWord (s.core n).vault.mem (o / 8)) 0 0 0
          let e := r.1.data.toNat
          let addr := fld e 8 40 * 256
          let leaf := tb e 1
          if r.1.poison then (.unmapped lvl true, r.2)
          else if !tb e 0 || fld e 4 4 != 0 || fld e 48 16 != 0 then (.unmapped lvl false, r.2)
          else if (lvl = 2 ∧ leaf) ∨ lvl = 3 then
            let size := if lvl = 2 then 0x200000 else 0x10000
            if !leaf || addr % size != 0 || !s.pageTarget P addr size then (.unmapped lvl false, r.2)
            else (.page { glb := false, base := va - va % size, size := size, addr := addr, write := tb e 2, nospec := tb e 3 }, r.2)
          else if leaf || !s.tableTarget P addr (tableSize (lvl + 1)) then (.unmapped lvl false, r.2)
          else r.2.walkFrom P va late k addr
    | _ => (.unmapped lvl false, s)

/-- A walk of partition `P`'s page table, counted (R434, R448). -/
def Dev.walk (s : Dev) (P va : Nat) (late : Option Nat) : WalkRes × Dev :=
  let r := if s.tableTarget P (s.xlRoot P) 4096 then s.walkFrom P va late 4 (s.xlRoot P) else (.unmapped 0 false, s)
  match r.1 with
  | .hold => (.hold, s)
  | .page _ => (r.1, r.2.bump (pctlPg P) 0 1)
  | _ => (r.1, (r.2.bump (pctlPg P) 0 1).bump (pctlPg P) 1 1)

/-- The expiries of a walk's read are counted in its partition (R488, R506); `again` for a read that may be re-issued. -/
def Dev.walkLate (s : Dev) (P : Nat) (again : Bool) (r : WalkRes) : Dev :=
  match r with
  | .timeout _ =>
    if again && tb (s.regN (ra (pctlPg P) 0x208)) 2 then (s.bump (pctlPg P) 5 2).bump (pctlPg P) 6 1
    else s.bump (pctlPg P) 5 1
  | _ => s

/-- A cache of 64 entries, the most recently used first (R436). -/
def xlPut (l : List XlEntry) (e : XlEntry) : List XlEntry :=
  (e :: l.filter fun f => !(f.glb == e.glb && f.base == e.base)).take 64
/-- The entry of an address. -/
def xlFind (l : List XlEntry) (glb : Bool) (a : Nat) : Option XlEntry :=
  l.find? fun e => e.glb == glb && decide (e.base ≤ a) && decide (a < e.base + e.size)

/-! Where a generated address leads (R267 to R269, R291). -/

/-- The outcome of resolving an address. -/
inductive Reach where
  | at_ (p : Place)
  | rank (r b addr : Nat)
  | walk (va : Nat)
  | lookup (g : Nat)
  | fault (cause : Nat)
  deriving DecidableEq, Repr

/-- An address of a kind in the window of core `n`'s partition. -/
def Dev.resolve (s : Dev) (n kind a : Nat) (write : Bool) : Reach :=
  let P := s.corePart n
  let cs := s.ptCores P
  let a := a % 2 ^ 48
  match kind with
  | 0 => .at_ (.spad n (a % spSize))
  | 1 => if P < 12 then .at_ (.spad (cs.1 + a / 2 ^ 20 % cs.2) (a % 2 ^ 20 % spSize)) else .fault 0x3B
  | 2 =>
    let va := a % s.window P
    match xlFind (s.core n).xl false va with
    | none => if P < 12 then .walk va else .fault 0x38
    | some e => if write && !e.write then .fault 0x39 else .at_ (placeOf (e.addr + (va - e.base)))
  | _ =>
    let blocks := (s.botRange P).2
    if 12 ≤ P ∨ blocks = 0 then .fault 0x3A
    else
      let g := a % (blocks * 2 ^ 21)
      match xlFind (s.core n).xl true g with
      | none => .lookup g
      | some x =>
        let e := x.entry.toNat
        let off := fld e 38 6 * 2 ^ 21 + g % 2 ^ 21
        if !tb e 0 || decide (47 < fld e 38 6) then .fault 0x3A
        else if write && !tb e 4 then .fault 0x39
        else if tb e 1 then .rank (fld e 16 12) (g / 2 ^ 21) (vaultAddr (fld e 28 10) off)
        else .at_ (.vault (cs.1 + fld e 28 10 % cs.2) off)

/-- The global offset of an address. -/
def Dev.globalOf (s : Dev) (n a : Nat) : Nat :=
  let b := (s.botRange (s.corePart n)).2
  if b = 0 then 0 else a % 2 ^ 48 % (b * 2 ^ 21)

/-- The used entry becomes the most recent (R436). -/
def Dev.xlTouch (s : Dev) (n kind a : Nat) : Dev :=
  let c := s.core n
  let e := match kind with
    | 2 => xlFind c.xl false (a % 2 ^ 48 % s.window (s.corePart n))
    | 3 => xlFind c.xl true (s.globalOf n a)
    | _ => none
  match e with
  | some x => s.modCore n fun c => { c with xl := xlPut c.xl x }
  | none => s

/-- The link port of a remote access (R390); none where it is answered ABSENT. A port that retrains keeps what comes waiting
(R378), so it counts as UP (DEDUCED, log 37). -/
def Dev.remotePort (s : Dev) (P rank b : Nat) : Option Nat :=
  let mask := fld (s.regN (ra (netPg P) 0x108)) 0 8
  let ports := (upFrom 0 8).filter fun k => tb mask k
  if ports.isEmpty then none
  else
    let k := lget 0 ports ((rank + b) % ports.length)
    if (s.link k).st = .up ∨ (s.link k).st = .retraining then some k else none

end Sys2Proof.Machine
end

