-- ==== Sys2Proof/Machine/Movement.lean ====
section
/-! DEFINITION. The DMA engine, the gather engines and instruction-memory loads (R155, R198, R270 to R288,
R294, R296 to R299). An engine moves its head instruction's units (at most 32 elements along destination dimension 0, or
a row of a list) one after another in canonical order: it asks for what the unit still needs, then writes the unit, one write
at a time (log 17). -/
namespace Sys2Proof.Machine
open Sys2Proof

/-! The geometry of a DMA descriptor (R270 to R274). -/

/-- A DMA descriptor with its extension and index, taken apart. -/
structure Geo where
  ns : List Nat
  perm : List Nat
  sstr : List Int
  dstr : List Int
  sbase : Int
  dbase : Int
  sk : Nat
  dk : Nat
  wmode : Nat
  mode : Nat
  sf : Nat
  df : Nat
  slay : Nat
  dlay : Nat
  ssc : Int
  dsc : Int
  sp2 : Int
  dp2 : Int
  srnd : Nat
  drnd : Nat
  ssat : Bool
  dsat : Bool
  srule : Bool
  sh : Nat
  dh : Nat
  deriving DecidableEq, Repr

/-- PERM, or the identity (R272). -/
def permOf (v : Nat) : List Nat :=
  let p := (upFrom 0 5).map fun k => fld v (480 + 3 * k) 3
  if (upFrom 0 5).all fun k => p.elem k then p else [0, 1, 2, 3, 4]

/-- How the elements move (R274): 0 bit for bit, 1 the same format with its scales, 2 conversion among 0x0 to
0x8, 3 FP32 to FX, 4 FX to FP32. -/
def moveMode (ext : Bool) (sf df p0 : Nat) : Nat :=
  if !ext then 0
  else if sf = df ∧ p0 = 0 then 1
  else if sf ≤ 8 ∧ df ≤ 8 then 2
  else if sf = 0 ∧ isFx df then 3
  else if isFx sf ∧ df = 0 then 4
  else 0

/-- The descriptor `v` (1,024 bits with its extension) of a job. -/
def geoOf (v : Nat) (glb : Bool) (sadd dadd : Int) : Geo :=
  let ext := tb v 505
  let perm := permOf v
  let sf0 := fld v 608 4
  let df0 := fld v 864 4
  let mode := moveMode ext sf0 df0 (lget 0 perm 0)
  let ef := if ext then sf0 else fld v 501 4
  { ns := (fld v 96 16 + 1) :: (upFrom 0 4).map fun k => fld v (112 + 12 * k) 12 + 1
    perm := perm
    sstr := (upFrom 0 4).map fun k => sfld v (160 + 40 * k) 40
    dstr := (upFrom 0 4).map fun k => sfld v (320 + 40 * k) 40
    sbase := fld v 0 48 + sadd
    dbase := fld v 48 48 + dadd
    sk := if glb then 3 else fld v 495 2
    dk := fld v 497 2
    wmode := fld v 499 2
    mode := mode
    sf := if mode = 0 then ef else sf0
    df := if mode = 0 then ef else df0
    slay := fld v 612 2
    dlay := fld v 868 2
    ssc := fld v 512 48 + sadd
    dsc := fld v 768 48 + dadd
    sp2 := fld v 560 48 + sadd
    dp2 := fld v 816 48 + dadd
    srnd := fld v 614 2
    drnd := fld v 870 2
    ssat := tb v 616
    dsat := tb v 872
    srule := tb v 873
    sh := fld v 618 5
    dh := fld v 874 5 }

/-- Bytes of an element that moves bit for bit (R274). -/
def rawSize (f : Nat) : Nat :=
  if f = 0 ∨ f = 11 ∨ f = 13 then 4 else if f = 1 ∨ f = 2 then 2 else if f = 12 then 8 else 1

/-- Extent of destination dimension `k`. -/
def Geo.m (g : Geo) (k : Nat) : Nat := lget 1 g.ns (lget 0 g.perm k)
/-- Units of a destination row. -/
def Geo.perRow (g : Geo) : Nat := (g.m 0 + 31) / 32
/-- Units of the descriptor. -/
def Geo.total (g : Geo) : Nat := g.perRow * g.m 1 * g.m 2 * g.m 3 * g.m 4
/-- Destination indices of the elements of unit `u`, in canonical order (R272). -/
def Geo.elems (g : Geo) (u : Nat) : List (List Nat) :=
  let j0 := 32 * (u % g.perRow)
  let r := u / g.perRow
  let j1 := r % g.m 1
  let j2 := r / g.m 1 % g.m 2
  let j3 := r / g.m 1 / g.m 2 % g.m 3
  let j4 := r / g.m 1 / g.m 2 / g.m 3
  (upFrom j0 (min 32 (g.m 0 - j0))).map fun j => [j, j1, j2, j3, j4]
/-- The source index of a destination index. -/
def Geo.srcIdx (g : Geo) (j : List Nat) : List Nat :=
  (upFrom 0 5).map fun k => match (upFrom 0 5).find? fun p => lget 0 g.perm p == k with
    | some p => lget 0 j p
    | none => 0
/-- The flat position of an index among extents. -/
def flatPos (ns idx : List Nat) : Nat := (ns.zip idx).foldr (fun p acc => p.2 + p.1 * acc) 0
/-- Extents of the destination. -/
def Geo.ms (g : Geo) : List Nat := (upFrom 0 5).map g.m

/-- A number reduced to 48 bits. -/
def mod48 (x : Int) : Nat := (x % (2 ^ 48 : Nat)).toNat

/-- The aligned row of an index, and its signed offset from the base (R273). -/
def rowAddr (base : Int) (str : List Int) (idx : List Nat) : Nat × Int :=
  let raw := mod48 ((str.zip (idx.drop 1)).foldl (fun a p => a + p.1 * p.2) base)
  let row := raw - raw % 32
  (row, sfld (mod48 ((row : Int) - base)) 0 48)

/-- Bytes of a block in the element array, and the byte of an element in its row (R273). -/
def blockBytes (f lay : Nat) : Nat := if f = 7 then 16 else if isMx6 f then (if lay = 1 then 16 else 24) else 32
/-- Byte of element `i` in its row. -/
def elemByte (f lay i : Nat) : Nat := if usePlanes f lay then i / 2 else elemBits f * i / 8

/-- One side's places of an element: its row as `RowAt`, its scale byte and its exponent byte (R273). -/
structure ElemAt where
  row : RowAt
  c : Nat
  scale : Nat
  expo : Nat

/-- Places of an element of one side. -/
def elemAt (f lay : Nat) (base : Int) (str : List Int) (sc p2 : Int) (idx : List Nat) (pos : Nat) : ElemAt :=
  let r := rowAddr base str idx
  let c := lget 0 idx 0
  { row := { fmt := f, planes := usePlanes f lay, el := r.1, p2 := mod48 (p2 + r.2 / 2) }
    c := c
    scale := mod48 (sc + (r.2 + elemByte f lay c) / (blockBytes f lay : Nat))
    expo := mod48 (sc + pos / 4096) }

/-- The source place of an element. -/
def Geo.srcAt (g : Geo) (j : List Nat) : ElemAt :=
  let i := g.srcIdx j
  elemAt g.sf g.slay g.sbase g.sstr g.ssc g.sp2 i (flatPos g.ns i)
/-- The destination place of an element. -/
def Geo.dstAt (g : Geo) (j : List Nat) : ElemAt :=
  elemAt g.df g.dlay g.dbase g.dstr g.dsc g.dp2 j (flatPos g.ms j)

/-- The words of a byte range. -/
def bytesWords (k a n : Nat) : List (Nat × Nat) := (wordsAt a n).map fun w => (k, 8 * w)

/-- FX elements are added to FX elements with their bucket exponents (R106, R275). -/
def Geo.addsFx (g : Geo) : Bool := g.mode == 1 && g.wmode == 1 && isFx g.df

/-- Source words an element draws on, by kind and address. -/
def Geo.elemWords (g : Geo) (j : List Nat) : List (Nat × Nat) :=
  let e := g.srcAt j
  if g.mode = 0 then bytesWords g.sk (e.row.el + rawSize g.sf * e.c) (rawSize g.sf)
  else
    let s1 := e.row.span e.c 1
    let s2 := e.row.span2 e.c 1
    bytesWords g.sk s1.1 s1.2
      ++ (if e.row.planes then bytesWords g.sk s2.1 s2.2 else [])
      ++ (if isMx g.sf then bytesWords g.sk e.scale 1 else [])
      ++ (if isFx g.sf then bytesWords g.sk e.expo 1 else [])
      ++ (if g.mode = 3 ∨ g.addsFx then bytesWords g.dk (g.dstAt j).expo 1 else [])

/-! What a unit needs and what it writes. -/

/-- Writes of one unit that go to one 256 B block, with their OP. -/
structure WItem where
  kind : Nat
  block : Nat
  op : Nat
  ws : List WWrite
  deriving DecidableEq, Repr

/-- Writes gathered by 256 B block. -/
def blockItems (kind op : Nat) (ws : List WWrite) : List WItem :=
  let bs := (ws.map fun w => w.addr / 256).eraseDups
  bs.map fun b => { kind := kind, block := 256 * b, op := op, ws := ws.filter fun w => w.addr / 256 == b }

/-- What has been read for the current unit. -/
abbrev Staged := List (Nat × Nat × PWord)

/-- A staged word. -/
def Staged.word (st : Staged) (k a : Nat) : PWord :=
  match st.find? fun x => x.1 == k && x.2.1 == a with
  | some x => x.2.2
  | none => {}
/-- Staged data of a kind by word. -/
def Staged.rd (st : Staged) (k : Nat) : Rd := fun i => (Staged.word st k (8 * i)).data.toNat

/-- Poison of writes. -/
def markPoison (p : Bool) (ws : List WWrite) : List WWrite := if p then ws.map fun w => { w with poison := true } else ws

/-- The bucket exponent that FX element `j` of a bit for bit move writes: the source's, but 0xFF where an addition meets
0xFF at the destination (R106). -/
def Geo.bucket (g : Geo) (st : Staged) (j : List Nat) : Nat :=
  if g.addsFx ∧ rdBytes (Staged.rd st g.dk) (g.dstAt j).expo 1 = 0xFF then 0xFF
  else rdBytes (Staged.rd st g.sk) (g.srcAt j).expo 1

/-- 32 B units of the destination's element array, or 4-bit plane, that unit `u` completes in its row (R303). -/
def Geo.unitCount (g : Geo) (u : Nat) : Nat :=
  let j0 := 32 * (u % g.perRow)
  let bits := if g.mode = 0 then 8 * rawSize g.df else if usePlanes g.df g.dlay then 4 else elemBits g.df
  let ends (j : Nat) : Nat := (bits * j + 255) / 256
  ends (min (j0 + 32) (g.m 0)) - ends j0

/-- The writes of a DMA unit: of its elements, and of scales and exponents (R274, R275). -/
def Geo.unitWrites (g : Geo) (u : Nat) (st : Staged) (sr : Sr) : List WWrite × List WWrite :=
  let js := g.elems u
  let rd := Staged.rd st g.sk
  let bad (j : List Nat) : Bool := (g.elemWords j).any fun w => (Staged.word st w.1 w.2).poison
  if g.mode = 0 then
    let z := rawSize g.sf
    (js.flatMap fun j =>
      let s := g.srcAt j
      let d := g.dstAt j
      markPoison (bad j) (wrBits (d.row.el + z * d.c) 0 (8 * z) (rdBytes rd (s.row.el + z * s.c) z)), [])
  else if g.mode = 1 then
    (js.flatMap fun j => markPoison (bad j) ((g.dstAt j).row.put (g.dstAt j).c ((g.srcAt j).row.code rd (g.srcAt j).c)),
     js.flatMap fun j => markPoison (bad j)
       ((if isMx g.sf then wrBits (g.dstAt j).scale 0 8 (rdBytes rd (g.srcAt j).scale 1) else [])
         ++ (if isFx g.sf then wrBits (g.dstAt j).expo 0 8 (g.bucket st j) else [])))
  else
    let p (j : List Nat) : Nat := flatPos g.ms j
    let val (j : List Nat) : Val :=
      let s := g.srcAt j
      memVal g.sf (if isMx g.sf then rdBytes rd s.scale 1 else if isFx g.sf then rdBytes rd s.expo 1 else 0) .one g.sh (s.row.code rd s.c)
    if g.mode = 2 ∧ isMx g.df then
      let k := encBlock g.df g.drnd g.dsat g.srule (js.map val) (js.map fun j => srBits g.drnd sr (p j))
      let any := js.any bad
      ((js.zip k.2).flatMap fun q => markPoison any ((g.dstAt q.1).row.put (g.dstAt q.1).c q.2.1),
       match js with
       | j :: _ => markPoison any (wrBits (g.dstAt j).scale 0 8 k.1)
       | [] => [])
    else
      (js.flatMap fun j =>
        let d := g.dstAt j
        let code :=
          if g.mode = 3 then
            (encFx g.df g.dh (rdBytes (Staged.rd st g.dk) d.expo 1) g.drnd (srBits g.drnd sr (p j)) (val j)).1
          else if g.mode = 4 then (encElem 0 g.srnd (srBits g.srnd sr (p j)) g.ssat (val j)).1
          else (encElem g.df g.drnd (srBits g.drnd sr (p j)) g.dsat (val j)).1
        markPoison (bad j) (d.row.put d.c code), [])

/-! Gathers (R285, R286). -/

/-- Bytes of a row. -/
def gRow (v : Nat) : Nat := 64 * (fld v 58 6 + 1)
/-- Place of list entry `j`. -/
def gListAt (v : Nat) (ladd : Int) (j : Nat) : Nat := mod48 ((fld v 0 20 : Int) + ladd + 4 * j)
/-- The linear row's address. -/
def gLinear (v j : Nat) : Nat :=
  let a := mod48 ((fld v 154 48 : Int) + j * sfld v 202 40)
  a - a % 32
/-- The table row's address. -/
def gTable (v x : Nat) : Nat :=
  let a := mod48 ((fld v 64 48 : Int) + x * sfld v 112 40)
  a - a % 32

/-- A job's descriptor as a number. -/
def Job.v (j : Job) : Nat := wordsNat j.d
/-- Geometry of a DMA job. -/
def Job.geo (j : Job) : Geo := geoOf j.v (j.kind == .dmat) j.sadd j.dadd
/-- The job is a gather or scatter. -/
def Job.isGather (j : Job) : Bool := j.kind == .gat || j.kind == .sct
/-- Units of a job. -/
def Job.total (j : Job) : Nat :=
  match j.kind with
  | .dma | .dmat => j.geo.total
  | .gat | .sct | .imem => j.count

/-- A word has been read for the current unit. -/
def Job.has (j : Job) (w : Nat × Nat) : Bool := j.staged.any fun x => x.1 == w.1 && x.2.1 == w.2

/-- The index of the list entry a gather's current unit moves, once it has been read. -/
def Job.index (j : Job) : Option Nat :=
  let a := gListAt j.v j.sadd j.pos
  if (bytesWords 0 a 4).all j.has then some (rdBytes (Staged.rd j.staged 0) a 4) else none

/-- The next words of the current unit that have not been read (R273, R286). -/
def Job.needs (j : Job) : List (Nat × Nat) :=
  let v := j.v
  let all : List (Nat × Nat) :=
    match j.kind with
    | .imem =>
      let z := if j.strm = .X then 16 else 8
      bytesWords 2 (j.src + z * j.pos) z
    | .dma | .dmat => (j.geo.elems j.pos).flatMap j.geo.elemWords
    | .gat | .sct =>
      match j.index with
      | none => bytesWords 0 (gListAt v j.sadd j.pos) 4
      | some x =>
        if x = 0xFFFFFFFF then []
        else if j.kind = .gat then bytesWords (fld v 152 2) (gTable v x) (gRow v)
        else bytesWords (fld v 242 2) (gLinear v j.pos) (gRow v)
  (all.filter fun w => !j.has w).eraseDups

/-- The writes of the current unit, by 256 B block. -/
def Job.items (j : Job) : List WItem :=
  let v := j.v
  match j.kind with
  | .imem => []
  | .dma | .dmat =>
    let g := j.geo
    let o := g.unitWrites j.pos j.staged (j.conv.for_ j.desc)
    blockItems g.dk (rwOp g.wmode g.df) (joinWrites o.1) ++ blockItems g.dk 0 (joinWrites o.2)
  | .gat | .sct =>
    let op := rwOp (fld v 244 2) (fld v 246 4)
    let move (sk sa dk da : Nat) : List WItem :=
      blockItems dk op ((upFrom 0 (gRow v / 8)).map fun i =>
        let w := Staged.word j.staged sk (sa + 8 * i)
        { addr := da + 8 * i, mask := BitVec.allOnes 64, data := w.data, poison := w.poison })
    match j.index with
    | none => []
    | some x =>
      if x = 0xFFFFFFFF then
        (if j.kind = .gat ∧ op = 0 then
          blockItems (fld v 242 2) 0 ((upFrom 0 (gRow v / 8)).map fun i =>
            { addr := gLinear v j.pos + 8 * i, mask := BitVec.allOnes 64, data := 0 })
        else [])
      else if j.kind = .gat then move (fld v 152 2) (gTable v x) (fld v 242 2) (gLinear v j.pos)
      else move (fld v 242 2) (gLinear v j.pos) (fld v 152 2) (gTable v x)

/-- First byte and length of the access, in units of 64 B within one 256 B block, that covers a byte range (R283). -/
def span64 (lo hi : Nat) : Nat × Nat := (lo / 64 * 64, (hi + 63) / 64 * 64 - lo / 64 * 64)

/-- The access that reads word `w` and whatever else of its 256 B block the words `ns` name. -/
def readSpan (ns : List (Nat × Nat)) (w : Nat × Nat) : Nat × Nat :=
  let l := (ns.filter fun x => x.1 == w.1 && x.2 / 256 == w.2 / 256).map (·.2)
  span64 (l.foldl min w.2) (l.foldl max w.2 + 8)

/-- The access that an item's writes make. -/
def WItem.span (it : WItem) : Nat × Nat :=
  match it.ws with
  | [] => (it.block, 64)
  | w :: l => span64 (l.foldl (fun m x => min m x.addr) w.addr) (l.foldl (fun m x => max m x.addr) w.addr + 8)

/-! The engines: 0 DMA, 1 and 2 gather. -/

/-- The instruction at an engine's head. -/
def Core.headJob (c : Core) (eng : Nat) : Option Job :=
  match eng with
  | 0 => c.dq.head?
  | 1 => c.g0.head?
  | _ => c.g1.head?

/-- An engine's queue changed. -/
def Core.modQueue (c : Core) (eng : Nat) (f : List Job → List Job) : Core :=
  match eng with
  | 0 => { c with dq := f c.dq }
  | 1 => { c with g0 := f c.g0 }
  | _ => { c with g1 := f c.g1 }

/-- The head instruction changed. -/
def Dev.modJob (s : Dev) (n eng : Nat) (f : Job → Job) : Dev :=
  s.modCore n fun c => c.modQueue eng fun q => match q with
    | j :: rest => f j :: rest
    | [] => []

/-- FR_INFO.AKIND of an address kind (R449). -/
def akindOf : Nat → Nat
  | 0 => 1 | 1 => 5 | 2 => 2 | _ => 3

/-- IMEM_STAT.RESULT of a cause (R156, R176). -/
def imemResultOf : Nat → Nat
  | 0x3B => 7
  | 0x3D => 8
  | 0x2E => 5
  | _ => 4

/-- The head instruction meets a fault (R297, R298); a load ends with its result instead (R156). -/
def Dev.jobFault (s : Dev) (n eng cause kind addr lvl : Nat) (write poison : Bool) : Dev :=
  match (s.core n).headJob eng with
  | none => s
  | some j =>
    if j.kind = .imem then
      (s.modCore n fun c => c.orphan eng).modJob n eng fun j => { j with wait := .none, res := imemResultOf cause }
    else
      (s.faultJob n eng { cause := cause, slot := 0, pc := j.pc, engine := eng + 1, akind := akindOf kind,
                          addr := addr % 2 ^ 48, level := lvl, write := write, poison := poison }).evt (corePg n 3)
        (if eng = 0 then 0 else 1)

/-- Words put among those the head instruction has read. -/
def Dev.stageJob (s : Dev) (n eng kind addr : Nat) (ws : List PWord) : Dev :=
  s.modJob n eng fun j => { j with
    staged := j.staged ++ (ws.zip (upFrom 0 ws.length)).map fun q => (kind, addr + 8 * q.2, q.1) }

/-! Vault request slots (R284). -/

/-- The vault and the bank that a request to an endpoint goes to; none for another core's scratchpad and for a host window.
A vault of another part counts under its rank. -/
def bankKey (dst addr : Nat) (info : List Nat) : Option (Nat × Nat) :=
  let b := bankOf (addr % 0x8000000)
  if dst < Config.cores then (if addr < Config.cores * 0x8000000 then some (dst, b) else none)
  else if 0x400 ≤ dst ∧ dst < 0x408 then some ((lget 0 info 0 + 1) * 1024 + addr / 0x8000000, b)
  else none

/-- The vault and bank of an outstanding request of a core. -/
def Req.bank (r : Req) : Option (Nat × Nat) :=
  if r.cls == .rdReq || r.cls == .wrReq || r.cls == .rwReq then bankKey r.dst r.addr r.info else none

/-- The vaults and banks that core `n`'s slots are held on: by reads of its own vault, and by requests that have not been
answered, those in quarantine among them (R330). -/
def Core.slotBanks (c : Core) (n : Nat) : List (Nat × Nat) :=
  (c.vault.pend.filterMap fun a => match a.who with
    | .local _ => some (n, bankOf a.off)
    | .remote _ _ _ => none)
  ++ (c.reqs ++ c.quarantine).filterMap Req.bank

/-- What holds back a request of core `n` that a slot is to take: BANK_CAP or VAULT (R169, R284). -/
def Core.slotHold (c : Core) (n : Nat) (key : Option (Nat × Nat)) : Option Nat :=
  match key with
  | none => none
  | some b =>
    let l := c.slotBanks n
    if 16 ≤ (l.filter (· == b)).length then some 7 else if 64 ≤ l.length then some 11 else none

/-- What holds back a Harness request: a slot, or a tag (R310). -/
def Core.askHold (c : Core) (n dst addr : Nat) (info : List Nat) : Option Nat :=
  match c.slotHold n (bankKey dst addr info) with
  | some k => some k
  | none => if c.freeTag.isNone then some 9 else none

/-- A request to another endpoint for the head instruction; none without a free slot and tag (R284, R310). The engine
waits for the answer of a lookup or a write. -/
def Dev.askFor (s : Dev) (n eng : Nat) (p : Packet) (kind gaddr pc : Nat) (line : Option Nat) : Option Dev :=
  let hold := if p.cls = .lookup then none else (s.core n).slotHold n (bankKey p.dst p.addr p.info)
  match (s.core n).freeTag, hold with
  | some t, none =>
    let s1 := s.request n t eng p kind gaddr pc false line
    some (match p.cls with
      | .lookup => s1.modJob n eng fun j => { j with wait := .lookup t }
      | .rdReq => s1
      | _ => s1.modJob n eng fun j => { j with wait := .rsp t })
  | _, _ => none

/-- The Block Owner Table lookup of a global offset (R292). -/
def Dev.askLookup (s : Dev) (n eng g pc : Nat) : Option Dev :=
  let e := (s.botRange (s.corePart n)).1 + g / 2 ^ 21
  (s.askFor n eng { cls := .lookup, vc := 1, dst := epBot (if e < 65536 then 0 else 1), src := n, addr := e } 3
    (g / 2 ^ 21 * 2 ^ 21) pc none).map fun s => s.bump (corePg n 3) 6 1

/-- Where a resolved address leads in the Harness: an endpoint, the address there, and a request's numbers. -/
def Dev.reachEp (s : Dev) (n : Nat) : Reach → Option (Nat × Nat × List Nat)
  | .at_ (.spad m o) => some (m, spadAddr m o, [])
  | .at_ (.vault m o) => some (m, vaultAddr m o, [])
  | .at_ (.host m y) => some (0x410 + m, 0xC00000000000 + m * 2 ^ 44 + y, [])
  | .rank k b a => (s.remotePort (s.corePart n) k b).map fun p => (epLink p, a, [k])
  | _ => none

/-! The far-read cache (R294). -/

/-- Lines of the cache, 0 where it is off. -/
def Dev.frcLines (s : Dev) (n : Nat) : Nat :=
  let v := s.regN (ra (corePg n 1) 0x200)
  if fld v 20 2 = 0 then 0 else fld v 8 5 * 64

/-- The slot of the carve-out that a line takes: one free in its set, or its least recently used one's. -/
def frcSlot (frc : List (Nat × Nat)) (lines line : Nat) : Nat :=
  let set := line % (lines / 4)
  let used := (frc.filter fun p => p.2 / 4 == set).map (·.2)
  match (upFrom (4 * set) 4).find? fun k => !used.elem k with
  | some k => k
  | none => used.getLastD (4 * set)

/-- A line enters the cache. -/
def Dev.frcFill (s : Dev) (n line : Nat) (ws : List PWord) : Dev :=
  let lines := s.frcLines n
  if lines = 0 then s
  else
    let c := s.core n
    let k := match c.frc.find? fun p => p.1 == line with
      | some p => p.2
      | none => frcSlot c.frc lines line
    let base := (s.carve n).1 + 256 * k
    (s.spWrites n ((ws.zip (upFrom 0 ws.length)).map fun q =>
      { addr := base + 8 * q.2, mask := BitVec.allOnes 64, data := q.1.data, poison := q.1.poison })).modCore n fun c =>
      { c with frc := (line, k) :: c.frc.filter fun p => p.2 != k }

/-- Reads of a global offset by an engine's instruction go through the cache (R294). -/
def Dev.cacheable (s : Dev) (n kind g : Nat) (j : Job) (r : Reach) : Bool :=
  let far := match r with
    | .at_ (.vault m _) => m != n
    | .rank _ _ _ => true
    | _ => false
  let nc := match xlFind (s.core n).xl true g with
    | some x => tb x.entry.toNat 3
    | none => true
  kind == 3 && decide (0 < s.frcLines n) && far && !nc && (j.kind == .dma || j.kind == .dmat || j.kind == .gat)

/-- The request fetches line `l`. -/
def Req.fetches (r : Req) (l : Nat) : Bool := r.line == some l

/-- Lines a write touches leave the cache, and do not enter it from an earlier fetch (R294). -/
def Dev.frcDrop (s : Dev) (n g : Nat) : Dev :=
  s.modCore n fun c => { c with
    frc := c.frc.filter fun p => p.1 != g / 256
    reqs := c.reqs.map fun r => if r.fetches (g / 256) then { r with stale := true } else r }

/-- A miss on a line asks for the next one of the same block, unless that is there or on its way (R294). -/
def Dev.frcMiss (s : Dev) (n line : Nat) : Dev :=
  let c := s.core n
  let here := (c.frc.any fun p => p.1 == line + 1) || c.frcNext.elem (line + 1) || c.reqs.any fun r => r.fetches (line + 1)
  let s1 := s.bump (corePg n 3) 9 1
  if tb (s.regN (ra (corePg n 3) 0x10C)) 1 && (line + 1) % 8192 != 0 && !here then
    s1.modCore n fun c => { c with frcNext := c.frcNext ++ [line + 1] }
  else s1

/-! Reads of an engine. -/

/-- A read of the word has been asked for on behalf of the engine's head. -/
def Core.asked (c : Core) (eng : Nat) (w : Nat × Nat) : Bool :=
  (c.reqs.any fun r => r.eng == eng && r.cls == .rdReq && r.kind == w.1 && decide (r.gaddr ≤ w.2) && decide (w.2 < r.gaddr + r.len))
    || c.vault.pend.any fun a => a.who == .local eng && a.kind == w.1 && decide (a.gaddr ≤ w.2) && decide (w.2 < a.gaddr + 8 * a.raw.length)

/-- A read request of `len` bytes to where an address leads; none where nothing can be asked. -/
def Dev.readFrom (s : Dev) (n eng kind addr len pc : Nat) (line : Option Nat) (r : Reach) : Option Dev :=
  match s.reachEp n r with
  | some (dst, a, info) =>
    s.askFor n eng { cls := .rdReq, vc := 1, dst := dst, src := n, addr := a, len := len, info := info } kind addr pc line
  | none => none

/-- A read through the far-read cache: a hit is served from the carve-out, a miss fetches the line. -/
def Dev.jobCached (s : Dev) (n eng kind : Nat) (sp : Nat × Nat) (j : Job) (g : Nat) : Option Dev :=
  match (s.core n).frc.find? fun p => p.1 == g / 256 with
  | some p =>
    let o := (s.carve n).1 + 256 * p.2 + g % 256
    if (s.core n).spHeld o sp.2 then none
    else
      let q := s.spRead n (wordsAt o sp.2)
      some ((((q.2.bump (corePg n 3) 8 1).modCore n fun c => { c with frc := p :: c.frc.filter fun x => x != p }).stageJob n
        eng kind sp.1 q.1))
  | none =>
    let b := sp.1 / 256 * 256
    (s.readFrom n eng kind b 256 j.pc (some (g / 256)) (s.resolve n kind b false)).map fun s => s.frcMiss n (g / 256)

/-- A read of the core's own scratchpad, by word. -/
def Dev.jobLocal (s : Dev) (n eng : Nat) (w : Nat × Nat) (o : Nat) : Option Dev :=
  if (s.core n).spHeld o 8 then none
  else if s.inCarve n o 8 then some (s.jobFault n eng 0x2D w.1 w.2 0 false false)
  else let q := s.spRead n [o / 8]; some (q.2.stageJob n eng w.1 w.2 q.1)

/-- A read of the core's own vault: a place in its controller's queue, with a slot (R284, R342). -/
def Dev.jobOwn (s : Dev) (n eng : Nat) (w sp : Nat × Nat) (o : Nat) : Option Dev :=
  let c := s.core n
  match s.vaultGate n o with
  | .hold => none
  | .absent => some ((s.absentVault n o).jobFault n eng 0x3B w.1 w.2 0 false false)
  | .ok =>
    if (c.slotHold n (some (n, bankOf o))).isSome then none
    else some (s.modVault n fun v => { v with pend := v.pend ++
      [{ who := .local eng, off := o, kind := w.1, gaddr := sp.1, raw := (wordsAt o sp.2).map fun i => mget noWord v.mem i }] })

/-- The head instruction reads the word `w`, and with it the rest of the access `sp`: at once from the core's own
scratchpad, by a vault access from its own vault, through the far-read cache, or by a request. None where it has to
wait. -/
def Dev.jobRead (s : Dev) (n eng : Nat) (w sp : Nat × Nat) (j : Job) : Option Dev :=
  let r := s.resolve n w.1 sp.1 false
  let s := s.xlTouch n w.1 sp.1
  let fault (cause : Nat) : Option Dev := some (s.jobFault n eng cause w.1 w.2 0 false false)
  let g := s.globalOf n sp.1
  let far : Option Dev := if s.cacheable n w.1 g j r then s.jobCached n eng w.1 sp j g else s.readFrom n eng w.1 sp.1 sp.2 j.pc none r
  match r with
  | .fault f => fault f
  | .walk _ => some ((s.modJob n eng fun j => { j with wait := .walk w.2 false }).bump (corePg n 3) 5 1)
  | .lookup g => s.askLookup n eng g j.pc
  | .at_ .nowhere => fault 0x38
  | .at_ (.spad m o) => if m = n then s.jobLocal n eng w (o + (w.2 - sp.1)) else far
  | .at_ (.vault m o) => if m = n then s.jobOwn n eng w sp o else far
  | .rank k bl _ => if (s.remotePort (s.corePart n) k bl).isNone then fault 0x3B else far
  | .at_ (.host _ _) => far

/-! Writes of an engine. -/

/-- After the writes of an item took effect: poisoned words are noted (R301, R303). -/
def Dev.itemDone (s : Dev) (n eng : Nat) (it : WItem) : Dev :=
  let p := (it.ws.filter (·.poison)).length
  let s2 := if p = 0 then s else (s.bump (corePg n 3) 14 p).evt (corePg n 3) 4
  s2.modJob n eng fun j => { j with wait := .none, wdone := j.wdone + 1 }

/-- A saturating FX addition at the core's own memory (R275): its mark makes the core send a notice (R239). -/
def Dev.fxMark (s : Dev) (n : Nat) (sat : Bool) : Dev :=
  if sat then ((s.bump (corePg n 3) 15 1).evt (corePg n 3) 3).notice n else s

/-- An item's writes, its access at `base`. -/
def WItem.moved (it : WItem) (base : Nat) : List WWrite := it.ws.map fun w => { w with addr := base + (w.addr - it.span.1) }

/-- An item written to another endpoint, by a request that the engine waits for; `last` for the instruction's last write. -/
def Dev.jobSend (s : Dev) (n eng : Nat) (it : WItem) (last : Bool) (pc dst a : Nat) (info : List Nat) : Option Dev :=
  (s.askFor n eng { cls := if it.op = 0 then .wrReq else .rwReq, vc := if it.op = 0 then 1 else 3, dst := dst, src := n,
                    addr := a, len := it.span.2, op := it.op, writes := it.moved a, info := info } it.kind it.span.1 pc none).map
    fun s => if last && it.op == 0 && decide (dst < Config.cores) then s.modJob n eng fun j => { j with last := some dst } else s

/-- An item written to the core's own scratchpad (R69, R139). -/
def Dev.jobPutSp (s : Dev) (n eng : Nat) (it : WItem) (o addr : Nat) : Option Dev :=
  let c := s.core n
  let len := it.span.2
  if c.spHeld o len then none
  else if s.inCarve n o len then some (s.jobFault n eng 0x2D it.kind addr 0 true false)
  else if 0 < eng ∧ c.running ∧ (it.moved o).any (fun w => decide (s.reserve n ≤ w.addr)) then
    some (((s.bump (corePg n 1) 15 1).evt (corePg n 1) 10).jobFault n eng 0x3C it.kind addr 0 true false)
  else
    let q := rwAll (fun s w => s.spRw n it.op w) s (it.moved o)
    some ((q.1.fxMark n q.2).itemDone n eng it)

/-- An item written to the core's own vault. -/
def Dev.jobPutOwn (s : Dev) (n eng : Nat) (it : WItem) (o addr : Nat) : Option Dev :=
  match s.vaultGate n o with
  | .hold => none
  | .absent => some ((s.absentVault n o).jobFault n eng 0x3B it.kind addr 0 true false)
  | .ok =>
    if ((s.core n).slotHold n (some (n, bankOf o))).isSome then none
    else
      let q := rwAll (fun s w => s.vRw n it.op w) (s.openRow n o) (it.moved o)
      some ((q.1.fxMark n q.2).itemDone n eng it)

/-- The head instruction's write item: at once to the core's own memories, by a request elsewhere. None where
it has to wait. -/
def Dev.jobWrite (s : Dev) (n eng : Nat) (it : WItem) (last : Bool) (j : Job) : Option Dev :=
  let sp := it.span
  let addr := match it.ws with
    | w :: _ => w.addr
    | [] => it.block
  let r := s.resolve n it.kind sp.1 true
  let s := s.xlTouch n it.kind sp.1
  let fault (cause : Nat) : Option Dev := some (s.jobFault n eng cause it.kind addr 0 true false)
  let s0 := if it.kind = 3 then s.frcDrop n (s.globalOf n sp.1) else s
  let far : Option Dev := match s.reachEp n r with
    | some (dst, a, info) => s0.jobSend n eng it last j.pc dst a info
    | none => fault 0x3B
  match r with
  | .fault f => fault f
  | .walk _ => some ((s.modJob n eng fun j => { j with wait := .walk addr true }).bump (corePg n 3) 5 1)
  | .lookup g => s.askLookup n eng g j.pc
  | .at_ .nowhere => fault 0x38
  | .at_ (.spad m o) => if m = n then s0.jobPutSp n eng it o addr else far
  | .at_ (.vault m o) => if m = n then s0.jobPutOwn n eng it o addr else far
  | .at_ (.host _ _) => far
  | .rank _ _ _ => far

/-- A unit's last write has taken effect: the position moves on, and what it has written counts (R303). -/
def Dev.unitDone (s : Dev) (n eng : Nat) (j : Job) : Dev :=
  let pg := corePg n 3
  let s1 := match j.kind with
    | .dma | .dmat => s.bump pg 1 (j.geo.unitCount j.pos)
    | .gat => s.bump pg (if j.index = some 0xFFFFFFFF then 4 else 2) 1
    | .sct => s.bump pg (if j.index = some 0xFFFFFFFF then 4 else 3) 1
    | .imem => s
  s1.modJob n eng fun j => { j with pos := j.pos + 1, wdone := 0, staged := [] }

/-- A loaded slot is written (R154, R155); a poisoned word ends the load (R156). -/
def Dev.imemUnit (s : Dev) (n eng : Nat) (j : Job) : Dev :=
  let z := if j.strm = .X then 2 else 1
  let ws := (upFrom 0 z).map fun i => Staged.word j.staged 2 (j.src + 8 * (z * j.pos + i))
  if ws.any (·.poison) then s.jobFault n eng 0x2E 2 0 0 false true
  else
    let put (m : SMap MWord) : SMap MWord :=
      (ws.zip (upFrom (z * (j.slot + j.pos)) z)).foldl (fun m q => mset noWord m q.2 (freshWord q.1)) m
    ((s.modCore n fun c => match j.strm with
      | .X => { c with imemX := put c.imemX }
      | .A => { c with imemA := put c.imemA }).modJob n eng (fun j => { j with pos := j.pos + 1, staged := [] })).bump
      (corePg n 0) 8 1

/-- What the engine's head does next. -/
inductive Move where
  /-- It waits for an answer, or is through. -/
  | idle
  | read (w sp : Nat × Nat)
  | write (it : WItem) (last : Bool)
  /-- The unit has been read, for a load, or written. -/
  | unit

/-- The next action of an engine's head, for a core `c`: a read of what the current unit needs and nothing has asked for;
when all is there, the unit's next write. -/
def Core.nextMove (c : Core) (eng : Nat) (j : Job) : Move :=
  if !j.active || j.wait != .none || j.res != 0 || decide (j.total ≤ j.pos) then .idle
  else
    let ns := j.needs
    match ns.filter fun w => !c.asked eng w with
    | w :: l => .read w (readSpan (w :: l) w)
    | [] =>
      if !ns.isEmpty then .idle
      else match j.items[j.wdone]? with
        | none => .unit
        | some it => .write it (decide (j.items.length ≤ j.wdone + 1) && decide (j.total ≤ j.pos + 1))

/-- An engine's next action is done. None where it waits or is through. -/
def Dev.jobStep (s : Dev) (n eng : Nat) : Option Dev :=
  match (s.core n).headJob eng with
  | none => none
  | some j => match (s.core n).nextMove eng j with
    | .idle => none
    | .read w sp => s.jobRead n eng w sp j
    | .write it last => s.jobWrite n eng it last j
    | .unit => some (if j.kind = .imem then s.imemUnit n eng j else s.unitDone n eng j)

/-- An engine goes on until it waits or is through; `fuel` bounds its actions. -/
def Dev.jobRun (s : Dev) (n eng : Nat) : Nat → Dev
  | 0 => s
  | k + 1 => match s.jobStep n eng with
    | none => s
    | some t => t.jobRun n eng k

/-- More actions than any instruction takes: its at most 2^64 units of at most 2^12 words. -/
def jobFuel : Nat := 2 ^ 80

/-- The engine goes on (R279). -/
def Dev.advance (s : Dev) (n eng : Nat) : Dev := s.jobRun n eng jobFuel

/-- The cause that holds an engine's head back for an access to where an address leads (R169, R200). -/
def Dev.reachHold (s : Dev) (n : Nat) (r : Reach) : Option Nat :=
  let c := s.core n
  match r with
  | .lookup _ => if c.freeTag.isNone then some 9 else none
  | .at_ (.vault m o) => if m = n then c.slotHold n (some (n, bankOf o)) else c.askHold n m (vaultAddr m o) []
  | .at_ (.spad m o) => if m = n then none else c.askHold n m (spadAddr m o) []
  | r => match s.reachEp n r with
    | some (dst, a, info) => c.askHold n dst a info
    | none => none

/-- A remote access of an engine waits at its link port for a connection (R384). -/
def Dev.connHeld (s : Dev) (n eng : Nat) : Bool :=
  (upFrom 0 8).any fun k => (s.link k).waits.any fun w =>
    w.core == n && ((s.core n).reqs.any fun r => r.tag == w.tag && r.eng == eng) && (s.link k).txq.any fun m => m.rtag.toNat == w.rtag

/-- The cause, of BANK_CAP, HARNESS_BP, XLATE and VAULT, that holds the head of an engine (R200, R384). -/
def Dev.headCause (s : Dev) (n eng : Nat) : Option Nat :=
  match (s.core n).headJob eng with
  | none => none
  | some j => if s.connHeld n eng then some 9 else match j.wait, (s.core n).nextMove eng j with
    | .walk _ _, _ | .lookup _, _ => some 10
    | _, .read w sp => s.reachHold n (s.resolve n w.1 sp.1 false)
    | _, .write it _ => s.reachHold n (s.resolve n it.kind it.span.1 true)
    | _, _ => none

/-! Issue (R198 to R200). -/

/-- The cause a full queue counts: the lowest of its own and of the one that holds the engine's head (R200). -/
def Dev.fullCause (s : Dev) (n eng : Nat) : Nat :=
  let own := if eng = 0 then 12 else 13
  match s.headCause n eng with
  | some k => min k own
  | none => own

/-- The checks of a descriptor's place at issue (R198). -/
def Dev.descFault (s : Dev) (n ofs len : Nat) : Option Nat :=
  firstFault [(outSp ofs len, 0x2A), (s.inCarve n ofs len, 0x2D)]

/-- `dma` and `dmat` (R198). -/
def Dev.dmaIssue (s : Dev) (n : Nat) (which : Bool) : Dev :=
  s.issue n .A (fun o => match o with | .dma glb _ _ _ _ _ => glb == which | _ => false) fun k o => match o with
    | .dma glb desc sadd dadd cfe cf =>
      let c := s.core n
      if 8 ≤ (c.dq.filter fun j => j.kind != .imem).length then .wait (s.fullCause n 0)
      else match s.descFault n desc 64 with
        | some f => .fault ((recOf s n .A k f 0).at 1 desc false false)
        | none => .ok (s.modCore n fun c => { c with
            work := c.work + 1
            dq := c.dq ++ [{ kind := if glb then .dmat else .dma, desc := desc, sadd := sadd, dadd := dadd, cfe := cfe,
                             cf := cf, work := c.work, pc := c.a.pc }] })
    | _ => .ok s

/-- DMA. -/
def execDma (core : Nat) (s : State) : Host.Outcome State Fault Refusal :=
  .next (s.onCore core fun d => d.dmaIssue core false)
/-- DMAT. -/
def execDmat (core : Nat) (s : State) : Host.Outcome State Fault Refusal :=
  .next (s.onCore core fun d => d.dmaIssue core true)

/-- `gat` and `sct` (R286). -/
def Dev.gatherIssue (s : Dev) (n : Nat) (which : Bool) : Dev :=
  s.issue n .A (fun o => match o with | .gather sct _ _ _ _ _ => sct == which | _ => false) fun k o => match o with
    | .gather sct g desc ladd cfe cf =>
      let c := s.core n
      if 2 ≤ (if g = 0 then c.g0 else c.g1).length then .wait (s.fullCause n (g + 1))
      else match s.descFault n desc 64 with
        | some f => .fault ((recOf s n .A k f 0).at 1 desc false false)
        | none =>
          let j : Job := { kind := if sct then .sct else .gat, desc := desc, sadd := ladd, cfe := cfe, cf := cf,
                           work := c.work, pc := c.a.pc }
          .ok (s.modCore n fun c => { c.modQueue (g + 1) (fun q => q ++ [j]) with work := c.work + 1 })
    | _ => .ok s

/-- GAT. -/
def execGat (core : Nat) (s : State) : Host.Outcome State Fault Refusal :=
  .next (s.onCore core fun d => d.gatherIssue core false)
/-- SCT. -/
def execSct (core : Nat) (s : State) : Host.Outcome State Fault Refusal :=
  .next (s.onCore core fun d => d.gatherIssue core true)

/-! Start and end of an instruction. -/

/-- The far-read cache is invalidated; a line on its way is not filled in (R294). -/
def Core.frcInv (c : Core) : Core :=
  { c with frc := [], frcNext := [], reqs := c.reqs.map fun r => if r.line.isSome then { r with stale := true } else r }

/-- FRCINV. -/
def Dev.frcIf (s : Dev) (n v : Nat) : Dev := if tb v 506 then s.modCore n Core.frcInv else s

/-- The engine reads the 64 B of a descriptor at `ofs`: the words, or the check that fails (R139, R297). -/
def Dev.descRead (s : Dev) (n ofs : Nat) : Except Nat (List DWord × Dev) :=
  match s.descFault n ofs 64 with
  | some f => .error f
  | none => let q := s.spRead n (wordsAt ofs 64); .ok (q.1.map (·.data), q.2)

/-- The DMA engine reads the descriptor of its head and its extension (R278, R297), invalidates the far-read cache where
it says so (R270), reads the conversion settings (R253), and sets out. What lies in space that is being cleared is waited for
(R133, R138). -/
def Dev.dmaBegin (s : Dev) (n : Nat) (j : Job) : Dev :=
  let c := s.core n
  let go (s : Dev) (d : List DWord) : Dev :=
    (s.modJob n 0 fun j => { j with active := true, d := d, conv := s.convNow n none }).frcIf n (wordsNat d)
  if j.kind = .imem then s.modJob n 0 fun j => { j with active := true }
  else if c.spHeld j.desc 64 then s
  else match s.descRead n j.desc with
    | .error f => s.jobFault n 0 f 0 j.desc 0 false false
    | .ok (d, s1) =>
      if !tb (wordsNat d) 505 then go s1 d
      else if c.spHeld (j.desc + 64) 64 then s
      else match s1.descRead n (j.desc + 64) with
        | .error f => s1.jobFault n 0 f 0 (j.desc + 64) 0 false false
        | .ok (e, s2) => go s2 (d ++ e)

/-- DMA_DESC_START: the engine's head starts, or goes on where nothing holds it any more. -/
def Dev.dmaStart (s : Dev) (n : Nat) : Dev :=
  match (s.core n).headJob 0 with
  | none => s
  | some j => if j.active then s.advance n 0 else (s.dmaBegin n j).advance n 0

/-- DMA_DESC_START. -/
def execDmaDescStart (core : Nat) (s : State) : Host.Outcome State Fault Refusal :=
  .next (s.onCore core fun d => d.dmaStart core)

/-- The head instruction of an engine is complete (R279, R288): its flag is set. -/
def Dev.jobEnd (s : Dev) (n eng : Nat) : Dev :=
  match (s.core n).headJob eng with
  | none => s
  | some j =>
    if j.active && j.kind != .imem && j.wait == .none && decide (j.total ≤ j.pos) then
      let s1 := s.modCore n fun c => c.modQueue eng fun q => q.drop 1
      (if eng = 0 then s1.bump (corePg n 3) 0 1 else s1).complete n j.cfe j.cf (if eng = 0 then 3 else 4)
    else s

/-- DMA_DESC_DONE. -/
def execDmaDescDone (core : Nat) (s : State) : Host.Outcome State Fault Refusal :=
  .next (s.onCore core fun d => d.jobEnd core 0)

/-- Scratchpad bytes of an LSP address range, each reduced (R268). -/
def lspBytes (ofs len : Nat) : List Nat := (upFrom ofs len).map fun b => b % spSize

/-- A gather engine reads its head's descriptor and, with NSRC, the count word (R286), and sets out (R287). -/
def Dev.gatherBegin (s : Dev) (n eng : Nat) (j : Job) : Dev :=
  let c := s.core n
  let go (s : Dev) (d : List DWord) (k : Nat) : Dev :=
    s.modJob n eng fun j => { j with active := true, d := d, count := k, conv := s.convNow n none }
  if c.spHeld j.desc 64 then s
  else match s.descRead n j.desc with
    | .error f => s.jobFault n eng f 0 j.desc 0 false false
    | .ok (d, s1) =>
      let v := wordsNat d
      let cnt := lspBytes (fld v 38 20) 4
      if fld (s.regN (ra (corePg n 1) 0x200)) 16 2 = 0 then s1.jobFault n eng 0x3E 0 j.desc 0 false false
      else if !tb v 37 then go s1 d (fld v 20 17)
      else if cnt.any fun b => c.spHeld b 1 then s
      else if cnt.any fun b => s.inCarve n b 1 then s1.jobFault n eng 0x2D 0 (fld v 38 20) 0 false false
      else
        go (s1.spNote n (cnt.map (· / 8)).eraseDups) d
          (min (cnt.foldr (fun b acc => rdBytes c.spRd b 1 + 256 * acc) 0) 65536)

/-- GATHER_START (R286, R287). -/
def Dev.gatherStart (s : Dev) (n g : Nat) : Dev :=
  match (s.core n).headJob (g + 1) with
  | none => s
  | some j => if j.active then s.advance n (g + 1) else (s.gatherBegin n (g + 1) j).advance n (g + 1)

/-- GATHER_START. -/
def execGatherStart (core g : Nat) (s : State) : Host.Outcome State Fault Refusal :=
  .next (s.onCore core fun d => d.gatherStart core g)

/-- GATHER_DONE. -/
def execGatherDone (core g : Nat) (s : State) : Host.Outcome State Fault Refusal :=
  .next (s.onCore core fun d => d.jobEnd core (g + 1))

/-- FRC_INV (R294). -/
def execFrcInv (w : Writer) (core : Nat) (s : State) : Host.Outcome State Fault Refusal :=
  .next (s.onDev fun d => d.regAccess w (corePg core 3) fun d => d.modCore core Core.frcInv)

end Sys2Proof.Machine
end

