-- ==== Sys2Proof/Machine/Vaults.lean ====
section
/-! DEFINITION. The vault controllers (R338 to R360), fault injection (R364, R365) and the critical-word patrol
(R362, R363). -/
namespace Sys2Proof.Machine
open Sys2Proof

/-! Accesses. -/

/-- The answer to a read, for who asked (R342): an engine goes on, a remote requester gets RD_RSP. -/
def Dev.vAnswer (s : Dev) (n : Nat) (a : VAcc) (ws : List PWord) : Dev :=
  match a.who with
  | .local eng => if eng < 3 then (s.stageJob n eng a.kind a.gaddr ws).advance n eng else s
  | .remote src epoch tag =>
    s.inject { cls := .rdRsp, vc := 2, dst := src, src := n, epoch := epoch, tag := tag, len := 8 * a.raw.length, data := ws }

/-- The older reads of the bank of accepted read `k`. -/
def Vault.older (v : Vault) (k : Nat) (a : VAcc) : List VAcc := (v.pend.take k).filter fun b => bankOf b.off == bankOf a.off

/-- The bank may serve accepted read `k` next (R344): it is the bank's oldest, or is of the open row, passes no read of its
256 B unit, and follows fewer than 8 that passed older ones. -/
def Vault.serves (v : Vault) (k : Nat) (a : VAcc) : Bool :=
  let old := v.older k a
  old.isEmpty || (!(old.any fun b => b.off / 256 == a.off / 256) && mget (fun _ => 0) v.openRow (bankOf a.off) == rowOf a.off + 1
    && decide (mget (fun _ => 0) v.passes (bankOf a.off) < 8))

/-- Accepted read `k` leaves the queue: its row is open, and it has passed older reads of its bank or has not. -/
def Vault.served (v : Vault) (k : Nat) (a : VAcc) : Vault :=
  let b := bankOf a.off
  { v.opened a.off with
    pend := ldel v.pend k
    passes := mset (fun _ => 0) v.passes b (if (v.older k a).isEmpty then 0 else mget (fun _ => 0) v.passes b + 1) }

/-- Of the write-backs queued since there were `n0`, those of words written meanwhile are dropped (R350). -/
def Dev.dropLate (s : Dev) (n n0 : Nat) (late : List Nat) : Dev :=
  let wb := (s.core n).vault.wb
  let gone := (wb.drop n0).filter fun p => late.elem p.1
  if gone.isEmpty then s
  else
    (s.modVault n fun v => { v with wb := wb.take n0 ++ (wb.drop n0).filter fun p => !late.elem p.1 }).bump
      (vqPg (quarterOf n)) 6 gone.length

/-- Read `k` of a vault completes (R350): its words are checked as they stood at acceptance (R344). -/
def Dev.vaultDone (s : Dev) (n k : Nat) (noise : List Noise) : Dev :=
  let v := (s.core n).vault
  match v.pend[k]? with
  | none => s
  | some a =>
    if !v.serves k a then s
    else
      let r := s.vChecks n noise ((upFrom (a.off / 8) a.raw.length).zip a.raw)
      ((r.2.dropLate n v.wb.length a.late).modVault n fun v => v.served k a).vAnswer n a r.1

/-- VAULT_ACCESS_DONE. -/
def execVaultAccessDone (core k : Nat) (noise : List Noise) (s : State) : Host.Outcome State Fault Refusal :=
  .next (s.onVault core fun d => d.vaultDone core k noise)

/-- The first pending write-back that `want` accepts is done (R350), and leaves its row open (R340); an armed flip is not
applied to it (R364). -/
def Vault.back (v : Vault) (want : Nat → Bool) : Vault :=
  match v.wb.find? fun p => want p.1 with
  | some p => { v.opened (8 * p.1) with mem := mset noWord v.mem p.1 p.2, wb := v.wb.filter fun q => q.1 != p.1 }
  | none => v

/-- VAULT_WRITEBACK (R350). -/
def execVaultWriteback (core : Nat) (s : State) : Host.Outcome State Fault Refusal :=
  .next (s.onVault core fun d => d.modVault core fun v => v.back fun _ => true)

/-- VAULT_BANK_BACKGROUND (R342): a bank without a free cycle takes one for its waiting write-back. -/
def execVaultBankBackground (core bank : Nat) (s : State) : Host.Outcome State Fault Refusal :=
  .next (s.onVault core fun d => d.modVault core fun v => v.back fun i => bankOf (8 * i) == bank)

/-- A refresh command of a bank (R340, R346, R347): its row closes. The sequencer runs in the tier's power domain and in
CD_MGMT, whatever the pod does. -/
def Dev.refresh (s : Dev) (n bank : Nat) : Dev :=
  if 64 ≤ bank ∨ s.power.tierOff.getLsbD (2 * quarterOf n + bank / 32) then s
  else (s.modVault n fun v => { v with openRow := mset (fun _ => 0) v.openRow bank 0 }).bump (vqPg (quarterOf n)) 9 1

/-- REFRESH_CMD. -/
def execRefreshCmd (core bank : Nat) (s : State) : Host.Outcome State Fault Refusal :=
  .next (s.onDev fun d => if core < Config.cores then d.refresh core bank else d)

/-! Patrol scrub (R353). -/

/-- 256 B units of a vault. -/
def vaultUnits : Nat := 393216

/-- The next unit at or after `i` outside retired pseudo-channels; `vaultUnits` where none is left. -/
def Vault.scrubAt (v : Vault) (i : Nat) : Nat :=
  let k := 256 * i / 0x1800000
  match (upFrom k (4 - k)).find? fun j => !v.retired.getLsbD j with
  | none => vaultUnits
  | some j => if j = k then i else j * 98304

/-- A vault completed a pass; SCRUB_PASS rises when every vault of the quarter has. -/
def Dev.scrubPass (s : Dev) (n : Nat) : Dev :=
  let q := quarterOf n
  let s1 := s.modVault n fun v => { v with scrubPos := 0, scrubDone := true }
  if (upFrom (168 * q) 168).all fun m => (s1.core m).vault.scrubDone then
    ((upFrom (168 * q) 168).foldl (fun (s : Dev) m => s.modVault m fun v => { v with scrubDone := false }) s1).evt (vqPg q) 0
  else s1

/-- The scrubber of a vault reads its next unit, unless it is off, the vault is being wiped or in self-refresh
(R348), or its tier has no power. -/
def Dev.vaultScrub (s : Dev) (n : Nat) (noise : List Noise) : Dev :=
  let v := (s.core n).vault
  let i := v.scrubAt v.scrubPos
  if !tb (s.regN (ra (vqPg (quarterOf n)) 0x180)) 31 || v.wiping || v.selfRefresh then s
  else if vaultUnits ≤ i then s.scrubPass n
  else if s.power.tierOff.getLsbD (qtOf n (256 * i)) || s.power.clearing.getLsbD (qtOf n (256 * i)) then s
  else
    let ws := (upFrom (32 * i) 32).map fun w => (w, mget noWord v.mem w)
    let s1 := ((s.openRow n (256 * i)).vChecks n noise ws).2.bump (vqPg (quarterOf n)) 7 1
    if vaultUnits ≤ i + 1 then s1.scrubPass n else s1.modVault n fun v => { v with scrubPos := i + 1 }

/-- VAULT_SCRUB. -/
def execVaultScrub (core : Nat) (noise : List Noise) (s : State) : Host.Outcome State Fault Refusal :=
  .next (s.onVault core fun d => d.vaultScrub core noise)

/-- RET_WINDOW_END (R357). -/
def execRetWindowEnd (q : Nat) (s : State) : Host.Outcome State Fault Refusal :=
  .next (s.onDev fun d => (upFrom (168 * q) 168).foldl (fun (d : Dev) n => d.modVault n fun v =>
    { v with ue := [0, 0, 0, 0], ce := [0, 0, 0, 0] }) d)

/-! The window of a vault quarter page (R367, R368). -/

/-- The port as which a writer acts; a boot record and JTAG use port A's own copies (log 26). -/
def writerPort : Writer → Port
  | .host p => p
  | .record | .jtag => .A

/-- The core whose vault a writer's window shows. -/
def Dev.windowCore (s : Dev) (w : Writer) (q : Nat) : Nat :=
  let i := s.regN (pra (writerPort w) (vqPg q) 0x100) % 256
  168 * q + (if i < 168 then i else 0)

/-- The window write is refused: the core belongs to a partition of the other port (R368). -/
def Dev.windowDenied (s : Dev) (w : Writer) (n : Nat) : Bool :=
  match w with
  | .host p => decide (s.corePart n < 12) && s.ptPort (s.corePart n) != p
  | .record | .jtag => false

/-- VC_RESULT of a writer. -/
def Dev.vcResult (s : Dev) (w : Writer) (q r : Nat) : Dev :=
  let s1 := s.setReg (pra (writerPort w) (vqPg q) 0x10C) (w32 r)
  if r = 0 then s1 else s1.evt (vqPg q) 6

/-- A stream of the partition runs. -/
def Dev.partRuns (s : Dev) (P : Nat) : Bool :=
  decide (P < 12) && (s.coresOf P).any fun n => (s.core n).running

/-- VC_CMD WIPE (R354). -/
def Dev.vcWipe (s : Dev) (w : Writer) (q : Nat) : Dev :=
  let n := s.windowCore w q
  let v := (s.core n).vault
  if s.windowDenied w n then s.vcResult w q 1
  else if s.partRuns (s.corePart n) then s.vcResult w q 2
  else if v.wiping || v.selfRefresh then s.vcResult w q 3
  else (s.modVault n fun v => { v with wiping := true }).vcResult w q 0

/-- WIPE. -/
def execWipe (w : Writer) (q : Nat) (s : State) : Host.Outcome State Fault Refusal :=
  .next (s.onDev fun d => d.regAccess w (vqPg q) fun d => d.vcWipe w q)

/-- Bank rows a wipe of the vault clears (R354). -/
def Vault.wipeRows (v : Vault) : Nat := 12288 * (4 - popTo 4 v.retired.toNat)

/-- The vault with every valid bit cleared outside retired pseudo-channels; the banks of the others close (R340). -/
def Vault.wiped (v : Vault) : Vault :=
  let keep (i : Nat) : Bool := v.retired.getLsbD (pcOf (8 * i))
  { v with mem := v.mem.filter fun p => keep p.1, wb := v.wb.filter fun p => keep p.1
           openRow := v.openRow.filter fun p => v.retired.getLsbD (p.1 / 16), wiping := false }

/-- WIPE_DONE (R354): the wipe follows every request accepted before it. -/
def Dev.vcWipeDone (s : Dev) (n : Nat) : Dev :=
  let v := (s.core n).vault
  if v.wiping && v.pend.isEmpty then
    ((s.modVault n Vault.wiped).bump (vqPg (quarterOf n)) 8 v.wipeRows).evt (vqPg (quarterOf n)) 7
  else s

/-- WIPE_DONE. -/
def execWipeDone (core : Nat) (s : State) : Host.Outcome State Fault Refusal :=
  .next (s.onVault core fun d => d.vcWipeDone core)

/-- VC_CMD RETIRE (R360, R368). -/
def Dev.vcRetire (s : Dev) (w : Writer) (q pc : Nat) : Dev :=
  let n := s.windowCore w q
  if s.windowDenied w n then s.vcResult w q 1
  else (s.retirePc n (pc % 4)).vcResult w q 0

/-- VC_CMD with a CMD that does nothing (R368, R370): it has its outcome too. -/
def Dev.vcNone (s : Dev) (w : Writer) (q : Nat) : Dev :=
  s.vcResult w q (if s.windowDenied w (s.windowCore w q) then 1 else 0)

/-- RETIRE. -/
def execRetire (w : Writer) (q pc : Nat) (s : State) : Host.Outcome State Fault Refusal :=
  .next (s.onDev fun d => d.regAccess w (vqPg q) fun d => d.vcRetire w q pc)

/-- The vault with every valid bit of tier `t` cleared. -/
def Vault.tierCleared (v : Vault) (t : Nat) : Vault :=
  { v with
    mem := mclear v.mem (t * 0x600000) ((t + 1) * 0x600000)
    wb := v.wb.filter fun p => p.1 / 0x600000 != t
    openRow := mclear v.openRow (32 * t) (32 * t + 32) }

/-- A bit of eight cleared. -/
def clr8 (v : BitVec 8) (k : Nat) : BitVec 8 := v &&& ~~~BitVec.ofNat 8 (2 ^ k)
/-- A bit of eight set. -/
def set8 (v : BitVec 8) (k : Nat) : BitVec 8 := v ||| BitVec.ofNat 8 (2 ^ k)

/-- The tier of a quarter reads as zero (R355). -/
def Dev.clearTier (s : Dev) (q t : Nat) : Dev :=
  ((upFrom (168 * q) 168).foldl (fun (s : Dev) n => s.modVault n fun v => v.tierCleared t) s).bump (vqPg q) 8 4128768

/-- TIER_CLEAR_DONE (R355). -/
def Dev.tierClearDone (s : Dev) (q t : Nat) : Dev :=
  let k := 2 * q + t
  if s.power.clearing.getLsbD k then
    let s1 := s.clearTier q t
    { s1 with power := { s1.power with clearing := clr8 s1.power.clearing k } }.evt (vqPg q) 9
  else s

/-- TIER_CLEAR_DONE. -/
def execTierClearDone (q t : Nat) (s : State) : Host.Outcome State Fault Refusal :=
  .next (s.onDev fun d => d.tierClearDone q t)

/-- A window write acts, unless refused (R368). -/
def Dev.windowWrite (s : Dev) (w : Writer) (q : Nat) (f : Dev → Nat → Dev) : Dev :=
  let n := s.windowCore w q
  if s.windowDenied w n then s.evt (vqPg q) 6 else f s n

/-- A write of VC_FLIP_CHK (R364). -/
def Dev.vcFlipArm (s : Dev) (w : Writer) (q : Nat) (v : Word) : Dev :=
  s.windowWrite w q fun s n =>
    s.setReg (vra n 0x138) ((v &&& 0x8000FFFF#32) ||| (s.reg (vra n 0x138) &&& 0x80000000#32))

/-- VC_FLIP_ARM. -/
def execVcFlipArm (w : Writer) (q : Nat) (v : Word) (s : State) : Host.Outcome State Fault Refusal :=
  .next (s.onDev fun d => d.regAccess w (vqPg q) fun d => d.vcFlipArm w q v)

/-! Critical words (R361 to R365). -/

/-- CRIT_PATROL (R363). -/
def Dev.critPatrol (s : Dev) : Dev :=
  if tb (s.regN (ra critPg 0x10C)) 31 then
    (s.crit.foldl (fun (s : Dev) p => s.critRepair p.1 p.2) s).bump critPg 1 1
  else s

/-- CRIT_PATROL. -/
def execCritPatrol (s : State) : Host.Outcome State Fault Refusal := .next (s.onDev Dev.critPatrol)

/-- A write of CRIT_FLIP_SEL (R365); with NOW set, the armed flip acts on the copy as it stands. -/
def Dev.critFlipArm (s : Dev) (v : Word) : Dev :=
  let k := ra critPg 0x104
  let x := (v &&& 0xFF00FFFF#32) ||| (s.reg k &&& 0x80000000#32)
  let s1 := s.setReg k x
  let c := if fld x.toNat 24 4 < 4 then fld x.toNat 24 4 else 0
  let w := fld x.toNat 0 16
  if x.getLsbD 31 && x.getLsbD 30 && decide (w < critWords c) then
    let m := s.reg (ra critPg 0x108)
    let t := s.tri c w
    let t1 : Tri := match fld x.toNat 28 2 with
      | 1 => { t with b := t.b ^^^ m }
      | 2 => { t with c := t.c ^^^ m }
      | _ => { t with a := t.a ^^^ m }
    (((s1.setTri c w t1).setReg k (x &&& 0x7FFFFFFF#32)).bump critPg 2 1).evt critPg 1
  else s1

/-- CRIT_FLIP_ARM. -/
def execCritFlipArm (w : Writer) (v : Word) (s : State) : Host.Outcome State Fault Refusal :=
  .next (s.onDev fun d => d.regAccess w critPg fun d => d.critFlipArm v)

end Sys2Proof.Machine
end

