-- ==== Sys2Proof/Machine/Lookups.lean ====
section
/-! DEFINITION. Translation walks of a core (R434 to R436), run-ahead fetches (R295), and the Block Owner Table with
its registers (R289 to R293, R304). -/
namespace Sys2Proof.Machine
open Sys2Proof

/-! Walks. -/

/-- The engine of a core that waits for a walk, and the address it waits for. -/
def Core.walker (c : Core) : Option (Nat × Nat × Bool) :=
  (upFrom 0 3).findSome? fun eng => match c.headJob eng with
    | some j => match j.wait with
      | .walk va w => some (eng, va, w)
      | _ => none
    | none => none

/-- The walk a core's engine waits for takes place (R434, R436): the page enters the cache and the engine goes on,
or the access faults (R297). -/
def Dev.coreWalk (s : Dev) (n : Nat) (late : Option Nat) : Dev :=
  match (s.core n).walker with
  | none => s
  | some (eng, a, write) =>
    let P := s.corePart n
    let r := s.walk P (a % 2 ^ 48 % s.window P) late
    match r.1 with
    | .hold => s
    | .page e => ((r.2.modCore n fun c => { c with xl := xlPut c.xl e }).modJob n eng fun j => { j with wait := .none }).advance n eng
    | .unmapped lvl poison => r.2.jobFault n eng 0x38 2 a lvl write poison
    | .absent lvl => r.2.jobFault n eng 0x3B 2 a lvl write false
    | .timeout lvl => (r.2.walkLate P true r.1).jobFault n eng 0x3D 2 a lvl write false

/-! Run-ahead fetches (R295). -/

/-- A dropped run-ahead fetch. -/
def Dev.runaheadDrop (s : Dev) (n : Nat) : Dev := (s.bump (corePg n 3) 7 1).evt (corePg n 3) 5

/-- A walk ahead of consumption. -/
def Dev.aheadWalk (s : Dev) (n a : Nat) (late : Option Nat) : Dev :=
  let P := s.corePart n
  let va := a % s.window P
  if 12 ≤ P ∨ (xlFind (s.core n).xl false va).isSome then s
  else
    let r := s.walk P va late
    match r.1 with
    | .hold => s
    | .page e => (r.2.modCore n fun c => { c with xl := xlPut c.xl e }).bump (corePg n 3) 5 1
    | _ => ((r.2.walkLate P false r.1).bump (corePg n 3) 5 1).runaheadDrop n

/-- A run-ahead request of the core, when a slot and a tag are free (R284, R310). -/
def Dev.aheadAsk (s : Dev) (n : Nat) (p : Packet) (g : Nat) (line : Option Nat) : Dev :=
  match (s.core n).askHold n p.dst p.addr p.info, (s.core n).freeTag with
  | none, some t => s.request n t 5 p 3 g 0 false line
  | _, _ => s

/-- A line fetched ahead, which a miss on the line before it has asked for (R294). It is dropped where the block has no
speculation (R295). -/
def Dev.aheadLine (s : Dev) (n g : Nat) (x : XlEntry) : Dev :=
  let e := x.entry.toNat
  let line := g / 256
  if !(s.core n).frcNext.elem line || s.frcLines n == 0 then s
  else
    let done (s : Dev) : Dev := s.modCore n fun c => { c with frcNext := c.frcNext.filter (· != line) }
    if !tb e 0 || tb e 2 || tb e 3 then done s
    else
      let r := s.resolve n 3 (256 * line) false
      match r, s.reachEp n r with
      | .rank _ _ _, none => (done s).runaheadDrop n
      | _, some (dst, a, info) =>
        if dst = n ∨ ((s.core n).askHold n dst a info).isSome then s
        else (done s).aheadAsk n { cls := .rdReq, vc := 1, dst := dst, src := n, addr := a, len := 256, info := info } (256 * line) (some line)
      | _, none => s

/-- The address, with its kind, that side `side` of an engine's instruction (source and destination of a DMA, linear and
table side of a gather) comes to `k` units on from where it stands; also beyond its end. -/
def Core.streamAt (c : Core) (j : Job) (side : Bool) (k : Nat) : Option (Nat × Nat) :=
  let v := j.v
  match j.kind with
  | .imem => if side then none else some (2, j.src + (if j.strm = .X then 16 else 8) * (j.pos + k))
  | .dma | .dmat =>
    match j.geo.elems (j.pos + k) with
    | e :: _ => if side then some (j.geo.dk, (j.geo.dstAt e).row.el) else some (j.geo.sk, (j.geo.srcAt e).row.el)
    | [] => none
  | .gat | .sct =>
    if side then
      let x := (lspBytes (gListAt v j.sadd (j.pos + k)) 4).foldr (fun b acc => rdBytes c.spRd b 1 + 256 * acc) 0
      if x = 0xFFFFFFFF then none else some (fld v 152 2, gTable v x)
    else some (fld v 242 2, gLinear v (j.pos + k))

/-- The pages or blocks, `size` bytes each, that the addresses from unit `k` on come to: the first three, the one the
instruction stands in first. -/
def pagesFrom (at_ : Nat → Option Nat) (size : Nat) : Nat → Nat → List Nat → List Nat
  | 0, _, l => l
  | fuel + 1, k, l =>
    if 3 ≤ l.length then l
    else match at_ k with
      | some a => pagesFrom at_ size fuel (k + 1) (if l.elem (a / size) then l else l ++ [a / size])
      | none => pagesFrom at_ size fuel (k + 1) l

/-- The address lies in one of the next two pages or blocks along the address stream of an engine that works (R295). The
pages are of the size of the one the engine stands in, 64 KiB where that is not known (log 57). -/
def Dev.onStream (s : Dev) (n : Nat) (glb : Bool) (a : Nat) : Bool :=
  let c := s.core n
  let w := s.window (s.corePart n)
  let one (j : Job) (side : Bool) : Bool :=
    let at_ (k : Nat) : Option Nat := match c.streamAt j side k with
      | some (kind, x) =>
        if glb && kind == 3 then some (s.globalOf n x) else if !glb && kind == 2 then some (x % 2 ^ 48 % w) else none
      | none => none
    let size := if glb then 2 ^ 21 else match at_ 0 with
      | some x => ((xlFind c.xl false x).map (·.size)).getD 0x10000
      | none => 0x10000
    ((pagesFrom at_ size (2 ^ 20) 0 []).drop 1).elem (a / size)
  (upFrom 0 3).any fun eng => match c.headJob eng with
    | some j => j.active && (one j false || one j true)
    | none => false

/-- RUNAHEAD_FETCH: a walk or a lookup ahead of an engine of the core, or the fetch of a line. -/
def Dev.runahead (s : Dev) (n : Nat) (glb : Bool) (a : Nat) (late : Option Nat) : Dev :=
  let c := s.core n
  let P := s.corePart n
  if !glb then (if s.onStream n false (a % s.window P) then s.aheadWalk n a late else s)
  else
    let blocks := (s.botRange P).2
    if 12 ≤ P ∨ blocks = 0 then s
    else
      let g := s.globalOf n a
      match xlFind c.xl true g with
      | some x => s.aheadLine n g x
      | none =>
        let e := (s.botRange P).1 + g / 2 ^ 21
        if (c.reqs.any fun r => r.cls == .lookup && r.addr == e && !r.stale) || !s.onStream n true g || c.freeTag.isNone then s
        else (s.aheadAsk n { cls := .lookup, vc := 1, dst := epBot (if e < 65536 then 0 else 1), src := n, addr := e }
          (g / 2 ^ 21 * 2 ^ 21) none).bump (corePg n 3) 6 1

/-- RUNAHEAD_FETCH. -/
def execRunaheadFetch (core : Nat) (glb : Bool) (addr : BitVec 48) (late : Option Nat) (s : State) : Host.Outcome State Fault Refusal :=
  .next (s.onCore core fun d => d.runahead core glb addr.toNat late)

/-! The Block Owner Table. -/

/-- A lookup arriving at S1 or S2 is answered with the entry (R292). -/
def Dev.botLookup (s : Dev) (k : Nat) (u : Upset) : Dev :=
  s.deliver k .lookup u fun s p =>
    let h := p.dst - epBot 0
    if s.power.spineOff.getLsbD (1 + h) then .wait
    else .took ((s.inject (respond p .rdRsp 0 [⟨w64 (s.botEntry p.addr), false⟩] [])).bump (0xD01 + h) 0 1)

/-- LOOKUP. -/
def execLookup (k : Nat) (s : State) (u : Upset := {}) : Host.Outcome State Fault Refusal := .next (s.onDev fun d => d.botLookup k u)

/-- A Block Owner Table entry installed in a core's translation cache (R292, R436). -/
def botXl (g : Nat) (e : DWord) : XlEntry :=
  { glb := true, base := g, size := 2 ^ 21, addr := 0, write := e.getLsbD 4, nospec := e.getLsbD 2, entry := e }

/-- The result of the last access of the table's registers by a port (R304). -/
def Dev.botResult (s : Dev) (p : Port) (r : Nat) : Dev := s.setReg (pra p botPg 0x10C) (w32 r)

/-- IDX of a port's selection moves on where AUTOINC is set. -/
def Dev.botInc (s : Dev) (p : Port) : Dev :=
  let v := s.regN (pra p botPg 0x100)
  if tb v 27 then s.setFld (pra p botPg 0x100) 0 17 (v % 2 ^ 17 + 1) else s

/-- The table entry a port's selection names, or the result that refuses it: DENIED, RANGE, BUSY (R293, R304). -/
def Dev.botTarget (s : Dev) (p : Port) : Except Nat Nat :=
  let v := s.regN (pra p botPg 0x100)
  let P := fld v 28 4
  let i := v % 2 ^ 17
  let r := s.botRange P
  if s.shoot.isSome then .error 3
  else if 12 ≤ P ∨ s.ptState P = 0 ∨ s.ptPort P ≠ p then .error 1
  else if r.2 ≤ i then .error 2
  else .ok (r.1 + i)

/-- A write of BOT_DATA_LO (R304). -/
def Dev.botLo (s : Dev) (p : Port) (v : Word) : Dev :=
  if s.shoot.isSome then s.botResult p 3 else (s.setReg (pra p botPg 0x104) v).botResult p 0

/-- A write of BOT_DATA_HI commits the entry (R293) and starts its shoot-down: a multicast to every core of the
partition. -/
def Dev.botHi (s : Dev) (p : Port) (v : Word) : Dev :=
  let sel := s.regN (pra p botPg 0x100)
  let P := fld sel 28 4
  let i := sel % 2 ^ 17
  match s.botTarget p with
  | .error r => ((if r = 1 then s.bump botPg 3 1 else s).botResult p r).botInc p
  | .ok e =>
    let s1 := { s with bot := mset (fun _ => 0#64) s.bot e (v ++ s.reg (pra p botPg 0x104)), shoot := some (P, [i]) }
    ((((s1.inject { cls := .mcWr, vc := 3, dst := 0, src := epBot 0, op := 1, info := [i], targets := s.coresOf P, named := s.coresOf P }).bump
      botPg 1 1).bump botPg 2 1).botResult p 0).botInc p

/-- BOT_DATA_LO. -/
def execBotDataLo (w : Writer) (v : Word) (s : State) : Host.Outcome State Fault Refusal :=
  .next (s.onDev fun d => d.regAccess w botPg fun d => d.botLo (writerPort w) v)
/-- BOT_DATA_HI. -/
def execBotDataHi (w : Writer) (v : Word) (s : State) : Host.Outcome State Fault Refusal :=
  .next (s.onDev fun d => d.regAccess w botPg fun d => d.botHi (writerPort w) v)

/-- A shoot-down reaches a core: its copy of block `i`'s entry and that block's cached lines go, and an answer on its way
with the old entry, or with a line of the old owner, installs neither (R293, R294). -/
def Core.shootDown (c : Core) (i : Nat) : Core :=
  let old (r : Req) : Bool := (r.cls == .lookup && r.gaddr == i * 2 ^ 21) || (r.line.map (· / 8192)) == some i
  { c with
    xl := c.xl.filter fun e => !(e.glb && e.base == i * 2 ^ 21)
    frc := c.frc.filter fun p => p.1 / 8192 != i
    frcNext := c.frcNext.filter fun l => l / 8192 != i
    reqs := c.reqs.map fun r => if old r then { r with stale := true } else r }

/-- SHOOTDOWN_DONE (R293): BUSY falls once no copy of the multicast, nor its acknowledgement, is on its way. -/
def Dev.shootDone (s : Dev) : Dev :=
  if s.net.any fun p => (p.cls == .mcWr && p.src == epBot 0) || (p.cls == .mcAck && p.dst == epBot 0) then s
  else { s with shoot := none }

/-- SHOOTDOWN_DONE. -/
def execShootdownDone (s : State) : Host.Outcome State Fault Refusal := .next (s.onDev Dev.shootDone)

end Sys2Proof.Machine
end

