-- ==== Sys2Proof/Machine/Wire.lean ====
section
/-! DEFINITION. What stands on a link's wires, byte by byte: transport messages (R382), native flits (R375), Ethernet frames
(R379, R380), and their check sums. -/
namespace Sys2Proof.Machine
open Sys2Proof

/-! Check sums. Of CRC-32C and of the FCS the model takes the usual form: reflected, with all ones before and after
(PRESUMED, log 59). -/

/-- `n` steps of a reflected CRC. -/
def crcBits (poly : Nat) : Nat → Nat → Nat
  | 0, a => a
  | n + 1, a => crcBits poly n (if a % 2 = 1 then (a / 2) ^^^ poly else a / 2)

/-- A CRC of 32 bits over bytes. -/
def crcOf (poly : Nat) (l : List Byte) : Nat := (l.foldl (fun a b => crcBits poly 8 (a ^^^ b.toNat)) 0xFFFFFFFF) ^^^ 0xFFFFFFFF

/-- CRC-32C (R375, R382). -/
def crc32c (l : List Byte) : Nat := crcOf 0x82F63B78 l

end Sys2Proof.Machine

namespace Sys2Proof
open Sys2Proof.Machine

/-! Transport messages (R382). -/

/-- Bytes of payload: a read request's LEN counts what it asks for (R383). -/
def Msg.payLen (m : Msg) : Nat := if m.ty = 0 then 0 else m.len

/-- A word of the payload is poisoned. -/
def Msg.pois (m : Msg) : Bool := m.words.any (·.poison)

/-- The poison map: bit j of its bytes, from the least significant of the first, for word j (log 59). -/
def Msg.map (m : Msg) : List Byte :=
  if m.pois then leBytes (4 * cdiv m.words.length 32) (bitsNat (m.words.map (·.poison))) else []

/-- The payload, in memory byte order. -/
def Msg.payload (m : Msg) : List Byte := (m.words.flatMap fun w => leBytes 8 w.data.toNat).take m.payLen

/-- The header with the CRC given. -/
def Msg.head (m : Msg) (crc : Nat) : List Byte :=
  beBytes 1 (16 + m.ty.toNat) ++ beBytes 1 (fields [(7, b2n m.mark), (6, b2n m.pois), (5, b2n m.last), (4, b2n m.ece), (0, m.op.toNat)])
    ++ beBytes 2 m.job.toNat ++ beBytes 2 (m.hops.toNat * 4096 + m.srank.toNat) ++ beBytes 2 (m.code.toNat * 4096 + m.drank.toNat)
    ++ beBytes 3 m.psn.toNat ++ beBytes 3 m.apsn.toNat ++ beBytes 2 m.rtag.toNat ++ beBytes 6 m.addr.toNat ++ beBytes 2 m.len
    ++ beBytes 4 m.welt.toNat ++ beBytes 4 crc

/-- The message on the wire. -/
def Msg.bytes (m : Msg) : List Byte := m.head (crc32c (m.head 0 ++ m.map ++ m.payload)) ++ m.map ++ m.payload

/-- The message that bytes spell: none where the version, the type, the length or the CRC is wrong (R382, R383). -/
def msgOf (l : List Byte) : Option Msg :=
  let n (i k : Nat) : Nat := beNat ((l.drop i).take k)
  let ty := n 0 1 % 16
  let fl := n 1 1
  let len := n 22 2
  let pay := if ty = 0 then 0 else len
  let count := cdiv pay 8
  let pm := if tb fl 6 then 4 * cdiv count 32 else 0
  if l.length = 32 + pm + pay ∧ n 0 1 / 16 = 1 ∧ ty < 14 ∧ len ≤ 4096 ∧ n 28 4 = crc32c (l.take 28 ++ [0, 0, 0, 0] ++ l.drop 32) then
    some {
      ty := BitVec.ofNat 4 ty
      mark := tb fl 7, last := tb fl 5, ece := tb fl 4, op := BitVec.ofNat 4 fl
      job := BitVec.ofNat 16 (n 2 2)
      hops := BitVec.ofNat 4 (n 4 2 / 4096), srank := BitVec.ofNat 12 (n 4 2)
      code := BitVec.ofNat 4 (n 6 2 / 4096), drank := BitVec.ofNat 12 (n 6 2)
      psn := BitVec.ofNat 24 (n 8 3), apsn := BitVec.ofNat 24 (n 11 3)
      rtag := BitVec.ofNat 16 (n 14 2), addr := BitVec.ofNat 48 (n 16 6), len := len
      welt := w32 (n 24 4)
      words := (upFrom 0 count).map fun i =>
        { data := w64 (leNat ((l.drop (32 + pm + 8 * i)).take 8)), poison := tb (leNat ((l.drop 32).take pm)) i } }
  else none

/-! Native flits (R375). -/

/-- Bytes 0 to 251; the header is big-endian (DESIGN CHOICE, log 59). -/
def Flit.bytes (f : Flit) : List Byte :=
  beBytes 8 (fields [(62, f.lvc.toNat), (60, f.ty.toNat), (48, f.seq.toNat), (36, f.ack.toNat), (35, b2n f.nak), (27, f.cr0.toNat),
    (19, f.cr1.toNat), (11, f.len.toNat), (10, b2n f.som), (9, b2n f.eom)])
    ++ f.payload.take 244 ++ List.replicate (244 - f.payload.length) 0

/-- The flit with its CRC. -/
def Flit.seal (f : Flit) : Flit := { f with crc := w32 (crc32c f.bytes) }

/-- The CRC of a received flit is right. -/
def Flit.crcOk (f : Flit) : Bool := f.crc.toNat == crc32c f.bytes

/-- Control messages travel on LVC0 (R375). -/
def isControl (ty : Nat) : Bool := ty == 5 || ty == 6 || decide (8 ≤ ty ∧ ty ≤ 13)

/-- The flits of a message, as they wait to be sent. -/
def Msg.cut (m : Msg) : List Flit :=
  let b := m.bytes
  let n := cdiv b.length 244
  (upFrom 0 n).map fun i =>
    let p := (b.drop (244 * i)).take 244
    { lvc := if isControl m.ty.toNat then 0 else 1, len := BitVec.ofNat 8 p.length, som := i == 0, eom := i + 1 == n, payload := p }

/-! Ethernet frames (R379, R380). -/

/-- The UDP header and payload. -/
def Frame.udp (f : Frame) (sum : Nat) : List Byte :=
  beBytes 2 f.sport.toNat ++ beBytes 2 f.dport.toNat ++ beBytes 2 (8 + f.body.length) ++ beBytes 2 sum ++ f.body

/-- The IPv6 header. -/
def Frame.ip (f : Frame) : List Byte :=
  beBytes 4 (6 * 2 ^ 28 + f.tclass.toNat * 2 ^ 20 + f.flow.toNat) ++ beBytes 2 (8 + f.body.length) ++ [f.nextHeader, f.hopLimit]
    ++ beBytes 16 f.srcIp.toNat ++ beBytes 16 f.dstIp.toNat

/-- The frame up to its FCS. -/
def Frame.bytes (f : Frame) : List Byte :=
  beBytes 6 f.dstMac.toNat ++ beBytes 6 f.srcMac.toNat ++ (f.tags.flatMap fun t => beBytes 2 0x8100 ++ beBytes 2 t.toNat)
    ++ beBytes 2 f.etherType.toNat ++ if f.etherType = 0x86DD then f.ip ++ f.udp f.sum.toNat else f.body

/-- The FCS, the CRC-32 of IEEE 802.3. -/
def Frame.fcsOf (f : Frame) : Nat := crcOf 0xEDB88320 f.bytes

/-- Bytes as words of 16 bits, added; an odd one is followed by zero. -/
def sum16 : List Byte → Nat
  | a :: b :: l => 256 * a.toNat + b.toNat + sum16 l
  | [a] => 256 * a.toNat
  | [] => 0

/-- The UDP checksum over the IPv6 pseudo-header: ones' complement, never zero. -/
def Frame.sumOf (f : Frame) : Nat :=
  let t := sum16 (beBytes 16 f.srcIp.toNat ++ beBytes 16 f.dstIp.toNat ++ beBytes 4 (8 + f.body.length) ++ [0, 0, 0, f.nextHeader]
    ++ f.udp 0) % 65535
  65535 - t

/-- The frame with its checksum and its FCS. -/
def Frame.seal (f : Frame) : Frame :=
  let g := { f with sum := BitVec.ofNat 16 f.sumOf }
  { g with fcs := w32 g.fcsOf }

/-- Congestion was experienced: ECN 3 (R386). -/
def Frame.ce (f : Frame) : Bool := f.etherType == 0x86DD && f.tclass.toNat % 4 == 3

/-- A frame of priority-based flow control (R379): its bits and its pause time for a priority. -/
def Frame.pfc (f : Frame) (prio : Nat) : Option (Bool × Nat) :=
  if f.dstMac = 0x0180C2000001 ∧ f.etherType = 0x8808 ∧ f.tags = [] ∧ beNat (f.body.take 2) = 0x0101 then
    some (tb (beNat ((f.body.drop 2).take 2)) prio, beNat ((f.body.drop (4 + 2 * prio)).take 2))
  else none

end Sys2Proof
end

