-- ==== Sys2Proof/Machine/Links.lean ====
section
/-! DEFINITION. Link ports (R373 to R396): lanes and training, native flits, Ethernet frames, the device transport and
remote accesses. -/
namespace Sys2Proof.Machine
open Sys2Proof

/-! Modes and lanes. -/

/-- LNK_CTL of a port. -/
def Dev.lnkCtl (s : Dev) (k : Nat) : Nat := s.regN (ra (linkPg k) 0x100)
/-- MODE of a port (R373): 0 off, 1 native, 2 and 3 Ethernet. -/
def Dev.linkMode (s : Dev) (k : Nat) : Nat := s.lnkCtl k % 4

/-- The lowest aligned set of `size` lanes from lane `base` of `n` that holds no retired lane. -/
def laneSetOf (retired base n size : Nat) : Option (Nat × Nat) :=
  (((upFrom 0 (n / size)).map fun i => base + size * i).find? fun b => (upFrom b size).all fun l => !tb retired l).map
    fun b => (b, size)

/-- The lanes a port or sub-port trains at (R395): the widest set without a retired lane. -/
def laneSet (retired base n : Nat) : Option (Nat × Nat) :=
  [8, 4, 2, 1].findSome? fun z => if z ≤ n then laneSetOf retired base n z else none

/-- Lane `b` to `b + z - 1` as a mask. -/
def laneMask (r : Nat × Nat) : Nat := (2 ^ r.2 - 1) * 2 ^ r.1

/-- What the lanes of a port come up as in its mode, with those that the peer tells it are retired there (R395): the mask of
lanes and of sub-ports. -/
def Dev.lanesUp (s : Dev) (k : Nat) (peer : Byte) : Nat × Nat :=
  let r := ((s.link k).retired ||| peer).toNat
  let m (o : Option (Nat × Nat)) : Nat := (o.map laneMask).getD 0
  if s.linkMode k = 3 then
    let a := laneSet r 0 4
    let b := laneSet r 4 4
    (m a + m b, b2n a.isSome + 2 * b2n b.isSome)
  else
    let a := laneSet r 0 8
    (m a, b2n a.isSome)

/-- The port comes up with the lanes it has, or stays down (R395). -/
def Dev.linkTrained (s : Dev) (k : Nat) (peer : Byte) (subs : Nat) : Dev :=
  let z := s.lanesUp k peer
  let keep := if s.linkMode k = 3 then z.2 &&& subs else z.2
  let lanes := if s.linkMode k = 3 then (if tb keep 0 then z.1 % 16 else 0) + (if tb keep 1 then z.1 / 16 * 16 else 0) else z.1
  s.modLink k fun l => { l with
    st := if keep = 0 then .down else .up
    subUp := BitVec.ofNat 2 (if s.linkMode k = 3 then keep else 0)
    active := BitVec.ofNat 8 lanes
    width := popTo 8 lanes }

/-- A retrain begins (R378): nothing is sent or taken until it ends. -/
def Dev.retrain (s : Dev) (k : Nat) : Dev :=
  if (s.link k).st = .up then
    ((s.modLink k fun l => { l with st := .retraining, replays := 0 }).bump (linkPg k) 6 1).evt (linkPg k) 2
  else s

/-- RETRAIN (R378). -/
def execRetrain (k : Nat) (s : State) : Host.Outcome State Fault Refusal := .next (s.onDev fun d => d.retrain k)

/-- A lane is retired (R394, R395): the port retrains without it. -/
def Dev.retireLane (s : Dev) (k lane : Nat) : Dev :=
  if (s.link k).retired.getLsbD lane ∨ 8 ≤ lane then s
  else ((s.modLink k fun l => { l with retired := set8 l.retired lane }).evt (linkPg k) 3).retrain k

/-- A write of LNK_RETIRE. -/
def Dev.lnkRetire (s : Dev) (k : Nat) (v : Word) : Dev :=
  (upFrom 0 8).foldl (fun (s : Dev) l => if v.getLsbD l then s.retireLane k l else s) s

/-- LNK_RETIRE (R394). -/
def execLnkRetire (w : Writer) (k : Nat) (v : Word) (s : State) : Host.Outcome State Fault Refusal :=
  .next (s.onDev fun d => d.regAccess w (linkPg k) fun d => d.lnkRetire k v)

/-- A lane became bad: it is retired, or THRESH tells of it (R394). -/
def Dev.badLane (s : Dev) (k lane : Nat) : Dev :=
  if tb (s.regN (ra (linkPg k) 0x10C)) 0 then s.retireLane k lane else s.evt (linkPg k) 4

/-- An active lane loses lock (R377, R394): counted, the lane becomes bad at the threshold, the port retrains. -/
def Dev.lossOfLock (s : Dev) (k lane : Nat) : Dev :=
  if (s.link k).st = .up ∧ lane < 8 ∧ (s.link k).active.getLsbD lane then
    let key := ra (linkPg k) 0x118
    let c := satAdd 15 (fld (s.regN key) (4 * lane) 4) 1
    let thr := min 15 (fld (s.regN (ra (linkPg k) 0x10C)) 8 8)
    let s1 := s.setFld key (4 * lane) 4 c
    let s2 := if 0 < thr ∧ c = thr ∧ fld (s.regN key) (4 * lane) 4 < thr then
        s1.badLane k lane
      else s1
    s2.retrain k
  else s

/-- LOSS_OF_LOCK. -/
def execLossOfLock (k lane : Nat) (s : State) : Host.Outcome State Fault Refusal := .next (s.onDev fun d => d.lossOfLock k lane)

/-- A lane window ends (R394): `syms` are the symbols the FEC corrected on each lane in it, `lost` the codewords it could not
correct. A lane over the symbol threshold is bad (DESIGN CHOICE, log 37: as the window ends), and the counts restart. -/
def Dev.laneWindowEnd (s : Dev) (k : Nat) (syms : List Nat) (lost : Nat) : Dev :=
  let pg := linkPg k
  let thr := 1024 * s.regN (ra pg 0x114)
  let s1 := (s.bump pg 2 (syms.take 8).sum).bump pg 3 lost
  let s2 := (upFrom 0 8).foldl (fun (s : Dev) i =>
    if 0 < thr ∧ thr < lget 0 syms i ∧ !(s.link k).retired.getLsbD i then s.badLane k i else s) s1
  s2.setReg (ra pg 0x118) 0

/-- LANE_WINDOW_END. -/
def execLaneWindowEnd (k : Nat) (s : State) (syms : List Nat := []) (lost : Nat := 0) : Host.Outcome State Fault Refusal :=
  .next (s.onDev fun d => d.laneWindowEnd k syms lost)

/-! Native flits (R375 to R377). -/

/-- Credits that a flit may return now: of LVC0 in flits, of LVC1 in units of 4. -/
def Link.credits (l : Link) : Nat × Nat := (min l.owe0 255, min (l.owe1 / 4) 255)

/-- What a flit of the port says of its receiving side: the last SEQ accepted, and the credits it returns. -/
def Link.stamp (l : Link) (f : Flit) : Flit :=
  { f with ack := BitVec.ofNat 12 l.rxSeq, cr0 := BitVec.ofNat 8 l.credits.1, cr1 := BitVec.ofNat 8 l.credits.2 }

/-- The port after a flit that returned credits and acknowledged. -/
def Link.told (l : Link) : Link := { l with owe0 := l.owe0 - l.credits.1, owe1 := l.owe1 - 4 * l.credits.2, ackDue := false }

/-- An idle flit leaves (R375). -/
def Dev.idleFlit (s : Dev) (k : Nat) (nak : Bool) : Dev :=
  (s.emit (.flit k ((s.link k).stamp { ty := 1, nak := nak }).seal)).modLink k Link.told

/-- A waiting flit may leave: a credit of its channel, and room in the retry buffer (R376, R377). -/
def Link.maySend (l : Link) (f : Flit) : Bool :=
  decide (0 < if f.lvc = 0 then l.cr0 else l.cr1) && decide (l.retry.length < 1536)

/-- The first waiting flit that may leave, in the order of its channel; the channels go by the order in which their messages
came (DESIGN CHOICE, log 37). -/
def Link.nextFlit (l : Link) : Option (Nat × Flit × Nat) :=
  (upFrom 0 l.txf.length).findSome? fun i => match l.txf[i]? with
    | some x => if l.maySend x.1 && (l.txf.take i).all (fun y => y.1.lvc != x.1.lvc) then some (i, x) else none
    | none => none

/-- A message flit leaves under the next SEQ and is kept until it is acknowledged (R377). -/
def Dev.sendFlit (s : Dev) (k i : Nat) (x : Flit × Nat) : Dev :=
  let l := s.link k
  let f := ({ l.stamp x.1 with seq := BitVec.ofNat 12 l.txSeq } : Flit).seal
  let one (c : BitVec 2) : Nat := b2n (x.1.lvc == c)
  ((s.emit (.flit k f)).modLink k fun l => { l.told with
    txf := ldel l.txf i
    txSeq := (l.txSeq + 1) % 4096
    retry := l.retry ++ [f]
    cr0 := l.cr0 - one 0
    cr1 := l.cr1 - one 1 }).bump (linkPg k) 0 x.2

/-- A native port sends what it can; `fuel` bounds the flits. -/
def Dev.nativePump (s : Dev) (k : Nat) : Nat → Dev
  | 0 => s
  | f + 1 =>
    if (s.link k).st ≠ .up then s
    else match (s.link k).nextFlit with
      | none => s
      | some (i, x) => (s.sendFlit k i x).nativePump k f

/-- The port owes its peer an acknowledgement, or credits. -/
def Link.owes (l : Link) : Bool := l.ackDue || l.credits.1 != 0 || l.credits.2 != 0

/-- A native port sends what it can, and what it then still owes in an idle flit. -/
def Dev.nativeGo (s : Dev) (k : Nat) : Dev :=
  let s1 := s.nativePump k (s.link k).txf.length
  if (s1.link k).st = .up ∧ (s1.link k).owes then s1.idleFlit k false else s1

/-- The unacknowledged flits leave again, each as it was but for its ACK (R377). -/
def Dev.resend (s : Dev) (k : Nat) : Dev :=
  let l := s.link k
  { s with out := s.out ++ l.retry.map fun f => .flit k ({ f with ack := BitVec.ofNat 12 l.rxSeq } : Flit).seal }

/-- A replay (R377); the sixteenth without progress starts a retrain. -/
def Dev.replay (s : Dev) (k : Nat) : Dev :=
  let l := s.link k
  if l.st ≠ .up ∨ l.retry.isEmpty then s
  else
    let s1 := ((s.resend k).bump (linkPg k) 5 1).modLink k fun l => { l with replays := l.replays + 1 }
    if 16 ≤ l.replays + 1 then s1.retrain k else s1

/-- Flits acknowledged up to `ack` leave the retry buffer; progress clears the count of replays. -/
def Link.acked (l : Link) (ack : BitVec 12) : Link :=
  match l.retry.findIdx? fun f => f.seq == ack with
  | some i => { l with retry := l.retry.drop (i + 1), replays := 0 }
  | none => l

/-- REPLAY_TIMEOUT (R377). -/
def execReplayTimeout (k : Nat) (s : State) : Host.Outcome State Fault Refusal :=
  .next (s.onDev fun d => if d.linkMode k = 1 then d.replay k else d)

/-! Ethernet frames and connections (R379 to R386). -/

/-- The interface a message to a rank uses (R380). -/
def Dev.subOf (s : Dev) (k srank drank : Nat) : Nat :=
  if s.linkMode k = 3 then
    let u := (s.link k).subUp.toNat
    if u = 3 then (srank + drank) % 2 else if u = 2 then 1 else 0
  else 0

/-- A MAC address held in a pair of registers. -/
def Dev.mac (s : Dev) (k ofs u : Nat) : Nat :=
  s.regN (ra (linkPg k) (ofs + 16 * u)) + 2 ^ 32 * s.regN (ra (linkPg k) (ofs + 4 + 16 * u))

/-- JOB, RANK and NRANKS of a partition (R389). -/
def Dev.job (s : Dev) (P : Nat) : Nat := fld (s.regN (ra (netPg P) 0x100)) 16 16
/-- RANK. -/
def Dev.rank (s : Dev) (P : Nat) : Nat := fld (s.regN (ra (netPg P) 0x100)) 0 12
/-- NRANKS. -/
def Dev.nranks (s : Dev) (P : Nat) : Nat := s.regN (ra (netPg P) 0x104)

/-- A message from partition `P` to a rank. -/
def Dev.newMsg (s : Dev) (P drank ty : Nat) : Msg :=
  { ty := BitVec.ofNat 4 ty, job := BitVec.ofNat 16 (s.job P), srank := BitVec.ofNat 12 (s.rank P), drank := BitVec.ofNat 12 drank }

/-- NET_PREFIX of a partition (R380, R416). -/
def Dev.prefix (s : Dev) (P : Nat) : Nat :=
  s.regN (ra (netPg P) 0x110) + 2 ^ 32 * s.regN (ra (netPg P) 0x114) + 2 ^ 64 * s.regN (ra (netPg P) 0x118)

/-- The frame that carries a message of partition `P` (R380). -/
def Dev.frameOf (s : Dev) (k P : Nat) (m : Msg) : Frame :=
  let a := m.srank.toNat
  let b := m.drank.toNat
  let u := s.subOf k a b
  let ctl := s.lnkCtl k
  let udp := s.regN (ra (netPg P) 0x10C)
  let ip (r : Nat) : BitVec 128 := BitVec.ofNat 128 (s.prefix P * 2 ^ 32 + r * 16 + 2 * k + u)
  ({ sub := u
     dstMac := BitVec.ofNat 48 (s.mac k 0x128 u), srcMac := BitVec.ofNat 48 (s.mac k 0x120 u)
     tags := if tb ctl 9 then [BitVec.ofNat 16 (fld ctl 22 3 * 2 ^ 13 + fld ctl 10 12)] else []
     tclass := BitVec.ofNat 8 (fld udp 18 6 * 4 + if tb ctl 25 then 2 else 0)
     flow := BitVec.ofNat 20 (b * 256 + a % 256)
     hopLimit := BitVec.ofNat 8 (fld udp 24 8)
     srcIp := ip (s.rank P), dstIp := ip b
     sport := BitVec.ofNat 16 (0xC000 + a % 0x4000), dport := BitVec.ofNat 16 udp
     body := m.bytes } : Frame).seal

/-- A frame leaves (R380), unless the port retrains or is paused: then it waits (R378, R379). -/
def Dev.emitFrame (s : Dev) (k P : Nat) (m : Msg) : Dev :=
  let f := s.frameOf k P m
  let s1 := if (s.link k).st = .up ∧ !(s.link k).paused then s.emit (.frame k f)
    else s.modLink k fun l => { l with frames := l.frames ++ [f] }
  s1.bump (linkPg k) 0 (cdiv m.payLen 256)

/-- Frames held back leave, where nothing holds them any more. -/
def Dev.flushFrames (s : Dev) (k : Nat) : Dev :=
  let l := s.link k
  if l.st = .up ∧ !l.paused then { s with out := s.out ++ l.frames.map fun f => Out.frame k f }.modLink k fun l => { l with frames := [] } else s

/-- The connection of a partition and a peer (R384). -/
def Link.conn (l : Link) (P peer : Nat) : Option Conn := l.conns.find? fun c => c.part == P && c.peer == peer

/-- A connection replaced; the most recently used stands first. -/
def Link.setConn (l : Link) (c : Conn) : Link :=
  { l with conns := c :: l.conns.filter fun d => !(d.part == c.part && d.peer == c.peer) }

/-- A connection may be evicted (R385). -/
def Conn.idle (c : Conn) : Bool := c.unacked.isEmpty && c.queue.isEmpty && c.owed == 0 && !c.resync

/-- Room for one more connection: the one idle longest goes where 1,024 are cached; none where none may go. -/
def Link.room (l : Link) : Option Link :=
  if l.conns.length < 1024 then some l
  else (l.conns.reverse.find? Conn.idle).map fun c => { l with conns := l.conns.erase c }

/-- A connection sends what its window lets it (R386); `fuel` bounds the packets. -/
def Dev.connPump (s : Dev) (k P peer : Nat) : Nat → Dev
  | 0 => s
  | f + 1 =>
    match (s.link k).conn P peer with
    | none => s
    | some c =>
      match c.queue with
      | [] => s
      | m :: rest =>
        if c.resync || decide (c.wnd ≤ c.unacked.length) then s
        else
          let m1 := { m with psn := BitVec.ofNat 24 c.tx }
          ((s.modLink k fun l => l.setConn { c with
            queue := rest, tx := (c.tx + 1) % 2 ^ 24, unacked := c.unacked ++ [(c.tx, 1, m1)] }).emitFrame k P m1).connPump k P peer f

/-- RESYNC with a code, to a peer. -/
def Dev.resyncMsg (s : Dev) (P peer code : Nat) : Msg := { s.newMsg P peer 13 with code := BitVec.ofNat 4 code }

/-- A message to a peer over its connection, which a first RESYNC opens (R385); none where no connection may be
evicted. -/
def Dev.connSend (s : Dev) (k P : Nat) (m : Msg) : Option Dev :=
  let peer := m.drank.toNat
  match (s.link k).conn P peer with
  | some c => some ((s.modLink k fun l => l.setConn { c with queue := c.queue ++ [m] }).connPump k P peer (c.queue.length + 1))
  | none => ((s.link k).room).map fun l =>
      let r := s.resyncMsg P peer 0
      (s.modLink k fun _ => l.setConn { part := P, peer := peer, resync := true, unacked := [(0, 1, r)], queue := [m] }).emitFrame k P r

/-- A message of partition `P` leaves by port `k`, or waits there: in native mode as flits, of which the last has the units that
the message counts. -/
def Dev.sendMsg (s : Dev) (k P : Nat) (m : Msg) : Dev :=
  if s.linkMode k = 1 then
    let s1 := s.modLink k fun l => { l with txf := l.txf ++ m.cut.map fun f => (f, if f.eom then cdiv m.payLen 256 else 0) }
    s1.nativePump k (s1.link k).txf.length
  else if s.linkMode k = 0 then s
  else (s.connSend k P m).getD (s.modLink k fun l => { l with txq := l.txq ++ [m] })

/-- Ethernet messages that waited for a connection try again. -/
def Dev.ethRetry (s : Dev) (k : Nat) (part : Msg → Nat) : Nat → Dev
  | 0 => s
  | f + 1 => match (s.link k).txq with
    | [] => s
    | m :: rest => match s.connSend k (part m) m with
      | some t => (t.modLink k fun l => { l with txq := rest }).ethRetry k part f
      | none => s

/-! What arrives. -/

/-- A frame or message dropped (R381, R385, R393). -/
def Dev.rxDrop (s : Dev) (k : Nat) : Dev := (s.bump (linkPg k) 9 1).evt (linkPg k) 7

/-- The partition, READY or RELEASING, of a job: the one of that rank, where several are of the job. -/
def Dev.jobPart (s : Dev) (job rank : Nat) : Option Nat :=
  let l := (upFrom 0 Config.parts).filter fun P => decide (2 ≤ s.ptState P) && s.job P == job
  match l.find? fun P => s.rank P == rank with
  | some P => some P
  | none => l.head?

/-- Bytes of an element of a collective's OP (R397). -/
def collSize (op : Nat) : Nat := if op = 5 then 8 else 4

/-- The welt of a payload (R401). -/
def weltOf (op : Nat) (words : List PWord) (len : Nat) : Nat :=
  let z := collSize op
  let v := words.foldr (fun (w : PWord) (acc : Nat) => w.data.toNat + 2 ^ 64 * acc) 0
  let sum := (upFrom 0 (len / z)).foldl (fun (a : Int) i =>
    a + (if op = 12 then (fld v (8 * z * i) (8 * z) : Int) else sfld v (8 * z * i) (8 * z))) 0
  (sum % (0x7FFFFFFF : Int)).toNat

/-- Words of a collective entry, committed at 512 + 16 e + w, as written at 16 e + w. -/
def Part.collWord (p : Part) (e w : Nat) : Nat := (mget (fun _ => 0#32) p.coll (512 + 16 * e + w)).toNat
/-- The committed entry as a number (R397). -/
def Part.entry (p : Part) (e : Nat) : Nat := (upFrom 0 16).foldr (fun w acc => p.collWord e w + 2 ^ 32 * acc) 0

/-- OP of an entry's elements: those of ALLGATHER are U32 words. -/
def collOp (v : Nat) : Nat := if fld v 1 2 = 2 then 12 else fld v 3 4

/-- A COLL_DATA message whose welt does not fit its payload (R401). -/
def Dev.badWelt (s : Dev) (P : Nat) (m : Msg) : Bool :=
  let v := (s.part P).entry (fld m.addr.toNat 43 5)
  m.ty == 7 && tb v 0 && m.welt.toNat != weltOf (collOp v) m.words m.len

/-- A failed receipt check. -/
def Dev.weltErr (s : Dev) (k : Nat) : Dev := (s.bump (linkPg k) 14 1).evt (linkPg k) 6

/-- A message waits to be handled. -/
def Dev.rxPut (s : Dev) (k : Nat) (x : RxMsg) : Dev :=
  (s.modLink k fun l => { l with rx := l.rx ++ [x] }).bump (linkPg k) 1 (cdiv x.msg.payLen 256)

/-- Flits of a channel in the receive buffer (R376). -/
def Link.stored (l : Link) (c : Nat) : Nat :=
  (if c = 0 then l.asm0 else l.asm1).length + ((l.rx.filter fun x => isControl x.msg.ty.toNat == (c == 0)).map (·.flits)).sum

/-- Flits of a channel leave the receive buffer: their credits are owed. -/
def Link.freed (l : Link) (c n : Nat) : Link := if c = 0 then { l with owe0 := l.owe0 + n } else { l with owe1 := l.owe1 + n }

/-- The flits of a whole message have been received (R375): it waits to be handled, or is dropped where it is none. -/
def Dev.flitsIn (s : Dev) (k c : Nat) (fs : List Flit) : Dev :=
  let bad (s : Dev) : Dev := (s.rxDrop k).modLink k fun l => l.freed c fs.length
  let whole := (fs.zip (upFrom 0 fs.length)).all fun x => x.1.som == (x.2 == 0)
  match msgOf (fs.flatMap fun f => f.payload.take f.len.toNat) with
  | some m => if whole && isControl m.ty.toNat == (c == 0) then s.rxPut k { msg := m, flits := fs.length } else bad s
  | none => bad s

/-- A message flit that follows the last one accepted is taken into the buffer of its channel. -/
def Dev.flitTake (s : Dev) (k : Nat) (f : Flit) : Dev :=
  let c := f.lvc.toNat
  let l := s.link k
  let fs := (if c = 0 then l.asm0 else l.asm1) ++ [f]
  let keep := if f.eom then [] else fs
  let s1 := s.modLink k fun l =>
    let l1 := { l with rxSeq := f.seq.toNat, ackDue := true, cr0 := l.cr0 + f.cr0.toNat, cr1 := l.cr1 + 4 * f.cr1.toNat }
    if c = 0 then { l1 with asm0 := keep } else { l1 with asm1 := keep }
  if f.eom then s1.flitsIn k c fs else s1

/-- A native flit arrives (R375 to R377). A message flit that does not follow the last one accepted is discarded, and so are one
for which the receive buffer has no place and a flit of a reserved channel or type; of a message flit that is discarded only ACK
and NAK count (DESIGN CHOICE, log 37). -/
def Dev.nativeFlit (s : Dev) (k : Nat) (f : Flit) : Dev :=
  let l := s.link k
  let c := f.lvc.toNat
  if s.linkMode k ≠ 1 ∨ l.st ≠ .up then s
  else if !f.crcOk then (s.bump (linkPg k) 4 1).idleFlit k true
  else if 1 < c ∨ 1 < f.ty.toNat then s
  else
    let s1 := s.modLink k fun l => l.acked f.ack
    let s2 := if f.nak then s1.replay k else s1
    let s3 :=
      if f.ty = 1 then s2.modLink k fun l => { l with cr0 := l.cr0 + f.cr0.toNat, cr1 := l.cr1 + 4 * f.cr1.toNat }
      else if f.seq.toNat = (l.rxSeq + 1) % 4096 ∧ l.stored c < (if c = 0 then 64 else 1024) then s2.flitTake k f
      else s2
    s3.nativeGo k

/-- NATIVE_FLIT. -/
def execNativeFlit (k : Nat) (f : Flit) (s : State) : Host.Outcome State Fault Refusal := .next (s.onDev fun d => d.nativeFlit k f)

/-- The partition a frame is accepted for, and the message in it (R381). -/
def Dev.frameFor (s : Dev) (k : Nat) (f : Frame) : Option (Nat × Msg) :=
  match msgOf f.body with
  | none => none
  | some m =>
    let ok (P : Nat) : Bool := decide (2 ≤ s.ptState P) && s.job P == m.job.toNat && f.dstIp.toNat / 2 ^ 32 == s.prefix P
      && f.dstIp.toNat % 2 ^ 32 / 16 == s.rank P && f.dport.toNat == fld (s.regN (ra (netPg P) 0x10C)) 0 16
    if f.dstMac.toNat = s.mac k 0x120 f.sub ∧ f.etherType = 0x86DD ∧ f.tags.length ≤ 1 ∧ f.nextHeader = 17 ∧ f.sum.toNat = f.sumOf then
      ((upFrom 0 Config.parts).find? ok).map fun P => (P, m)
    else none

/-- A cumulative acknowledgement, or a request to resend, leaves (R384). -/
def Dev.sendAck (s : Dev) (k : Nat) (c : Conn) (ty : Nat) : Dev :=
  let m := { s.newMsg c.part c.peer ty with apsn := BitVec.ofNat 24 ((c.rx + 2 ^ 24 - 1) % 2 ^ 24), ece := c.ece && ty == 5 }
  (s.modLink k fun l => l.setConn (if ty = 5 then { c with owed := 0, ece := false } else { c with nakked := true })).emitFrame k c.part m

/-- An accepted frame's message meets its connection (R384 to R386). One TNAK asks for a packet until it comes (DESIGN CHOICE,
log 38). -/
def Dev.ethTake (s : Dev) (k P : Nat) (m : Msg) (ce : Bool) : Dev :=
  let peer := m.srank.toNat
  let ty := m.ty.toNat
  if ty = 5 ∨ ty = 6 ∨ ty = 13 then s.rxPut k { msg := m, part := some P }
  else match (s.link k).conn P peer with
    | none =>
      let r := s.resyncMsg P peer 0
      match (s.link k).room with
      | none => s.rxDrop k
      | some l => ((s.modLink k fun _ => l.setConn { part := P, peer := peer, resync := true, unacked := [(0, 1, r)] }).rxDrop k).emitFrame k P r
    | some c =>
      if c.resync then s.rxDrop k
      else if s.badWelt P m then s.weltErr k
      else
        let d := (m.psn.toNat + 2 ^ 24 - c.rx) % 2 ^ 24
        if d = 0 then
          let c1 := { c with rx := (c.rx + 1) % 2 ^ 24, owed := c.owed + 1, ece := c.ece || (ce && tb (s.lnkCtl k) 25), nakked := false }
          let s1 := (s.modLink k fun l => l.setConn c1).rxPut k { msg := m, part := some P }
          if c1.owed = 8 then s1.sendAck k c1 5 else s1
        else if d < 2 ^ 23 then (if c.nakked then s else s.sendAck k c 6)
        else s.sendAck k c 5

/-- A frame that pauses the port's priority, or lets it go on (R379). -/
def Dev.pfcIn (s : Dev) (k : Nat) (x : Bool × Nat) : Dev :=
  if x.1 then (s.modLink k fun l => { l with paused := x.2 != 0 }).flushFrames k else s

/-- A pause has run out (DESIGN CHOICE, log 37: at the port's next timer). -/
def Dev.unpause (s : Dev) (k : Nat) : Dev := (s.modLink k fun l => { l with paused := false }).flushFrames k

/-- An Ethernet frame arrives (R379, R381). -/
def Dev.ethFrame (s : Dev) (k : Nat) (f : Frame) : Dev :=
  let l := s.link k
  let here := l.st == .up && if s.linkMode k = 2 then f.sub == 0 else s.linkMode k == 3 && tb l.subUp.toNat f.sub
  if !here then s
  else if f.fcs.toNat ≠ f.fcsOf ∨ 9216 < f.bytes.length + 4 then s.rxDrop k
  else match f.pfc (fld (s.lnkCtl k) 6 3) with
    | some x => if tb (s.lnkCtl k) 5 then s.pfcIn k x else s.rxDrop k
    | none =>
      let s1 := if f.ce then s.bump (linkPg k) 11 1 else s
      match s1.frameFor k f with
      | none => s1.rxDrop k
      | some (P, m) => s1.ethTake k P m f.ce

/-- ETH_FRAME. -/
def execEthFrame (k : Nat) (f : Frame) (s : State) : Host.Outcome State Fault Refusal := .next (s.onDev fun d => d.ethFrame k f)

/-! Handling a received message. -/

/-- A result code sent back to who asked, by the port the request came through (R387). -/
def Dev.codeBack (s : Dev) (k P : Nat) (m : Msg) (code : Nat) : Dev :=
  let r : Msg := { ty := if m.ty = 0 then 1 else 4, job := m.job, srank := m.drank, drank := m.srank, rtag := m.rtag,
                   code := BitVec.ofNat 4 code }
  s.sendMsg k P r

/-- The output port of a rank in a partition's route table (R393). -/
def Dev.routeOf (s : Dev) (P rank : Nat) : Option Nat :=
  let e := (mget (fun _ => 0#4) (s.part P).routes rank).toNat
  if tb e 3 then some (e % 8) else none

/-- A native message for another rank goes on its way (R393): it crosses the Harness to the other port's router, with a header
flit and its payload (log 37), and leaves there. -/
def Dev.transit (s : Dev) (k P : Nat) (m : Msg) : Dev :=
  if m.hops = 0 then s.rxDrop k
  else match s.routeOf P m.drank.toNat with
    | none => s.rxDrop k
    | some j => ((s.bump (linkPg k) 10 1).hops (1 + cdiv m.payLen 32) (route (meshPod (epLink k) 0) (meshPod (epLink j) 0))).sendMsg j P
        { m with hops := m.hops - 1 }

/-- Which received messages wait for one another: in native mode those of a channel, in Ethernet mode those that a connection
numbers. -/
def rxLane (mode ty : Nat) : Bool := if mode = 1 then isControl ty else ty == 5 || ty == 6 || ty == 13

/-- The oldest received message of its kind, when it is of this type, and its place. -/
def Dev.rxFront (s : Dev) (k ty : Nat) : Option (Nat × RxMsg) :=
  let l := (s.link k).rx
  let lane (x : RxMsg) : Bool := rxLane (s.linkMode k) x.msg.ty.toNat
  match l.findIdx? fun x => lane x == rxLane (s.linkMode k) ty with
  | none => none
  | some i => match l[i]? with
    | some x => if x.msg.ty.toNat = ty then some (i, x) else none
    | none => none

/-- The partition that a received message is for: of its frame's address (R381), or of its job (R391). -/
def Dev.rxPart (s : Dev) (x : RxMsg) : Option Nat :=
  match x.part with
  | some P => some P
  | none => s.jobPart x.msg.job.toNat x.msg.drank.toNat

/-- The oldest received message of a port is handled, when it is of this type: for the partition of its job; what
finds none, or one that is being released, is answered with CODE 1 or dropped (R387, R431). Its flits leave the receive buffer
(R376). -/
def Dev.onRx (s : Dev) (k ty : Nat) (f : Dev → Nat → Msg → Dev) : Dev :=
  match s.rxFront k ty with
  | none => s
  | some (i, x) =>
    let m := x.msg
    let s1 := s.modLink k fun l => { l.freed (b2n (!isControl ty)) x.flits with rx := ldel l.rx i }
    let asks := m.ty == 0 || m.ty == 2 || m.ty == 3
    let s2 := match s.rxPart x with
      | none => if asks then s1.codeBack k 0 m 1 else s1.rxDrop k
      | some P =>
        if m.drank.toNat ≠ s.rank P then
          (if s.linkMode k = 1 then s1.transit k P m else if asks then s1.codeBack k P m 1 else s1.rxDrop k)
        else if s.ptState P ≠ 2 then (if asks then s1.codeBack k P m 1 else s1.rxDrop k)
        else f s1 P m
    if x.flits = 0 then s2 else s2.nativeGo k

/-! Remote accesses (R389 to R392). -/

/-- The bytes a list of masked writes writes: address, value, poison. -/
def writtenBytes (ws : List WWrite) : List (Nat × Nat × Bool) :=
  ws.flatMap fun w => ((upFrom 0 8).filter fun b => fld w.mask.toNat (8 * b) 8 != 0).map fun b =>
    (w.addr + b, fld (w.data &&& w.mask).toNat (8 * b) 8, w.poison)

/-- Bytes from `lo` as payload words. -/
def payloadOf (lo len : Nat) (bs : List (Nat × Nat × Bool)) : List PWord :=
  (upFrom 0 (cdiv len 8)).map fun i =>
    let mine := bs.filter fun b => decide (lo + 8 * i ≤ b.1 ∧ b.1 < lo + 8 * i + 8)
    { data := w64 ((mine.map fun b => b.2.1 * 2 ^ (8 * (b.1 - lo - 8 * i))).sum), poison := mine.any fun b => b.2.2 }

/-- The transport message of a core's request, and whether it reads. -/
def Dev.accessMsg (s : Dev) (P : Nat) (p : Packet) (rtag : Nat) : Msg :=
  let bs := writtenBytes p.writes
  let lo := match bs with
    | b :: _ => b.1
    | [] => p.addr
  let hi := match bs.getLast? with
    | some b => b.1 + 1
    | none => p.addr + p.len
  let at_ (a : Nat) : BitVec 48 := BitVec.ofNat 48 (a / 2 ^ 27 * 2 ^ 38 + a % 2 ^ 27)
  let base := { s.newMsg P (lget 0 p.info 0) (if p.cls = .rdReq then 0 else if p.cls = .rwReq then 3 else 2) with
    rtag := BitVec.ofNat 16 rtag, op := BitVec.ofNat 4 p.op, mark := p.mark }
  if p.cls = .rdReq then { base with addr := at_ p.addr, len := p.len }
  else { base with addr := at_ lo, len := hi - lo, words := payloadOf lo (hi - lo) bs }

/-- A core's request at link port `k` (R390): it becomes a transport message, or is answered ABSENT; while the port retrains
it waits (R378). -/
def Dev.remoteAt (s : Dev) (k : Nat) (p : Packet) : Taken :=
  let P := s.corePart p.src
  let l := s.link k
  let far := lget 0 p.info 0
  if P ≥ 12 ∨ l.st = .down ∨ l.st = .training ∨ s.nranks P ≤ s.rank P ∨ (s.linkMode k = 1 ∧ s.routeOf P far = none) then
    .took { s with net := s.net ++ answers p .err errAbsent }
  else if l.st = .retraining then .wait
  else
    let t := l.nextTag
    let s2 := s.modLink k fun l => { l with
      nextTag := (t + 1) % 65536
      waits := l.waits ++ [{ rtag := t, part := P, rank := far, core := p.src, epoch := p.epoch, tag := p.tag, read := p.cls == .rdReq }] }
    .took ((s2.bump (netPg P) (if p.cls = .rdReq then 8 else 9) 1).sendMsg k P (s.accessMsg P p t))

/-- REMOTE_ACCESS: the packet of the Harness at a link port. -/
def Dev.remoteAccess (s : Dev) (idx : Nat) (u : Upset) : Dev :=
  match s.net[idx]? with
  | none => s
  | some r =>
    if r.cls ≠ .rdReq ∧ r.cls ≠ .wrReq ∧ r.cls ≠ .rwReq then s
    else s.deliver idx r.cls u fun s p => if 0x400 ≤ p.dst ∧ p.dst < 0x408 then s.remoteAt (p.dst - 0x400) p else .wait

/-- REMOTE_ACCESS. -/
def execRemoteAccess (k : Nat) (s : State) (u : Upset := {}) : Host.Outcome State Fault Refusal :=
  .next (s.onDev fun d => d.remoteAccess k u)

/-- The number payload words spell. -/
def payloadNat (ws : List PWord) : Nat := ws.foldr (fun (w : PWord) (acc : Nat) => w.data.toNat + 2 ^ 64 * acc) 0

/-- Writes that put `len` bytes of a payload at byte `lo`, poisoned where the payload is (R388). -/
def payloadWrites (lo len : Nat) (ws : List PWord) : List WWrite :=
  (bytesTo lo len (payloadNat ws)).map fun w =>
    { w with poison := (upFrom 0 ws.length).any fun i =>
        (lget {} ws i).poison && decide (w.addr < lo + 8 * i + 8) && decide (lo + 8 * i < w.addr + 8) }

/-- A request of another part is issued to the target core (R391), under tag `t`. -/
def Dev.serve (s : Dev) (k t P : Nat) (m : Msg) : Dev :=
  let a := m.addr.toNat
  let cs := s.ptCores P
  let n := cs.1 + fld a 38 10 % cs.2
  let ofs := fld a 0 27
  let s1 := s.modLink k fun l => { l with
    tags := l.tags ++ [t]
    serves := l.serves ++ [{ tag := t, part := P, rank := m.srank.toNat, rtag := m.rtag.toNat, read := m.ty == 0 }] }
  let addr := if tb a 37 then spadAddr n (ofs % 2 ^ 20) else vaultAddr n ofs
  let p : Packet := { cls := if m.ty = 0 then .rdReq else if m.ty = 3 then .rwReq else .wrReq,
                      vc := if m.ty = 3 then 3 else 1, dst := n, src := epLink k, tag := t, addr := addr, len := m.len }
  s1.inject (if m.ty = 0 then p else { p with op := m.op.toNat, mark := m.mark, writes := payloadWrites addr m.len m.words })

/-- A request of a type is served; it waits at the port while that has no free tag. -/
def Dev.onServe (s : Dev) (k ty : Nat) : Dev :=
  match lowTag (s.link k).tags.elem with
  | none => s
  | some t => s.onRx k ty fun d P m => d.serve k t P m

/-- TRANSPORT_RD_REQ (R391). -/
def execTransportRdReq (k : Nat) (s : State) : Host.Outcome State Fault Refusal := .next (s.onDev fun d => d.onServe k 0)
/-- TRANSPORT_WR (R391). -/
def execTransportWr (k : Nat) (s : State) : Host.Outcome State Fault Refusal := .next (s.onDev fun d => d.onServe k 2)
/-- TRANSPORT_RW (R391). -/
def execTransportRw (k : Nat) (s : State) : Host.Outcome State Fault Refusal := .next (s.onDev fun d => d.onServe k 3)

/-- An answer of the Harness to a served request goes back to the requester (R387); `code` 0 for data or an
acknowledgement. -/
def Dev.serveBack (s : Dev) (k : Nat) (v : RServe) (code : Nat) (data : List PWord) : Dev :=
  let s1 := s.modLink k fun l => { l with serves := l.serves.filter fun x => x.tag != v.tag }
  s1.sendMsg k v.part { s.newMsg v.part v.rank (if v.read then 1 else 4) with
    rtag := BitVec.ofNat 16 v.rtag, code := BitVec.ofNat 4 code, len := 8 * data.length, words := data }

/-- The answer to a remote access reaches the requesting core (R387, R392). -/
def Dev.accessBack (s : Dev) (k : Nat) (read : Bool) (m : Msg) : Dev :=
  match (s.link k).waits.find? fun w => w.rtag == m.rtag.toNat && w.read == read && w.rank == m.srank.toNat with
  | none => s
  | some w =>
    let s1 := s.modLink k fun l => { l with waits := l.waits.filter fun x => x.rtag != w.rtag }
    let r : Packet := { cls := .err, vc := 2, dst := w.core, src := epLink k, epoch := w.epoch, tag := w.tag, code := errAbsent }
    if m.code ≠ 0 then (s1.bump (netPg w.part) 10 1).inject r
    else s1.inject (if read then { r with cls := .rdRsp, code := 0, data := m.words, len := m.len } else { r with cls := .wrAck, code := 0 })

/-- TRANSPORT_RD_RSP (R387). -/
def execTransportRdRsp (k : Nat) (s : State) : Host.Outcome State Fault Refusal :=
  .next (s.onDev fun d => d.onRx k 1 fun d _ m => d.accessBack k true m)
/-- DONE (R392). -/
def execDone (k : Nat) (s : State) : Host.Outcome State Fault Refusal :=
  .next (s.onDev fun d => d.onRx k 4 fun d _ m => d.accessBack k false m)

/-! Acknowledgements, retransmission, restart (R384 to R386). -/

/-- PSN `p` is acknowledged by `a`. -/
def psnDone (a p : Nat) : Bool := decide ((a + 2 ^ 24 - p) % 2 ^ 24 < 2 ^ 23)

/-- The window halves, to no less than 4 (R386). -/
def Conn.halve (c : Conn) : Conn := { c with wnd := max 4 (c.wnd / 2) }

/-- A TACK (R384, R386). -/
def Dev.tackIn (s : Dev) (k P : Nat) (m : Msg) : Dev :=
  match (s.link k).conn P m.srank.toNat with
  | none => s
  | some c =>
    if c.resync then s
    else
      let rest := c.unacked.filter fun u => !psnDone m.apsn.toNat u.1
      let moved := decide (rest.length < c.unacked.length)
      let c1 := { c with unacked := rest }
      let c2 := if m.ece && tb (s.lnkCtl k) 25 then (if c.halved then c1 else { c1.halve with halved := true })
        else if moved then { c1 with wnd := min 256 (c1.wnd + 1), halved := false } else c1
      let s1 := s.modLink k fun l => l.setConn c2
      (s1.connPump k P m.srank.toNat c2.queue.length).ethRetry k (fun m => (s.jobPart m.job.toNat m.srank.toNat).getD 0) (s.link k).txq.length

/-- TACK. -/
def execTack (k : Nat) (s : State) : Host.Outcome State Fault Refusal := .next (s.onDev fun d => d.onRx k 5 fun d P m => d.tackIn k P m)

/-- A TNAK: what follows APSN is sent again (R384). -/
def Dev.tnakIn (s : Dev) (k P : Nat) (m : Msg) : Dev :=
  match (s.link k).conn P m.srank.toNat with
  | none => s
  | some c =>
    if c.resync then s
    else
      let rest := c.unacked.filter fun u => !psnDone m.apsn.toNat u.1
      let c1 := { c with unacked := rest }
      let c2 := if rest.isEmpty || c.halved then c1 else { c1.halve with halved := true }
      rest.foldl (fun (s : Dev) u => (s.emitFrame k P u.2.2).bump (linkPg k) 7 1) (s.modLink k fun l => l.setConn c2)

/-- TNAK. -/
def execTnak (k : Nat) (s : State) : Host.Outcome State Fault Refusal := .next (s.onDev fun d => d.onRx k 6 fun d P m => d.tnakIn k P m)

/-- TACK_TIMER (R384). -/
def Dev.tackTimer (s : Dev) (k peer P : Nat) : Dev :=
  match (s.link k).conn P peer with
  | some c => if 0 < c.owed then s.sendAck k c 5 else s
  | none => s

/-- TACK_TIMER. -/
def execTackTimer (k peer part : Nat) (s : State) : Host.Outcome State Fault Refusal :=
  .next (s.onDev fun d => (d.unpause k).tackTimer k peer part)

/-- An unacknowledged packet is sent again at its time, at most five times in all (R384). -/
def Dev.retransmit (s : Dev) (k peer P psn : Nat) : Dev :=
  match (s.link k).conn P peer with
  | none => s
  | some c => match c.unacked.find? fun u => u.1 == psn with
    | none => s
    | some (_, t, m) =>
      if 5 ≤ t then s
      else
        let c1 := { c with unacked := c.unacked.map fun u => if u.1 = psn then (psn, t + 1, m) else u }
        ((s.modLink k fun l => l.setConn (if c.halved then c1 else { c1.halve with halved := true })).emitFrame k P m).bump (linkPg k) 7 1

/-- RETRANSMIT. -/
def execRetransmit (k peer part : Nat) (s : State) (psn : Nat := 0) : Host.Outcome State Fault Refusal :=
  .next (s.onDev fun d => (d.unpause k).retransmit k peer part psn)

/-- RESYNC (R385): a request restarts both numberings and is answered; an answer lets what waits go out. -/
def Dev.resyncIn (s : Dev) (k P : Nat) (m : Msg) : Dev :=
  let peer := m.srank.toNat
  let old := (s.link k).conn P peer
  if m.code = 0 then
    let again := match old with
      | some c => (if c.resync then [] else c.unacked.map fun u => u.2.2) ++ c.queue
      | none => []
    match (if old.isSome then some (s.link k) else (s.link k).room) with
    | none => s.rxDrop k
    | some l =>
      let s1 := s.modLink k fun _ => l.setConn { part := P, peer := peer, queue := again }
      (s1.emitFrame k P (s.resyncMsg P peer 1)).connPump k P peer again.length
  else match old with
    | some c =>
      if c.resync then
        (s.modLink k fun l => l.setConn { c with resync := false, unacked := [], tx := 0, rx := 0 }).connPump k P peer c.queue.length
      else s
    | none => s

/-- RESYNC. -/
def execResync (k : Nat) (s : State) : Host.Outcome State Fault Refusal := .next (s.onDev fun d => d.onRx k 13 fun d P m => d.resyncIn k P m)

/-! Modes (R374) and the end of training. -/

/-- A partition names the port in NET_PORTS or in a valid collective entry (R374). -/
def Dev.portNamed (s : Dev) (k : Nat) : Bool :=
  (upFrom 0 Config.parts).any fun P =>
    let v := s.regN (ra (netPg P) 0x108)
    s.ptState P != 0 && (tb v k || fld v 8 3 == k || (upFrom 0 32).any fun e =>
      let c := (s.part P).entry e
      tb c 0 && fld c 7 3 == k)

/-- A port in a newly set mode: off, or training anew. -/
def Link.fresh (l : Link) (mode : Nat) : Link :=
  { st := if mode = 0 then .down else .training, retired := l.retired, waits := l.waits,
    serves := l.serves, nextTag := l.nextTag, tags := l.tags }

/-- Fields of LNK_CTL that a write sets. -/
def lnkCtlMask : Nat := 0x3FFFFF3

/-- A write of LNK_CTL (R374, R414): a refused change of MODE leaves the register as it was. -/
def Dev.lnkCtlWrite (s : Dev) (k : Nat) (v : Word) : Dev :=
  let pg := linkPg k
  let key := ra pg 0x100
  let w := if s.locked pg then s.regN key else v.toNat &&& lnkCtlMask
  let mode := w % 4
  if mode = s.linkMode k then
    let s1 := s.setReg key (w32 w)
    if v.getLsbD 3 then s1.retrain k else s1
  else if s.portNamed k then s.evt pg 8
  else
    let s1 := (s.setReg key (w32 w)).modLink k fun l => l.fresh mode
    if (s.link k).st = .down ∨ (s.link k).st = .training then s1 else s1.evt pg 1

/-- MODE_CHANGE. -/
def execModeChange (w : Writer) (k : Nat) (v : Word) (s : State) : Host.Outcome State Fault Refusal :=
  .next (s.onDev fun d => d.regAccess w (linkPg k) fun d => d.lnkCtlWrite k v)

/-- A retrain ends (R378, R395), the peer having told which lanes are retired there: the port is up at the width that is left and
sends what it held back, in native mode the retry buffer first, or it stays down. -/
def Dev.retrainDone (s : Dev) (k : Nat) (peer : Byte) : Dev :=
  if (s.link k).st ≠ .retraining then s
  else
    let s1 := s.linkTrained k peer 3
    if (s1.link k).st ≠ .up then s1.evt (linkPg k) 1
    else if s.linkMode k = 1 then (s1.resend k).nativeGo k
    else s1.flushFrames k

/-- RETRAIN_DONE. -/
def execRetrainDone (k : Nat) (s : State) (peer : Byte := 0) : Host.Outcome State Fault Refusal := .next (s.onDev fun d => d.retrainDone k peer)

/-- The first training of a port, or of a sub-port in mode 3, ends (R374, R395). -/
def Dev.trainingDone (s : Dev) (k sub : Nat) (peer : Byte) : Dev :=
  let l := s.link k
  let two := s.linkMode k == 3
  if !(l.st == .training || (two && l.st != .retraining && !tb l.subUp.toNat (sub % 2))) || s.linkMode k == 0
      || s.power.linkOff.getLsbD k then s
  else
    let s1 := s.linkTrained k peer (l.subUp.toNat ||| 2 ^ (sub % 2))
    if (s1.link k).st = .up then (if s.linkMode k = 1 then (s1.evt (linkPg k) 0).nativeGo k else s1.evt (linkPg k) 0) else s1

/-- TRAINING_DONE. -/
def execTrainingDone (k sub : Nat) (s : State) (peer : Byte := 0) : Host.Outcome State Fault Refusal :=
  .next (s.onDev fun d => d.trainingDone k sub peer)

end Sys2Proof.Machine
end

