-- ==== Sys2Proof/Machine/LossScale.lean ====
section
/-! DEFINITION. The loss-scale state of a partition (R237 to R244, R263 to R265). -/
namespace Sys2Proof.Machine
open Sys2Proof

/-- EXP (R263). -/
def Dev.lsExp (s : Dev) (P : Nat) : Nat := s.critR 3 (2 * P) % 64
/-- CLEAN. -/
def Dev.lsClean (s : Dev) (P : Nat) : Nat := s.critR 3 (2 * P) / 65536
/-- SEALED, the last sealed step. -/
def Dev.lsSealed (s : Dev) (P : Nat) : Nat := s.critR 3 (2 * P + 1)
/-- The open step (R238). -/
def Dev.lsOpen (s : Dev) (P : Nat) : Nat := (s.lsSealed P + 1) % 2 ^ 32
/-- CLEAN and EXP written. -/
def Dev.setLs (s : Dev) (P clean exp : Nat) : Dev := s.critW 3 (2 * P) (clean * 65536 + exp)

/-- The group table's words that are not zero, as index and value. -/
def Dev.lsGroups (s : Dev) (P : Nat) : List Nat :=
  (s.regs.filter fun p => decide (ra (lsPg P) 0x800 ≤ p.1 ∧ p.1 < ra (lsPg P) 0x1000)).flatMap fun p =>
    [(p.1 - ra (lsPg P) 0x800) / 4, p.2.toNat]

/-- The non-retired cores of a partition. -/
def Dev.liveCores (s : Dev) (P : Nat) : List Nat := (s.coresOf P).filter fun n => !(s.core n).retired

/-- A verdict record leaves for every non-retired core (R243): the step, the verdict, its exponent, the next
exponent, and the group entries. It is the partition's current record from then on. -/
def Dev.lsRecord (s : Dev) (P step verdict e next : Nat) : Dev :=
  let info := [step, verdict, e, next] ++ s.lsGroups P
  let l := s.liveCores P
  let s1 := s.modPart P fun p => { p with record := info }
  if l.isEmpty then s1 else s1.inject { cls := .verdictRec, vc := 0, dst := lget 0 l 0, src := epMgmt, info := info, targets := l, named := l }

/-- LS_LAST written. -/
def Dev.lsLast (s : Dev) (P verdict e : Nat) : Dev := s.setReg (ra (lsPg P) 0x110) (w32 (verdict * 65536 + e))

/-- The open step is decided (R241). -/
def Dev.lsDecide (s : Dev) (P : Nat) (ovf : Bool) : Dev :=
  let pg := lsPg P
  let cfg := s.regN (ra pg 0x100)
  let e := s.lsExp P
  let step := s.lsOpen P
  let skip := tb cfg 16 && ovf
  let s1 :=
    if !tb cfg 16 then s
    else if ovf then
      if 0 < e then (s.setLs P 0 (e - 1)).bump pg 5 1 else ((s.setLs P 0 0).bump pg 7 1).evt pg 2
    else
      let c := min (s.lsClean P + 1) 65535
      let iv := cfg % 65536
      if 0 < iv ∧ iv ≤ c then (if e < 32 then (s.setLs P 0 (e + 1)).bump pg 6 1 else (s.setLs P 0 e).bump pg 8 1)
      else s.setLs P c e
  let s2 := ((s1.critW 3 (2 * P + 1) step).modPart P fun p => { p with ovf := false, seals := [], sealing := false, heldVerdicts := [] }).bump pg 0 1
  let s3 := if skip then (s2.bump pg 1 1).evt pg 0 else s2
  (s3.lsLast P (b2n !skip) e).lsRecord P step (b2n !skip) e (s3.lsExp P)

/-- A notice reaches the state (R239). -/
def Dev.noticeIn (s : Dev) (P core step : Nat) : Dev :=
  let pg := lsPg P
  let s1 := s.bump pg 2 1
  if step % 2 ^ 32 = s.lsOpen P ∧ !(s.part P).sealing then s1.modPart P fun p => { p with ovf := true }
  else (((s1.bump pg 3 1).setReg (ra pg 0x120) (w32 step)).setReg (ra pg 0x124) (w32 (2 ^ 31 + core))).evt pg 1

/-- OVERFLOW_NOTICE. -/
def Dev.overflowNotice (s : Dev) (k : Nat) (u : Upset) : Dev :=
  s.deliver k .notice u fun s p =>
    let P := s.corePart p.src
    .took (if P < 12 then (s.critSeen (lsKeys P)).noticeIn P p.src (lget 0 p.info 0) else s)

/-- OVERFLOW_NOTICE. -/
def execOverflowNotice (k : Nat) (s : State) (u : Upset := {}) : Host.Outcome State Fault Refusal :=
  .next (s.onDev fun d => d.overflowNotice k u)

/-- Pairs of a record's tail as a group table. -/
def groupsOf : List Nat → SMap Word
  | i :: v :: l => mset (fun _ => 0#32) (groupsOf l) i (w32 v)
  | _ => []

/-- A core's copy as a record gives it (R243): the seal of its open step is no longer sent, and a SEAL that waited
for this verdict ends (R247). -/
def Core.takeRecord (c : Core) (info : List Nat) : Core :=
  let n := lget 0 info 0
  let c1 := { c with
    updStep := w32 n
    updLs := w32 (lget 0 info 1 % 2 * 65536 + lget 0 info 3 % 64 * 256 + lget 0 info 2 % 64)
    groups := groupsOf (info.drop 4) }
  match c1.vq with
  | e :: rest =>
    if e.opc = 2 ∧ e.sealSent ∧ e.started ∧ stepDiff (hdrStep (c1.vupdHdr e)) n ≤ 0 then { c1 with vq := { e with ended := true } :: rest } else c1
  | [] => c1

/-- The copy of a verdict record for core `n` (R243); a pod without power has none of it, and waits in a gating span. -/
def Dev.verdictRecord (s : Dev) (k n : Nat) (u : Upset) : Dev :=
  s.deliverMc k .verdictRec n u fun s p =>
    let q := s.pod (podOf n)
    if q.off then some (s.absentMark (podOf n), errAbsent)
    else if q.gated then none
    else some (s.modCore n fun c => c.takeRecord p.info, 0)

/-- VERDICT_RECORD. -/
def execVerdictRecord (k : Nat) (s : State) (core : Nat := 0) (u : Upset := {}) : Host.Outcome State Fault Refusal :=
  .next (s.onDev fun d => d.verdictRecord k core u)

/-- A seal of the open step has arrived (R240, R244). -/
def Dev.sealSeen (s : Dev) (P : Nat) : Bool := !(s.part P).seals.isEmpty || (s.part P).sealing

/-- A write of LS_INIT (R244). -/
def Dev.lsInit (s : Dev) (P : Nat) (v : Word) : Dev :=
  let pg := lsPg P
  let exp := v.toNat % 64
  let set := s.setReg (ra pg 0x118) (w32 exp)
  let result (s : Dev) (r : Nat) : Dev := s.setReg (ra pg 0x11C) (w32 r)
  if !v.getLsbD 31 then set
  else if s.partRuns P then (result s 1).evt pg 4
  else if s.sealSeen P then (result s 3).evt pg 4
  else if 32 < exp then (result s 2).evt pg 4
  else
    let step := s.regN (ra pg 0x114)
    ((((result set 0).setLs P 0 exp).critW 3 (2 * P + 1) step).modPart P fun p => { p with ovf := false }).lsLast P 1 exp
      |>.lsRecord P step 1 exp exp

/-- LS_INIT. -/
def execLsInit (w : Writer) (part : Nat) (v : Word) (s : State) : Host.Outcome State Fault Refusal :=
  .next (s.onDev fun d => d.regAccess w (lsPg part) fun d => d.lsInit part v)

/-- A write of LS_PART (R240). -/
def Dev.lsPart (s : Dev) (P i : Nat) (v : Word) : Dev :=
  let pg := lsPg P
  if s.sealSeen P then s.setReg (ra pg 0x11C) 3
  else (s.setReg (ra pg (0x140 + 4 * (i % 21))) v).setReg (ra pg 0x11C) 0

/-- LS_PART. -/
def execLsPart (w : Writer) (part i : Nat) (v : Word) (s : State) : Host.Outcome State Fault Refusal :=
  .next (s.onDev fun d => d.regAccess w (lsPg part) fun d => d.lsPart part i v)

/-- Core `n` is a participant of its partition (R240). -/
def Dev.isParticipant (s : Dev) (P n : Nat) : Bool :=
  s.inPart P n && !(s.core n).retired && tb (s.regN (ra (lsPg P) (0x140 + 4 * (n / 32)))) (n % 32)

/-- Every participant has sealed the open step. -/
def Dev.allSealed (s : Dev) (P : Nat) : Bool :=
  (s.coresOf P).all fun n => !s.isParticipant P n || (s.part P).seals.elem n

/-- The core's SEAL is refused: it faults UPD_SEAL (R240, R260). -/
def Dev.sealRefused (s : Dev) (P n : Nat) : Dev :=
  let s1 := s.evt (lsPg P) 3
  match (s1.core n).vq with
  | e :: _ => if e.opc = 2 ∧ e.sealSent ∧ !e.ended then s1.vecFault n 0x34 0 false else s1
  | [] => s1

end Sys2Proof.Machine
end

