-- ==== Sys2Proof/Machine/Collectives.lean ====
section
/-! DEFINITION. Tree collectives and the step verdict (R240, R397 to R408, R416, R417). -/
namespace Sys2Proof.Machine
open Sys2Proof

/-! Fields of an entry `v` (R397). -/

/-- KIND: 0 ALLREDUCE, 1 REDUCE, 2 ALLGATHER. -/
def eKind (v : Nat) : Nat := fld v 1 2
/-- PORT. -/
def ePort (v : Nat) : Nat := fld v 7 3
/-- COUNT. -/
def eCount (v : Nat) : Nat := fld v 40 13
/-- ELEMENTS. -/
def eElems (v : Nat) : Nat := fld v 70 26
/-- SEQ. -/
def eSeq (v : Nat) : Nat := fld v 224 32
/-- Bytes of an element. -/
def eSize (v : Nat) : Nat := collSize (collOp v)
/-- A core field, reduced (R268). -/
def Dev.eCore (s : Dev) (P v lo : Nat) : Nat := (s.ptCores P).1 + fld v lo 10 % (s.ptCores P).2
/-- A byte offset, reduced to its memory and aligned to the elements. -/
def eOfs (v lo : Nat) (sp : Bool) : Nat :=
  let o := fld v lo 27 % (if sp then spSize else vaultSize)
  o - o % eSize v

/-! The tree (R398). -/

/-- Rank of the member with index `i`. -/
def memberRank (v i : Nat) : Nat := fld v 16 12 + fld v 28 12 * i
/-- Rank of a tree position. -/
def posRank (v q : Nat) : Nat := memberRank v (if eKind v = 1 then (q + fld v 53 12) % eCount v else q)
/-- Tree position of a rank. -/
def rankPos (v r : Nat) : Option Nat := (upFrom 0 (eCount v)).find? fun q => posRank v q == r
/-- Positions that send to position `q` of `count`, lowest level first. -/
def treeChildren (count q : Nat) : List Nat :=
  ((upFrom 0 12).filter fun l => q % 2 ^ (l + 1) == 0 && decide (q + 2 ^ l < count)).map fun l => q + 2 ^ l
/-- The level at which a position other than 0 sends. -/
def treeLevel (q : Nat) : Nat := ((upFrom 0 12).find? fun l => q % 2 ^ (l + 1) != 0).getD 12
/-- The position that `q` sends to. -/
def treeParent (q : Nat) : Nat := q - 2 ^ treeLevel q
/-- Positions whose blocks the partial of `q` holds (R404). -/
def treeSpan (count q : Nat) : Nat := if q = 0 then count else min (count - q) (2 ^ treeLevel q)

/-- Elements position `q` sends up, and elements of the result (R400, R404). -/
def upElems (v q : Nat) : Nat := if eKind v = 2 then eElems v * treeSpan (eCount v) q else eElems v
/-- Elements of the result. -/
def resElems (v : Nat) : Nat := if eKind v = 2 then eElems v * eCount v else eElems v
/-- Segments of a number of elements (R400). -/
def segsOf (n : Nat) : Nat := cdiv n 4096
/-- Bytes of segment `i` of `n` elements. -/
def segBytes (v n i : Nat) : Nat := eSize v * min 4096 (n - 4096 * i)

/-! Instances. -/

/-- The instance of an entry. -/
def Part.inst (p : Part) (e : Nat) : Option Inst := p.runs.find? fun r => r.entry == e
/-- The entry runs (COLL_RUN). -/
def Part.runsEntry (p : Part) (e : Nat) : Bool := p.runs.any fun r => r.entry == e && r.started
/-- An entry of the partition runs. -/
def Part.collRuns (p : Part) : Bool := p.runs.any (·.started)
/-- The instance of an entry replaced. -/
def Dev.setInst (s : Dev) (P : Nat) (r : Inst) : Dev :=
  s.modPart P fun p => { p with runs := r :: p.runs.filter fun x => x.entry != r.entry }
/-- An instance changed. -/
def Dev.modInst (s : Dev) (P e : Nat) (f : Inst → Inst) : Dev :=
  s.modPart P fun p => { p with runs := p.runs.map fun r => if r.entry == e then f r else r }

/-- A word of an entry written, as committed and as it reads. -/
def Dev.setCollWord (s : Dev) (P e w v : Nat) : Dev :=
  s.modPart P fun p => { p with coll := mset (fun _ => 0#32) (mset (fun _ => 0#32) p.coll (16 * e + w) (w32 v)) (512 + 16 * e + w) (w32 v) }

/-- The instance ends: SEQ rises by one (R399). -/
def Dev.endInst (s : Dev) (P e : Nat) : Dev :=
  (s.setCollWord P e 7 (((s.part P).collWord e 7 + 1) % 2 ^ 32)).modPart P fun p => { p with runs := p.runs.filter fun r => r.entry != e }

/-- ADDR of a collective message (R382). -/
def collAddr (v e phase seg ofs : Nat) : BitVec 48 :=
  BitVec.ofNat 48 (e * 2 ^ 43 + phase * 2 ^ 42 + eSeq v % 256 * 2 ^ 32 + seg * 2 ^ 15 + ofs)

/-- A collective message to a rank leaves by the entry's port. -/
def Dev.collMsg (s : Dev) (P v rank ty : Nat) (f : Msg → Msg) : Dev := s.sendMsg (ePort v) P (f (s.newMsg P rank ty))

/-- The instance of an entry fails at this rank (R407): no completion set, a record, an event. -/
def Dev.collEndFail (s : Dev) (P e reason rank : Nat) : Dev :=
  let pg := netPg P
  let seq := (s.part P).collWord e 7
  ((((s.endInst P e).setReg (ra pg 0x138) (w32 (2 ^ 31 + e * 2 ^ 26 + reason * 2 ^ 22 + rank))).setReg (ra pg 0x13C) (w32 seq)).bump pg 2 1).evt pg 0

/-- A failed instance tells every member (R407). -/
def Dev.collFail (s : Dev) (P e reason rank : Nat) : Dev :=
  let v := (s.part P).entry e
  let others := ((upFrom 0 (eCount v)).map (memberRank v)).filter (· != s.rank P)
  (others.foldl (fun (s : Dev) r => s.collMsg P v r 11 fun m => { m with code := BitVec.ofNat 4 reason, addr := collAddr v e 0 0 rank }) s).collEndFail
    P e reason rank

/-- The running instances of a partition fail with reason RESET (R407). -/
def Dev.collReset (s : Dev) (P : Nat) : Dev :=
  let s1 := ((s.part P).runs.filter (·.started)).foldl (fun (s : Dev) r => s.collFail P r.entry 5 (s.rank P)) s
  s1.modPart P fun p => { p with runs := [] }

/-! Data. -/

/-- `len` bytes from byte `sh` of words, as words. -/
def sliceWords (ws : List PWord) (sh len : Nat) : List PWord :=
  let v := payloadNat ws / 2 ^ (8 * sh)
  (upFrom 0 (cdiv len 8)).map fun i =>
    let n := min 8 (len - 8 * i)
    let lo := (sh + 8 * i) / 8
    let hi := (sh + 8 * i + n - 1) / 8
    { data := w64 (v / 2 ^ (64 * i) % 2 ^ (8 * n)), poison := (lget {} ws lo).poison || (lget {} ws hi).poison }

/-- The unit reads a member's memory: none where the memory makes it wait. Words that answer ABSENT come poisoned
(log 28). -/
def Dev.collRead (s : Dev) (n : Nat) (sp : Bool) (ofs len : Nat) : Option (List PWord × Dev) :=
  let is := wordsAt ofs len
  let gone : List PWord := is.map fun _ => ⟨0, true⟩
  let cut (ws : List PWord) : List PWord := sliceWords ws (ofs % 8) len
  if s.podGone (podOf n) then some (cut gone, s.absentMark (podOf n))
  else if sp then
    if (s.core n).spHeld ofs len then none
    else let r := s.spRead n is; some (cut r.1, r.2)
  else match s.vaultGate n ofs with
    | .hold => none
    | .absent => some (cut gone, s.absentVault n ofs)
    | .ok =>
      let r := (s.openRow n ofs).vChecks n [] (is.map fun i => (i, mget noWord (s.core n).vault.mem i))
      some (cut r.1, r.2)

/-- Elements of 32 bits with their poison. -/
def elems32 (n : Nat) (ws : List PWord) : List (Nat × Bool) :=
  (ws.flatMap fun w => [(fld w.data.toNat 0 32, w.poison), (fld w.data.toNat 32 32, w.poison)]).take n
/-- Elements of 32 bits as words. -/
def pack32 : List (Nat × Bool) → List PWord
  | a :: b :: l => ⟨w64 (a.1 + 2 ^ 32 * b.1), a.2 || b.2⟩ :: pack32 l
  | [a] => [⟨w64 a.1, a.2⟩]
  | [] => []

/-- Two segments combined word by word (R400, R402): the words, and whether an FX addition saturated. -/
def addSegs (op : Nat) (a b : List PWord) : List PWord × Bool :=
  let r := (a.zip b).map fun p => let x := rwWord op p.1.data p.2.data (BitVec.allOnes 64); ((⟨x.1, p.1.poison || p.2.poison⟩ : PWord), x.2)
  (r.map (·.1), r.any (·.2))

/-- A segment leaves for a rank, in packets of up to 4,096 B, each with its welt (R400, R401). -/
def Dev.collSend (s : Dev) (P e v rank phase seg len : Nat) (words : List PWord) (mark : Bool) : Dev :=
  (upFrom 0 (cdiv len 4096)).foldl (fun (s : Dev) k =>
    let n := min 4096 (len - 4096 * k)
    let ws := (words.drop (512 * k)).take (cdiv n 8)
    s.collMsg P v rank 7 fun m => { m with
      mark := mark, last := decide (len ≤ 4096 * (k + 1)), addr := collAddr v e phase seg (4096 * k), len := n, words := ws
      welt := w32 (weltOf (collOp v) ws n) }) s

/-- Cores a multicast names (R319). -/
def mcTargets (v : Nat) : List Nat :=
  (upFrom 0 Config.cores).filter fun n => tb v (256 + podOf n) && tb v (340 + n % 8)

/-- Link port `k` has tags for the `n` requests of a result, and as many multicasts where it is multicast. -/
def Dev.tagRoom (s : Dev) (v n : Nat) : Bool := decide (n * (1 + b2n (tb v 12)) + (s.link (ePort v)).tags.length ≤ 256)

/-- Byte offset of a result segment. -/
def segOfs (v seg : Nat) : Nat := eOfs v 160 (tb v 11) + 4096 * eSize v * seg

/-- The link port of an instance has tags for a result segment (R309). -/
def Dev.segRoom (s : Dev) (v seg len : Nat) : Bool := s.tagRoom v ((segOfs v seg % 256 + len + 255) / 256)

/-- A result segment is written at this rank (R402, R403): every packet carries the mark, and its tag is kept until it
is acknowledged. -/
def Dev.collWrite (s : Dev) (P e v seg len : Nat) (words : List PWord) (mark : Bool) : Dev :=
  let k := ePort v
  let sp := tb v 11
  let n := s.eCore P v 106
  let items := blockItems 0 0 (payloadWrites (segOfs v seg) len words)
  let one (s : Dev) (base : Nat) (it : WItem) (p : Packet) : Dev :=
    let t := (lowTag (s.link k).tags.elem).getD 0
    let a := base + it.span.1
    ((s.modLink k fun l => { l with tags := l.tags ++ [t] }).modInst P e fun r => { r with unacked := r.unacked ++ [t] }).inject
      { p with src := epLink k, tag := t, mark := mark, addr := a, len := it.span.2, writes := it.moved a }
  let s1 := items.foldl (fun (s : Dev) it =>
    one s (if sp then spadAddr n 0 else vaultAddr n 0) it { cls := .wrReq, vc := 1, dst := n, src := 0 }) s
  let s2 := if tb v 12 then items.foldl (fun (s : Dev) it =>
      one s (if sp then spadAddr 0 0 else 0) it { cls := .mcWr, vc := 3, dst := n, src := 0, targets := mcTargets v, named := mcTargets v }) s1
    else s1
  if mark then s2.bump (netPg P) 5 1 else s2

/-- A result segment goes on down the tree, highest level first (R403). -/
def Dev.collDown (s : Dev) (P e v q seg len : Nat) (words : List PWord) (mark : Bool) : Dev :=
  (treeChildren (eCount v) q).reverse.foldl (fun (s : Dev) c => s.collSend P e v (posRank v c) 1 seg len words mark) s

/-- Packets of a segment from a position. -/
def segPkts (l : List CPkt) (pos seg : Nat) : List CPkt := l.filter fun p => p.pos == pos && p.seg == seg
/-- The segment is whole. -/
def segIn (l : List CPkt) (pos seg : Nat) : Bool := (segPkts l pos seg).any (·.last)
/-- Its words. -/
def segWords (l : List CPkt) (pos seg : Nat) : List PWord := (segPkts l pos seg).flatMap (·.words)
/-- Its mark. -/
def segMark (l : List CPkt) (pos seg : Nat) : Bool := (segPkts l pos seg).any (·.mark)

/-! Progress of an instance. -/

/-- A segment of the up phase is complete at this rank (R400, R403): it is the result at the root and goes to the parent
elsewhere. -/
def Dev.segDone (s : Dev) (P e v q i : Nat) (words : List PWord) (mark : Bool) : Dev :=
  let len := segBytes v (upElems v q) i
  let s1 := ((s.bump (netPg P) 3 1).bump (linkPg (ePort v)) 13 1).modInst P e fun r => { r with upSeg := i + 1 }
  if q = 0 then
    let s2 := s1.collWrite P e v i len words mark
    if eKind v = 1 then s2 else s2.collDown P e v q i len words mark
  else s1.collSend P e v (posRank v (treeParent q)) 0 i len words mark

/-- A segment of a reduction (R400, R402): the sum of this rank's own and its children's, whether an addition saturated, and the
children's mark. -/
def segSum (v : Nat) (kids : List Nat) (recv : List CPkt) (i : Nat) (own : List PWord) : List PWord × Bool × Bool :=
  kids.foldl (fun (x : List PWord × Bool × Bool) c =>
    let y := addSegs (collOp v) x.1 (segWords recv c i)
    (y.1, x.2.1 || y.2, x.2.2 || segMark recv c i)) (own, false, false)

/-- The unit's read of its own segment `i` of a reduction. -/
def Dev.ownSeg (s : Dev) (P v i : Nat) : Option (List PWord × Dev) :=
  let sp := tb v 10
  s.collRead (s.eCore P v 96) sp (eOfs v 133 sp + 4096 * eSize v * i) (segBytes v (eElems v) i)

/-- The next segment of a reduction, when this rank's own data and every child's are in and the parent has granted
it (R400). -/
def Dev.reduceStep (s : Dev) (P e v q : Nat) (r : Inst) : Option Dev :=
  let i := r.upSeg
  let kids := treeChildren (eCount v) q
  if segsOf (eElems v) ≤ i ∨ (q ≠ 0 ∧ r.granted ≤ i) ∨ !(kids.all fun c => segIn r.recv c i)
      ∨ (q = 0 ∧ !s.segRoom v i (segBytes v (upElems v q) i)) then none
  else
    (s.ownSeg P v i).map fun own =>
      let z := segSum v kids r.recv i own.1
      (own.2.modInst P e fun r => { r with recv := r.recv.filter fun p => p.seg != i }).segDone P e v q i z.1 (z.2.1 || z.2.2)

/-- The blocks an ALLGATHER rank sends or distributes, once its own and all its children's are in (R404), are kept
as one packet of its own position. -/
def Dev.gatherStep (s : Dev) (P e v q : Nat) (r : Inst) : Option Dev :=
  let kids := treeChildren (eCount v) q
  let all (c : Nat) : List Nat := upFrom 0 (segsOf (upElems v c))
  if r.recv.any fun p => p.pos == q then
    let i := r.upSeg
    if segsOf (upElems v q) ≤ i ∨ (q ≠ 0 ∧ r.granted ≤ i) ∨ (q = 0 ∧ !s.segRoom v i (segBytes v (upElems v q) i)) then none
    else some (s.segDone P e v q i (((segWords r.recv q 0).drop (2048 * i)).take 2048) (segMark r.recv q 0))
  else if !(kids.all fun c => (all c).all fun i => segIn r.recv c i) then none
  else
    let sp := tb v 10
    (s.collRead (s.eCore P v 96) sp (eOfs v 133 sp) (4 * eElems v)).map fun own =>
      let parts := elems32 (eElems v) own.1 ++ kids.flatMap fun c => elems32 (upElems v c) ((all c).flatMap fun i => segWords r.recv c i)
      let mark := r.recv.any (·.mark)
      own.2.modInst P e fun r => { r with recv := [{ pos := q, seg := 0, ofs := 0, words := pack32 parts, mark := mark, last := true }] }

/-- The next result segment that came down is written and goes on (R403). -/
def Dev.downStep (s : Dev) (P e v q : Nat) (r : Inst) : Option Dev :=
  let i := r.downSeg
  if q = 0 ∨ eKind v = 1 ∨ segsOf (resElems v) ≤ i ∨ !segIn r.down (treeParent q) i
      ∨ !s.segRoom v i (segBytes v (resElems v) i) then none
  else
    let len := segBytes v (resElems v) i
    let ws := segWords r.down (treeParent q) i
    let mk := segMark r.down (treeParent q) i
    some (((s.modInst P e fun r => { r with downSeg := i + 1, down := r.down.filter fun p => p.seg != i }).collWrite P e v i len ws mk).collDown
      P e v q i len ws mk)

/-- The first segment of a child that is not complete here (R400). -/
def Inst.firstOpen (r : Inst) (v c : Nat) : Nat :=
  if eKind v = 2 then ((upFrom 0 (segsOf (upElems v c))).find? fun i => !segIn r.recv c i).getD (segsOf (upElems v c)) else r.upSeg

/-- Credits a rank owes its children leave (R400). -/
def Dev.collCredits (s : Dev) (P e v q : Nat) : Dev :=
  (treeChildren (eCount v) q).foldl (fun (s : Dev) c =>
    match (s.part P).inst e with
    | none => s
    | some r =>
      let want := r.firstOpen v c + 32
      let had := ((r.gave.find? fun g => g.1 == c).map (·.2)).getD 0
      if want ≤ had then s
      else (s.modInst P e fun r => { r with gave := (c, want) :: r.gave.filter fun g => g.1 != c }).collMsg P v (posRank v c) 8 fun m =>
        { m with addr := collAddr v e 0 want 0 }) s

/-- The instance has done all it has to do at this rank (R403, R404). -/
def Inst.complete (r : Inst) (v q : Nat) : Bool :=
  r.unacked.isEmpty && decide (segsOf (upElems v q) ≤ r.upSeg) &&
    (q == 0 || (if eKind v = 1 then decide (segsOf (eElems v) ≤ r.granted) else decide (segsOf (resElems v) ≤ r.downSeg)))

/-- The instance completes: the completion set leaves for LEADER (R403). -/
def Dev.collDone (s : Dev) (P e v : Nat) : Dev :=
  let k := ePort v
  let s1 := (s.endInst P e).bump (netPg P) 1 1
  match tb v 132, lowTag (s.link k).tags.elem with
  | true, some t => (s1.modLink k fun l => { l with tags := l.tags ++ [t] }).inject
      { cls := .flagOp, vc := 1, dst := s.eCore P v 116, src := epLink k, tag := t, addr := fld v 126 6 }
  | _, _ => s1

/-- One step of an instance. -/
def Dev.collStep (s : Dev) (P e : Nat) : Option Dev :=
  let v := (s.part P).entry e
  match (s.part P).inst e, rankPos v (s.rank P) with
  | some r, some q =>
    if !r.started then none
    else match s.downStep P e v q r with
      | some t => some t
      | none => if eKind v = 2 then s.gatherStep P e v q r else s.reduceStep P e v q r
  | _, _ => none

/-- Steps of an instance; `fuel` bounds them. -/
def Dev.collRun (s : Dev) (P e : Nat) : Nat → Dev
  | 0 => s
  | f + 1 => match s.collStep P e with
    | none => s
    | some t => t.collRun P e f

/-- The instance goes on as far as it can, gives its credits and ends where it is complete. An instance has at most
2^26 elements a member and 4,096 members. -/
def Dev.collAdvance (s : Dev) (P e : Nat) : Dev :=
  let s1 := s.collRun P e (2 ^ 40)
  let v := (s1.part P).entry e
  match (s1.part P).inst e, rankPos v (s1.rank P) with
  | some r, some q =>
    if !r.started then s1
    else if r.complete v q && (!tb v 132 || (lowTag (s1.link (ePort v)).tags.elem).isSome) then (s1.collCredits P e v q).collDone P e v
    else s1.collCredits P e v q
  | _, _ => s1

/-- The running instances that use link port `k` go on: a tag has become free. -/
def Dev.collWake (s : Dev) (k : Nat) : Dev :=
  (upFrom 0 Config.parts).foldl (fun (s : Dev) P =>
    ((s.part P).runs.filter fun r => r.started && ePort ((s.part P).entry r.entry) == k).foldl (fun (s : Dev) r => s.collAdvance P r.entry) s) s

/-- The instance of link port `k` whose result write has this tag. -/
def Dev.collOfTag (s : Dev) (k tag : Nat) : Option (Nat × Nat) :=
  (upFrom 0 Config.parts).findSome? fun P =>
    ((s.part P).runs.find? fun r => r.unacked.elem tag && ePort ((s.part P).entry r.entry) == k).map fun r => (P, r.entry)

/-- A response reaches a link port: its tag is free again, and it is for a collective's write (R403), a served request, or a
completion set. -/
def Dev.linkResp (s : Dev) (k : Nat) (p : Packet) : Dev :=
  let s := s.modLink k fun l => { l with tags := l.tags.filter (· != p.tag) }
  let s1 : Dev := match s.collOfTag k p.tag, (s.link k).serves.find? fun v => v.tag == p.tag with
    | some (P, e), _ => s.modInst P e fun r => { r with unacked := r.unacked.filter (· != p.tag) }
    | none, some v =>
      if p.cls = .err then s.serveBack k v (if p.code = errRefused then 2 else 1) []
      else s.serveBack k v 0 p.data
    | none, none => s
  s1.collWake k

/-! Commits and triggers. -/

/-- The entry an index selects is valid and not judged otherwise (R397): OK, BUSY or INVALID. -/
def Dev.collJudge (s : Dev) (P e v : Nat) : Nat :=
  let ranks := (upFrom 0 (eCount v)).map (memberRank v)
  let n := s.nranks P
  if (s.part P).runsEntry e then 1
  else if eKind v = 3 ∨ (eKind v ≠ 2 ∧ fld v 3 4 ≠ 4 ∧ fld v 3 4 ≠ 5 ∧ fld v 3 4 ≠ 12) ∨ eCount v = 0 ∨ 4096 < eCount v ∨ n < eCount v
      ∨ (ranks.any fun r => decide (n ≤ r)) ∨ (ranks.filter (· == s.rank P)).length ≠ 1 ∨ s.linkMode (ePort v) = 0 ∨ eElems v = 0
      ∨ (eKind v = 2 ∧ 2 ^ 31 < eCount v * eElems v * 4) then 2
  else 0

/-- A write of COLL_DATA (R397, R416): a word is staged; word 15 commits. -/
def Dev.collData (s : Dev) (P : Nat) (v : Word) : Dev :=
  let pg := netPg P
  let sel := s.regN (ra pg 0x128)
  let e := fld sel 4 5
  let w := sel % 16
  let s1 := s.modPart P fun p => { p with coll := mset (fun _ => 0#32) p.coll (16 * e + w) v }
  let s2 :=
    if w = 15 then
      let num := (upFrom 0 16).foldr (fun j acc => (mget (fun _ => 0#32) (s1.part P).coll (16 * e + j)).toNat + 2 ^ 32 * acc) 0
      let r := s1.collJudge P e num
      let s2 := s1.setReg (ra pg 0x130) (w32 r)
      if r = 1 then s2
      else if r = 2 then s2.setCollWord P e 0 (num % 2 ^ 32 - num % 2)
      else (upFrom 0 16).foldl (fun (s : Dev) j => s.setCollWord P e j (fld num (32 * j) 32)) s2
    else s1
  if tb sel 31 then s2.setFld (ra pg 0x128) 0 4 (w + 1) else s2

/-- COLL_COMMIT. -/
def execCollCommit (w : Writer) (part : Nat) (v : Word) (s : State) : Host.Outcome State Fault Refusal :=
  .next (s.onDev fun d => d.regAccess w (netPg part) fun d =>
    if d.regN (ra (netPg part) 0x128) % 16 = 15 then d.collData part v else d)

/-- A collective unit reads a valid entry's trigger word (R399); a running instance goes on where nothing holds it any
more. -/
def Dev.triggerPoll (s : Dev) (P e : Nat) : Dev :=
  let v := (s.part P).entry e
  if !tb v 0 ∨ s.ptState P ≠ 2 then s
  else if (s.part P).runsEntry e then s.collAdvance P e
  else match s.collRead (s.eCore P v 187) false (fld v 197 27 / 4 * 4) 4 with
    | none => s
    | some r =>
      match r.1 with
      | w :: _ =>
        if w.poison ∨ w.data.toNat ≠ eSeq v then r.2
        else
          let old := ((s.part P).inst e).getD { entry := e }
          ((r.2.setInst P { old with started := true }).bump (netPg P) 0 1).collAdvance P e
      | [] => r.2

/-- TRIGGER_POLL. -/
def execTriggerPoll (part entry : Nat) (s : State) : Host.Outcome State Fault Refusal :=
  .next (s.onDev fun d => if entry < 32 then d.triggerPoll part entry else d)

/-! Messages. -/

/-- ENTRY of a collective message. -/
def msgEntry (m : Msg) : Nat := fld m.addr.toNat 43 5
/-- The message concerns the instance that the entry's SEQ numbers. -/
def Dev.msgCurrent (s : Dev) (P : Nat) (m : Msg) : Bool := fld m.addr.toNat 32 8 == (s.part P).collWord (msgEntry m) 7 % 256
/-- A message of an ended instance (R407). -/
def Dev.lateMsg (s : Dev) (P : Nat) : Dev := s.bump (netPg P) 7 1
/-- The instance a message concerns, not started where nothing has yet. -/
def Dev.instFor (s : Dev) (P e : Nat) : Inst := ((s.part P).inst e).getD { entry := e }

/-- The data of a segment is whole, and the unit checks its result's welt (R401): of an ALLGATHER, and of an ADD in which nothing
saturated. -/
def Dev.segChecks (s : Dev) (P v q seg : Nat) (recv : List CPkt) : Bool :=
  let kids := treeChildren (eCount v) q
  (kids.all fun c => segIn recv c seg) && (eKind v == 2 || collOp v != 12 && match s.ownSeg P v seg with
    | some own => !(segSum v kids recv seg own.1).2.1
    | none => false)

/-- A child's data goes into the instance; `slips` times in a row the result check of the segment it completes fails (R401): the
additions are repeated once, and a second failure fails the instance. -/
def Dev.collGot (s : Dev) (P e v q seg slips : Nat) (r : Inst) : Dev :=
  let s1 := s.setInst P r
  if slips = 0 || !r.started || !s.segChecks P v q seg r.recv then s1.collAdvance P e
  else
    let s2 := ((s1.weltErr (ePort v)).bump (netPg P) 4 1).evt (netPg P) 2
    if slips = 1 then s2.collAdvance P e else (s2.weltErr (ePort v)).collFail P e 4 (s.rank P)

/-- Collective data arrives (R400, R401, R407). -/
def Dev.collDataIn (s : Dev) (k P slips : Nat) (m : Msg) : Dev :=
  let e := msgEntry m
  let v := (s.part P).entry e
  let a := m.addr.toNat
  let seg := fld a 15 17
  if s.badWelt P m then s.weltErr k
  else if !tb v 0 then s.collFail P e 7 (s.rank P)
  else if !s.msgCurrent P m then s.lateMsg P
  else match rankPos v m.srank.toNat, rankPos v (s.rank P) with
    | some c, some q =>
      let r := s.instFor P e
      let pk : CPkt := { pos := c, seg := seg, ofs := fld a 0 15, words := m.words, mark := m.mark, last := m.last }
      if tb a 42 then
        if q = 0 ∨ c ≠ treeParent q ∨ segsOf (resElems v) ≤ seg ∨ eKind v = 1 then s.collFail P e 7 (s.rank P)
        else (s.setInst P { r with down := r.down ++ [pk] }).collAdvance P e
      else if !(treeChildren (eCount v) q).elem c ∨ segsOf (upElems v c) ≤ seg then s.collFail P e 7 (s.rank P)
      else s.collGot P e v q seg slips { r with recv := r.recv ++ [pk] }
    | _, _ => s.lateMsg P

/-- COLL_DATA. -/
def execCollData (k : Nat) (s : State) (slips : Nat := 0) : Host.Outcome State Fault Refusal :=
  .next (s.onDev fun d => d.onRx k 7 fun d P m => d.collDataIn k P slips m)

/-- A credit (R400). -/
def Dev.collCreditIn (s : Dev) (P : Nat) (m : Msg) : Dev :=
  let e := msgEntry m
  if !tb ((s.part P).entry e) 0 ∨ !s.msgCurrent P m then s.lateMsg P
  else
    let r := s.instFor P e
    (s.setInst P { r with granted := max r.granted (fld m.addr.toNat 15 17) }).collAdvance P e

/-- COLL_CREDIT. -/
def execCollCredit (k : Nat) (s : State) : Host.Outcome State Fault Refusal := .next (s.onDev fun d => d.onRx k 8 fun d P m => d.collCreditIn P m)

/-- The rank a running instance awaits, and whether all its own segments have gone up (R406). -/
def Dev.collAwaits (s : Dev) (P e : Nat) : Option (Nat × Bool) :=
  let v := (s.part P).entry e
  match (s.part P).inst e, rankPos v (s.rank P) with
  | some r, some q =>
    if !r.started then none
    else if r.upSeg < segsOf (upElems v q) then
      let kids := treeChildren (eCount v) q
      let lacks (c : Nat) : Bool := if eKind v = 2 then
          !(r.recv.any fun p => p.pos == q) && decide (r.firstOpen v c < segsOf (upElems v c)) else !segIn r.recv c r.upSeg
      match kids.find? lacks with
      | some c => some (posRank v c, false)
      | none => if q ≠ 0 ∧ r.granted ≤ r.upSeg then some (posRank v (treeParent q), false) else none
    else if q ≠ 0 ∧ (if eKind v = 1 then r.granted < segsOf (eElems v) else r.downSeg < segsOf (resElems v)) then
      some (posRank v (treeParent q), true)
    else none
  | _, _ => none

/-- COLL_PROBE: the state after this cycle goes back (R406). -/
def Dev.collProbeIn (s : Dev) (P : Nat) (m : Msg) : Dev :=
  let e := msgEntry m
  let v := (s.part P).entry e
  let pg := netPg P
  let failed := tb (s.regN (ra pg 0x138)) 31 && fld (s.regN (ra pg 0x138)) 26 5 == e && !tb (s.regN (ra pg 0x138)) 21
    && s.regN (ra pg 0x13C) % 256 == fld m.addr.toNat 32 8
  let z : Nat × Nat :=
    if !s.msgCurrent P m then (if failed then 4 else 3, 0)
    else if !(s.part P).runsEntry e then (0, 0)
    else match s.collAwaits P e with
      | some (b, sent) => (if sent then 2 else 1, b)
      | none => (1, s.rank P)
  s.collMsg P v m.srank.toNat 10 fun r => { r with
    code := BitVec.ofNat 4 z.1, addr := BitVec.ofNat 48 (m.addr.toNat / 2 ^ 32 * 2 ^ 32 + z.2) }

/-- COLL_PROBE. -/
def execCollProbe (k : Nat) (s : State) : Host.Outcome State Fault Refusal := .next (s.onDev fun d => d.onRx k 9 fun d P m => d.collProbeIn P m)

/-- The unit probes a rank (R406). -/
def Dev.probe (s : Dev) (P e rank : Nat) : Dev :=
  let v := (s.part P).entry e
  ((s.modInst P e fun r => { r with probing := some rank, probed := r.probed ++ [rank] }).bump (netPg P) 6 1).collMsg P v rank 9 fun m =>
    { m with addr := collAddr v e 0 0 0 }

/-- A state answer: the next rank is probed, or one is named (R406). -/
def Dev.collStateIn (s : Dev) (P : Nat) (m : Msg) : Dev :=
  let e := msgEntry m
  let a := m.srank.toNat
  let b := fld m.addr.toNat 0 12
  match (s.part P).inst e with
  | none => s.lateMsg P
  | some r =>
    if !s.msgCurrent P m ∨ r.probing ≠ some a then s.lateMsg P
    else match m.code.toNat with
      | 0 => s.collFail P e 1 a
      | 1 => if r.probed.elem b || b == a then s.collFail P e 2 a else s.probe P e b
      | 2 => if b == s.rank P || r.probed.elem b then s.collFail P e 2 a else s.probe P e b
      | _ => s.collFail P e 2 a

/-- COLL_STATE. -/
def execCollState (k : Nat) (s : State) : Host.Outcome State Fault Refusal := .next (s.onDev fun d => d.onRx k 10 fun d P m => d.collStateIn P m)

/-- A failure message ends the instance here (R399, R407). -/
def Dev.collFailIn (s : Dev) (P : Nat) (m : Msg) : Dev :=
  let e := msgEntry m
  if tb ((s.part P).entry e) 0 && s.msgCurrent P m then s.collEndFail P e m.code.toNat (fld m.addr.toNat 0 12) else s.lateMsg P

/-- COLL_FAIL. -/
def execCollFail (k : Nat) (s : State) : Host.Outcome State Fault Refusal := .next (s.onDev fun d => d.onRx k 11 fun d P m => d.collFailIn P m)

/-! The step verdict (R242, R408). -/

/-- The verdict collective fails: SEALING stays 1. -/
def Dev.verdictFail (s : Dev) (P reason rank : Nat) : Dev :=
  let pg := netPg P
  (((s.setReg (ra pg 0x138) (w32 (2 ^ 31 + reason * 2 ^ 22 + 2 ^ 21 + rank))).setReg (ra pg 0x13C) (w32 (s.lsOpen P))).bump pg 2 1).evt pg 1

/-- The port of the verdict collective. -/
def Dev.verdictPort (s : Dev) (P : Nat) : Nat := fld (s.regN (ra (netPg P) 0x108)) 8 3

/-- A VERDICT message to a rank. -/
def Dev.sendVerdict (s : Dev) (P rank step : Nat) (ovf : Bool) : Dev :=
  s.sendMsg (s.verdictPort P) P { s.newMsg P rank 12 with addr := BitVec.ofNat 48 step, mark := ovf }

/-- The OR reaches this rank (R408): it goes on to the children and to the state, in one cycle. -/
def Dev.verdictTake (s : Dev) (P : Nat) (ovf : Bool) : Dev :=
  let step := s.lsOpen P
  let s1 := (treeChildren (s.nranks P) (s.rank P)).foldl (fun (s : Dev) c => s.sendVerdict P c step ovf) s
  (s1.bump (netPg P) 11 1).lsDecide P ovf

/-- When this rank has sealed and every child's verdict is held, the OR goes up, or is the result at the root. -/
def Dev.verdictUp (s : Dev) (P : Nat) : Dev :=
  let p := s.part P
  let q := s.rank P
  let kids := treeChildren (s.nranks P) q
  if !p.sealing || !(kids.all fun c => p.heldVerdicts.any fun h => h.1 == c) then s
  else
    let ovf := p.ovf || kids.any fun c => p.heldVerdicts.any fun h => h.1 == c && h.2
    if q = 0 then s.verdictTake P ovf else s.sendVerdict P (treeParent q) (s.lsOpen P) ovf

/-- A VERDICT (R408): held from a child, the result from the parent; a step other than the open one fails the
verdict. -/
def Dev.verdictIn (s : Dev) (P : Nat) (m : Msg) : Dev :=
  let r := m.srank.toNat
  let q := s.rank P
  if m.addr.toNat % 2 ^ 32 ≠ s.lsOpen P then s.verdictFail P 6 r
  else if (treeChildren (s.nranks P) q).elem r then
    (s.modPart P fun p => { p with heldVerdicts := (r, m.mark) :: p.heldVerdicts.filter fun h => h.1 != r }).verdictUp P
  else if q ≠ 0 ∧ r = treeParent q ∧ (s.part P).sealing then s.verdictTake P m.mark
  else s.lateMsg P

/-- VERDICT. -/
def execVerdict (k : Nat) (s : State) : Host.Outcome State Fault Refusal := .next (s.onDev fun d => d.onRx k 12 fun d P m => (d.critSeen (lsKeys P)).verdictIn P m)

/-- The rank a verdict collective awaits. -/
def Dev.verdictAwaits (s : Dev) (P : Nat) : Option Nat :=
  let p := s.part P
  let q := s.rank P
  if !p.sealing then none
  else match (treeChildren (s.nranks P) q).find? fun c => !(p.heldVerdicts.any fun h => h.1 == c) with
    | some c => some c
    | none => if q = 0 then none else some (treeParent q)

/-- A running instance's watchdog expires (R406); entry 32 is the verdict collective (log 29). -/
def Dev.collWatchdog (s : Dev) (P e : Nat) : Dev :=
  if e = 32 then
    match s.verdictAwaits P with
    | some r => s.verdictFail P 2 r
    | none => s
  else match s.collAwaits P e with
    | some (r, _) => (s.modInst P e fun x => { x with probed := [] }).probe P e r
    | none => s

/-- COLL_WATCHDOG. -/
def execCollWatchdog (part entry : Nat) (s : State) : Host.Outcome State Fault Refusal := .next (s.onDev fun d => d.collWatchdog part entry)

/-- A seal reaches the state (R240). -/
def Dev.sealIn (s : Dev) (P n step : Nat) : Dev :=
  let pg := lsPg P
  if !s.isParticipant P n then s.sealRefused P n
  else if step % 2 ^ 32 = s.lsOpen P then
    if (s.part P).seals.elem n then s.bump pg 4 1
    else
      let s1 := s.modPart P fun p => { p with seals := p.seals ++ [n] }
      if !s1.allSealed P then s1
      else if tb (s.regN (ra pg 0x100)) 17 && decide (1 < s.nranks P) then
        (s1.modPart P fun p => { p with sealing := true }).verdictUp P
      else s1.lsDecide P (s.part P).ovf
  else if step % 2 ^ 32 = s.lsSealed P then s.bump pg 4 1
  else s.sealRefused P n

/-- SEAL_RECEIVED. -/
def Dev.sealReceived (s : Dev) (k : Nat) (u : Upset) : Dev :=
  s.deliver k .seal u fun s p =>
    let P := s.corePart p.src
    .took (if P < 12 then (s.critSeen (lsKeys P)).sealIn P p.src (lget 0 p.info 0) else s)

/-- SEAL_RECEIVED. -/
def execSealReceived (k : Nat) (s : State) (u : Upset := {}) : Host.Outcome State Fault Refusal := .next (s.onDev fun d => d.sealReceived k u)

/-- A connection fails (R384): its requests end by their own timeouts (R387), and the collectives that use it fail with
reason UNREACHABLE. -/
def Dev.connFail (s : Dev) (k peer P : Nat) : Dev :=
  match (s.link k).conn P peer with
  | none => s
  | some c =>
    if c.unacked.all fun u => decide (u.2.1 < 5) then s
    else
      let lost := ((s.link k).waits.filter fun w => w.part == P && w.rank == peer).length
      let s1 := (((s.modLink k fun l => { l with
        conns := l.conns.filter fun c => !(c.part == P && c.peer == peer)
        waits := l.waits.filter fun w => !(w.part == P && w.rank == peer) }).bump (linkPg k) 8 1).evt (linkPg k) 5).bump (netPg P) 10 lost
      let uses (r : Inst) : Bool :=
        let v := (s.part P).entry r.entry
        ePort v == k && r.started && match rankPos v (s.rank P), rankPos v peer with
          | some q, some c => (treeChildren (eCount v) q).elem c || (q != 0 && treeParent q == c) || r.probing == some peer
          | _, _ => false
      let s2 := ((s.part P).runs.filter uses).foldl (fun (s : Dev) r => s.collFail P r.entry 3 peer) s1
      if (s.part P).sealing && s.verdictPort P == k && ((treeChildren (s.nranks P) (s.rank P)).elem peer
          || (s.rank P != 0 && treeParent (s.rank P) == peer)) then s2.verdictFail P 3 peer
      else s2

/-- CONNECTION_FAIL. -/
def execConnectionFail (k peer part : Nat) (s : State) : Host.Outcome State Fault Refusal :=
  .next (s.onDev fun d => (d.unpause k).connFail k peer part)

/-- A write of NET_ID, NET_SIZE or NET_PORTS (R416); `reg` 0, 1 or 2. -/
def Dev.netConfig (s : Dev) (P reg : Nat) (v : Word) : Dev :=
  let pg := netPg P
  let z : Nat × Word := match reg with
    | 0 => (0x100, 0xFFFF0FFF#32)
    | 1 => (0x104, 0x1FFF#32)
    | _ => (0x108, 0x7FF#32)
  if (s.part P).collRuns then s.evt pg 3
  else if s.locked pg then s
  else s.setReg (ra pg z.1) (v &&& z.2)

/-- NET_CONFIG_WRITE. -/
def execNetConfigWrite (w : Writer) (part reg : Nat) (v : Word) (s : State) : Host.Outcome State Fault Refusal :=
  .next (s.onDev fun d => d.regAccess w (netPg part) fun d => d.netConfig part reg v)

end Sys2Proof.Machine
end

