-- ==== Sys2Proof/Machine/Reset.lean ====
section
/-! DEFINITION. The compute-part reset and the reset epochs of the pods (R71, R140, R174, R233, R262, R300, R328, R499,
R500). -/
namespace Sys2Proof.Machine
open Sys2Proof

/-- A stream after a compute-part reset: what R174 does not name stays. -/
def Stream.afterReset (t : Stream) : Stream := { pc := t.pc, haltCode := t.haltCode }

/-- A core after a compute-part reset (R71, R140, R174, R233, R300). A load in progress stops with the slots it has
written. -/
def Core.afterReset (c : Core) : Core :=
  { c with
    x := c.x.afterReset, a := c.a.afterReset
    imemDone := match c.dq.find? (·.kind == .imem) with
      | some j => j.pos
      | none => c.imemDone
    queues := [[], [], [], []]
    cur := [[0, 0, 0, 0, 0, 0, 0, 0], [0, 0, 0, 0, 0, 0, 0, 0], [0, 0, 0, 0, 0, 0, 0, 0], [0, 0, 0, 0, 0, 0, 0, 0]]
    curValid := 0
    flags := 0
    arrs := [{}, {}, {}, {}], drains := []
    tiles := [{}, {}, {}, {}, {}, {}, {}, {}, {}, {}, {}, {}, {}, {}, {}, {}], tq := [], tAbandoned := []
    vq := [], vAbandoned := [], vDrains := [], vOuts := [], vGovf := false
    dq := [], dAbandoned := [], g0 := [], g1 := [], gAbandoned0 := [], gAbandoned1 := []
    reqs := [], quarantine := []
    xl := c.xl.filter fun e => !e.glb
    frc := [], frcNext := []
    vault := { c.vault with pend := c.vault.pend.filter fun a => match a.who with
      | .local _ => false
      | .remote _ _ _ => true } }

/-- The registers of a core that a compute-part reset changes: KIND of every FLAG_LAST, an armed scratchpad flip, VALID
of both fault records, and the locks of its four pages (R140, R174, R439, R499). -/
def Dev.resetRegs (s : Dev) (n : Nat) : Dev :=
  let s1 := (upFrom 0 64).foldl (fun (s : Dev) f => s.setFld (ra (corePg n 0) (0x500 + 4 * f)) 10 2 0) s
  let s2 := (((s1.setFld (ra (corePg n 1) 0x228) 31 1 0).clearRecord n .X).clearRecord n .A)
  (upFrom 0 4).foldl (fun (s : Dev) j => s.setLock (corePg n j) false) s2

/-- A core is reset; a pending chain is cancelled (R174). -/
def Dev.resetCore (s : Dev) (n : Nat) : Dev := ((s.cancelChain n).modCore n Core.afterReset).resetRegs n

/-- The reset epoch of a pod advances (R328); within 1 ms of the last advance the pod is held in reset until then. -/
def Pod.reset (p : Pod) : Pod :=
  if p.held then p
  else if p.recent then { p with held := true }
  else { p with epoch := (p.epoch + 1) % 16, recent := true }

/-- A compute-part reset of every pod of a partition (R499): its running collectives fail, its cores and epochs
change. -/
def Dev.computeReset (s : Dev) (P : Nat) : Dev :=
  let s1 := (s.coresOf P).foldl (fun (s : Dev) n => s.resetCore n) (s.collReset P)
  (s.podsOf P).foldl (fun (s : Dev) p => s.modPod p Pod.reset) s1

/-- A pod of the partition is held in reset. -/
def Dev.anyHeld (s : Dev) (P : Nat) : Bool := (s.podsOf P).any fun p => (s.pod p).held

end Sys2Proof.Machine
end

