-- ==== Sys2Proof/Machine/Host.lean ====
section
/-! DEFINITION. The host ports (R418 to R427, R434, R445, R446, R451): BAR2 apertures, host windows, configuration
requests, links. -/
namespace Sys2Proof.Machine
open Sys2Proof

/-! Apertures (R423, R424). -/

/-- AP[i] of a port for a BAR2 offset. -/
def Dev.aperture (s : Dev) (p : Port) (ofs : Nat) : Nat := s.regN (ra (pciePg p) (0x110 + 4 * (ofs / 2 ^ 32 % 16)))

/-- A BAR2 access that cannot be served (R424), which AER records; a read is completed Unsupported Request. -/
def Dev.bar2Ur (s : Dev) (p : Port) (ofs : Nat) (read : Bool) : Dev :=
  let pg := pciePg p
  let s1 := (s.modPort p fun q => { q with aerUr := q.aerUr || read, aerAdv := q.aerAdv || !read }).bump pg 4 1
  let s2 := if tb (s1.regN (ra pg 0x154)) 31 then s1
    else (s1.setReg (ra pg 0x150) (w32 ofs)).setReg (ra pg 0x154) (w32 (2 ^ 31 + ofs / 2 ^ 32 % 16))
  let s3 := s2.evt pg 3
  if read then s3.emit (.bar2Ur p ofs) else s3

/-- Where a device physical address of a PHYS aperture leads: a populated vault offset or a scratchpad offset of a core
of the partition (R424). -/
def Dev.physTarget (s : Dev) (P a len : Nat) : Option (Nat × Nat × Bool) :=
  match placeOf a with
  | .vault n o => if s.inPart P n && decide (o + len ≤ vaultSize) then some (n, o, false) else none
  | .spad n o => if s.inPart P n && decide (o + len ≤ spSize) then some (n, o, true) else none
  | _ => none

/-- Pieces of a byte range, none crossing a 256 B boundary (R425): offset and length. -/
def pieces256 (o len : Nat) : List (Nat × Nat) :=
  (upFrom (o / 256) ((o + len + 255) / 256 - o / 256)).map fun b =>
    let lo := max o (256 * b)
    (lo, min (o + len) (256 * b + 256) - lo)

/-- A BAR2 read leaves for its core in pieces; none while the port has too few tags. -/
def Dev.bar2Issue (s : Dev) (p : Port) (ofs len : Nat) (n o : Nat) (sp : Bool) : Option Dev :=
  let ps := pieces256 o len
  let base := if sp then spadAddr n 0 else vaultAddr n 0
  (lowTags (s.port p).tags ps.length).map fun ts =>
    let s1 := s.modPort p fun q => { q with
      tags := q.tags ++ ts
      reads := q.reads ++ [{ ofs := ofs, len := len, pieces := (ps.zip ts).map fun x =>
        { tag := x.2, skip := x.1.1 % 64 / 8, count := (wordsAt x.1.1 x.1.2).length } }] }
    (ps.zip ts).foldl (fun (s : Dev) x =>
      let sp := span64 x.1.1 (x.1.1 + x.1.2)
      s.inject { cls := .rdReq, vc := 1, dst := n, src := epPort p, tag := x.2, addr := base + sp.1, len := sp.2 })
      (s1.bump (pciePg p) 0 ps.length)

/-- A BAR2 write leaves for its core in pieces (R425); none while the port has too few tags. -/
def Dev.bar2Store (s : Dev) (p : Port) (ofs n o len : Nat) (sp : Bool) (data : List PWord) : Option Dev :=
  let items := blockItems 0 0 (payloadWrites o len data)
  let base := if sp then spadAddr n 0 else vaultAddr n 0
  (lowTags (s.port p).tags items.length).map fun ts =>
    (items.zip ts).foldl (fun (s : Dev) x =>
      let a := base + x.1.span.1
      s.inject { cls := .wrReq, vc := 1, dst := n, src := epPort p, tag := x.2, addr := a, len := x.1.span.2, writes := x.1.moved a })
      ((s.modPort p fun q => { q with
        tags := q.tags ++ ts, writes := q.writes ++ if ts.isEmpty then [] else [{ ofs := ofs, tags := ts }] }).bump
        (pciePg p) 1 ts.length)

/-- An access at a translated address goes on: a host window is not reached through an aperture (R424). -/
def Dev.bar2At (s : Dev) (p : Port) (P : Nat) (w : BWalk) (a : Nat) : Option Dev :=
  match s.physTarget P a w.len with
  | none => some (s.bar2Ur p w.ofs (!w.write))
  | some (n, o, sp) => if w.write then s.bar2Store p w.ofs n o w.len sp w.data else s.bar2Issue p w.ofs w.len n o sp

/-- A port's cached pages are kept by partition and virtual address. -/
def portKey (P va : Nat) : Nat := P * 2 ^ 48 + va

/-- A BAR2 access (R423, R424): at a physical address, through a cached page, or after a walk. None where the port cannot
take it in yet. -/
def Dev.bar2Access (s : Dev) (p : Port) (w : BWalk) : Option Dev :=
  let ap := s.aperture p w.ofs
  let P := fld ap 24 4
  let a := fld ap 0 16 * 2 ^ 32 + w.ofs % 2 ^ 32
  let ur := some (s.bar2Ur p w.ofs (!w.write))
  if !tb ap 31 ∨ 12 ≤ P ∨ s.ptState P ≠ 2 ∨ s.ptPort P ≠ p then ur
  else if !tb ap 30 then s.bar2At p P w a
  else if s.window P < a + w.len then ur
  else match xlFind (s.port p).xl false (portKey P a) with
    | none => some (s.modPort p fun q => { q with walks := q.walks ++ [{ w with va := a }] })
    | some e =>
      if w.write && !e.write then ur
      else (s.modPort p fun q => { q with xl := xlPut q.xl e }).bar2At p P w (e.addr + (portKey P a - e.base))

/-- BAR2_READ. -/
def execBar2Read (p : Port) (ofs : BitVec 36) (len : Nat) (s : State) : Host.Outcome State Fault Refusal :=
  .next (s.onDev fun d => if (d.port p).up then
    (d.bar2Access p { ofs := ofs.toNat, va := 0, len := len, write := false, data := [] }).getD d else d)

/-- Bytes as payload words, every one poisoned where the TLP says so (R425). -/
def bytesWordsOf (data : List Byte) (ep : Bool) : List PWord :=
  let v := leNat data
  (upFrom 0 (cdiv data.length 8)).map fun i => { data := w64 (v / 2 ^ (64 * i)), poison := ep }

/-- A TLP with EP set was received. -/
def Dev.poisonRx (s : Dev) (p : Port) (ep : Bool) : Dev := if ep then (s.bump (pciePg p) 8 1).evt (pciePg p) 6 else s

/-- BAR2_WRITE. -/
def execBar2Write (p : Port) (ofs : BitVec 36) (data : List Byte) (ep : Bool) (s : State) : Host.Outcome State Fault Refusal :=
  .next (s.onDev fun d => if (d.port p).up then
    ((d.poisonRx p ep).bar2Access p
      { ofs := ofs.toNat, va := 0, len := data.length, write := true, data := bytesWordsOf data ep }).getD d else d)

/-- The oldest waiting access of a port's walker takes its walk (R423, R434). -/
def Dev.portWalk (s : Dev) (p : Port) (late : Option Nat) : Dev :=
  match (s.port p).walks with
  | [] => s
  | w :: rest =>
    let P := fld (s.aperture p w.ofs) 24 4
    let r := s.walk P w.va late
    let done (d : Dev) : Dev := (d.modPort p fun q => { q with walks := rest }).bump (pciePg p) 11 1
    match r.1 with
    | .hold => s
    | .page e =>
      let d := (done r.2).modPort p fun q => { q with xl := xlPut q.xl { e with base := portKey P e.base } }
      if w.write && !e.write then d.bar2Ur p w.ofs false
      else (d.bar2At p P w (e.addr + (w.va - e.base))).getD s
    | _ => (done (r.2.walkLate P true r.1)).bar2Ur p w.ofs (!w.write)

/-- TRANSLATION_WALK: of a core or of a port. -/
def execTranslationWalk (who : Walker) (late : Option Nat) (s : State) : Host.Outcome State Fault Refusal :=
  .next (s.onDev fun d => match who with
    | .core n => if d.clocked n then d.coreWalk n late else d
    | .port p => d.portWalk p late)

/-- A BAR2 read whose pieces are all in is completed, in address order (R425). -/
def Dev.bar2Flush (s : Dev) (p : Port) : Dev :=
  let isDone (r : BRead) : Bool := r.pieces.all fun x => x.data.isSome
  let now := (s.port p).reads.filter isDone
  now.foldl (fun (s : Dev) r =>
    let ws := r.pieces.flatMap fun x => x.data.getD []
    let s1 := s.emit (.bar2 p r.ofs ws)
    if ws.any (·.poison) then (s1.bump (pciePg p) 9 1).evt (pciePg p) 5 else s1)
    (s.modPort p fun q => { q with reads := q.reads.filter fun r => !isDone r })

/-- A write once the part of tag `t` is answered; none where that was the last. -/
def BWrite.answered (t : Nat) (err : Bool) (w : BWrite) : Option BWrite :=
  if w.tags.elem t then
    let rest := w.tags.filter (· != t)
    if rest.isEmpty then none else some { w with tags := rest, bad := w.bad || err }
  else some w

/-- A response reaches a port. An access that several answers turn away counts once (R424). -/
def Dev.portResp (s : Dev) (p : Port) (r : Packet) : Dev :=
  let s := s.modPort p fun q => { q with tags := q.tags.filter (· != r.tag) }
  let mine (x : BRead) : Bool := x.pieces.any fun y => y.tag == r.tag
  match (s.port p).reads.find? mine with
  | some x =>
    if r.cls = .err then (s.modPort p fun q => { q with reads := q.reads.filter fun y => !mine y }).bar2Ur p x.ofs true
    else (s.modPort p fun q => { q with reads := q.reads.map fun y =>
      { y with pieces := y.pieces.map fun z => if z.tag == r.tag then { z with data := some ((r.data.drop z.skip).take z.count) } else z } }).bar2Flush
      p
  | none =>
    match (s.port p).writes.find? fun w => w.tags.elem r.tag with
    | some w =>
      let s1 := s.modPort p fun q => { q with writes := q.writes.filterMap (BWrite.answered r.tag (r.cls == .err)) }
      if r.cls = .err ∧ !w.bad then s1.bar2Ur p w.ofs false else s1
    | none => s

/-! Host windows (R426, R427). -/

/-- The port can serve its window. -/
def Dev.windowOpen (s : Dev) (p : Port) : Bool :=
  let q := s.port p
  tb (s.regN (ra (pciePg p) 0x104)) 0 && q.bme && q.dstate == 0 && q.up

/-- The host address of a window address. -/
def Dev.hostAddr (s : Dev) (p : Port) (a : Nat) : Nat :=
  s.regN (ra (pciePg p) 0x104) / 4096 * 2 ^ 44 + (a - 0xC00000000000) % 2 ^ 44

/-- A request to a host window (R427). A read is known to the host by the lowest number no other has. -/
def Dev.windowAt (s : Dev) (p : Port) (r : Packet) : Taken :=
  let l := (s.port p).hreads
  if !s.windowOpen p then .took { s with net := s.net ++ answers r .err errAbsent }
  else match r.cls with
    | .rwReq => .took { s with net := s.net ++ answers r .err errRefused }
    | .wrReq =>
      let out := r.writes.map fun (w : WWrite) => { w with addr := s.hostAddr p w.addr }
      .took (({ s with net := s.net ++ answers r .wrAck 0 }.emit (.hostWrite p out)).bump (pciePg p) 6 1)
    | _ =>
      let t := ((upFrom 0 (l.length + 1)).find? fun t => !(l.any fun h => h.htag == t)).getD 0
      .took (((s.modPort p fun q => { q with
        hreads := q.hreads ++ [{ tag := r.tag, src := r.src, epoch := r.epoch, htag := t, len := r.len }] }).emit
        (.hostRead p (s.hostAddr p r.addr) r.len t)).bump (pciePg p) 5 1)

/-- HOST_WINDOW_REQUEST: the packet of the Harness at a port. -/
def Dev.hostRequest (s : Dev) (k : Nat) (u : Upset) : Dev :=
  match s.net[k]? with
  | none => s
  | some r =>
    if r.cls ≠ .rdReq ∧ r.cls ≠ .wrReq ∧ r.cls ≠ .rwReq then s
    else s.deliver k r.cls u fun s r =>
      if r.dst = 0x410 then s.windowAt .A r else if r.dst = 0x411 then s.windowAt .B r else .wait

/-- HOST_WINDOW_REQUEST. -/
def execHostWindowRequest (k : Nat) (s : State) (u : Upset := {}) : Host.Outcome State Fault Refusal :=
  .next (s.onDev fun d => d.hostRequest k u)

/-- A read to the host ends with data or with ERR ABSENT. -/
def Dev.hostAnswer (s : Dev) (p : Port) (h : HRead) (data : Option (List PWord)) : Dev :=
  let s1 := s.modPort p fun q => { q with hreads := q.hreads.filter fun x => x.htag != h.htag }
  let r : Packet := { cls := .err, vc := 2, dst := h.src, src := epPort p, epoch := h.epoch, tag := h.tag, len := h.len, code := errAbsent }
  s1.inject (match data with
    | some ws => { r with cls := .rdRsp, code := 0, data := ws }
    | none => r)

/-- HOST_COMPLETION (R427). -/
def execHostCompletion (p : Port) (tag : Nat) (ok ep : Bool) (data : List DWord) (s : State) : Host.Outcome State Fault Refusal :=
  .next (s.onDev fun d => match (d.port p).hreads.find? fun h => h.htag == tag with
    | none => d
    | some h => (d.poisonRx p ep).hostAnswer p h (if ok then some (data.map fun w => ⟨w, ep⟩) else none))

/-- CPL_TIMEOUT (R427, R446). -/
def execCplTimeout (p : Port) (tag : Nat) (s : State) : Host.Outcome State Fault Refusal :=
  .next (s.onDev fun d => match (d.port p).hreads.find? fun h => h.htag == tag with
    | none => d
    | some h => ((d.hostAnswer p h none).bump (pciePg p) 7 1).evt (pciePg p) 4)

/-! Holes, links, configuration. -/

/-- HOLE_ACCESS (R422): a read returns all ones, a write is ignored; counted where the port does not see the page. -/
def Dev.holeAccess (s : Dev) (p : Port) (addr : Nat) (write : Bool) : Dev :=
  if !(s.port p).up ∨ s.visible p (addr / 4096) then s
  else
    let s1 := ((s.bump (pciePg p) 2 1).critSeen (s.gateKeys (.host p) (addr / 4096))).bump (pciePg p) 3 1
    if write then s1 else s1.emit (.bar0 p addr (BitVec.allOnes 32))

/-- HOLE_ACCESS. -/
def execHoleAccess (p : Port) (addr : BitVec 24) (write : Bool) (s : State) : Host.Outcome State Fault Refusal :=
  .next (s.onDev fun d => d.holeAccess p addr.toNat write)

/-- What an answer from a port's configuration space holds of what the spec gives it (R3, R418, R424): IDs, class code and
Revision ID, Subsystem IDs, and AER's two records. -/
def PciePort.cfgWords (q : PciePort) : List Word :=
  [0x06721F7C#32, 0x12000020#32, q.subsystem, w32 (b2n q.aerUr), w32 (b2n q.aerAdv)]

/-- A configuration request (R418, R432, R451): Request Retry Status before release and during a port reset. -/
def Dev.configReq (s : Dev) (p : Port) (bme : Option Bool) (dstate : Option (BitVec 2)) : Dev :=
  if !s.pwrok || s.tripped || (s.port p).perst || (s.port p).off then s
  else if !s.released || (s.port p).resetting then s.emit (.cfg p true [])
  else
    let s1 := s.modPort p fun q => { q with bme := bme.getD q.bme, dstate := match dstate with
      | some d => if d = 0 ∨ d = 3 then d else q.dstate
      | none => q.dstate }
    s1.emit (.cfg p false (s1.port p).cfgWords)

/-- CONFIGURATION_REQUEST. -/
def execConfigurationRequest (p : Port) (bme : Option Bool) (dstate : Option (BitVec 2)) (s : State) : Host.Outcome State Fault Refusal :=
  .next { s with dev := s.dev.configReq p bme dstate }

/-- PCIE_LINK_UP (R418, R445). -/
def Dev.pcieUp (s : Dev) (p : Port) (width speed : Nat) : Dev :=
  let q := s.port p
  if !s.pwrok || s.tripped || q.perst || q.off || q.up || !([1, 2, 4, 8].elem width) || speed == 0 || decide (6 < speed) then s
  else (s.modPort p fun q => { q with up := true, width := width, speed := speed, cold := false }).evt (pciePg p) 1

/-- PCIE_LINK_UP. -/
def execPcieLinkUp (p : Port) (width speed : Nat) (s : State) : Host.Outcome State Fault Refusal :=
  .next { s with dev := s.dev.pcieUp p width speed }

/-- PERST_RELEASE (R453). -/
def execPerstRelease (p : Port) (s : State) : Host.Outcome State Fault Refusal :=
  .next { s with dev := s.dev.modPort p fun q => { q with perst := false, cold := false } }

end Sys2Proof.Machine
end

