-- ==== Sys2Proof/Machine/Scratch.lean ====
section
/-! DEFINITION. The scratchpad's own work: wipes, scrubbing, write-backs, flips, and the division of its space
(R128, R131 to R139). -/
namespace Sys2Proof.Machine
open Sys2Proof

/-- A write of SP_WIPE (R133). -/
def Dev.spWipe (s : Dev) (n : Nat) : Dev :=
  if (s.core n).running then s else s.modCore n fun c => { c with spWiping := true }

/-- SP_WIPE. -/
def execSpWipe (w : Writer) (core : Nat) (s : State) : Host.Outcome State Fault Refusal :=
  .next (s.onDev fun d => d.regAccess w (corePg core 1) fun d => d.spWipe core)

/-- Every valid bit of the scratchpad and of the instruction memories cleared (R133, R154). -/
def Core.wipeSp (c : Core) : Core := { c with sp := [], imemX := [], imemA := [], spWb := [], spWiping := false }

/-- SP_WIPE_DONE (R133). -/
def execSpWipeDone (core : Nat) (s : State) : Host.Outcome State Fault Refusal :=
  .next (s.onCore core fun d => if (d.core core).spWiping then (d.modCore core Core.wipeSp).evt (corePg core 1) 8 else d)

/-- The scrubber reads its next word (R132). -/
def Dev.spScrub (s : Dev) (n : Nat) : Dev :=
  if tb (s.regN (ra (corePg n 1) 0x210)) 16 then
    let i := (s.core n).spScrubPos
    (s.spNote1 n i).modCore n fun c => { c with spScrubPos := (i + 1) % (spSize / 8) }
  else s

/-- SP_SCRUB. -/
def execSpScrub (core : Nat) (s : State) : Host.Outcome State Fault Refusal :=
  .next (s.onCore core fun d => d.spScrub core)

/-- The bank of a scratchpad word (R127). -/
def spBank (i : Nat) : Nat := i / 2 % 32

/-- The first pending write-back that `want` accepts is done (R131): no flip is applied to it (R134). -/
def Core.spBack (c : Core) (want : Nat → Bool) : Core :=
  match c.spWb.find? fun p => want p.1 with
  | some p => { c with sp := mset noWord c.sp p.1 p.2, spWb := c.spWb.filter fun q => q.1 != p.1 }
  | none => c

/-- SP_WRITEBACK (R131). -/
def execSpWriteback (core : Nat) (s : State) : Host.Outcome State Fault Refusal :=
  .next (s.onCore core fun d => d.modCore core fun c => c.spBack fun _ => true)

/-- SP_BANK_BACKGROUND (R128): a bank that had no free cycle takes one for its waiting write-back. -/
def execSpBankBackground (core bank : Nat) (s : State) : Host.Outcome State Fault Refusal :=
  .next (s.onCore core fun d => d.modCore core fun c => c.spBack fun i => spBank i == bank)

/-- A write of SP_FLIP_CHK (R134). -/
def Dev.spFlipArm (s : Dev) (n : Nat) (v : Word) : Dev :=
  let k := ra (corePg n 1) 0x228
  s.setReg k ((v &&& 0x8000FFFF#32) ||| (s.reg k &&& 0x80000000#32))

/-- SP_FLIP_ARM. -/
def execSpFlipArm (w : Writer) (core : Nat) (v : Word) (s : State) : Host.Outcome State Fault Refusal :=
  .next (s.onDev fun d => d.regAccess w (corePg core 1) fun d => d.spFlipArm core v)

/-- Movement work of a core is in flight (R137). -/
def Core.moving (c : Core) : Bool :=
  !c.dq.isEmpty || !c.g0.isEmpty || !c.g1.isEmpty || c.reqs.any fun r => decide (5 ≤ r.eng)

/-- The judgment of an SP_CARVE write (R137): 0 OK, 1 CONFLICT, 2 RUNNING, 3 INVALID. -/
def carveJudge (c : Core) (v : Nat) : Nat :=
  if 24 < fld v 0 5 ∨ 16 < fld v 8 5 ∨ fld v 16 2 = 3 ∨ fld v 20 2 = 3 then 3
  else if c.active || c.moving then 2
  else if 32 < fld v 0 5 + fld v 8 5 ∨ 2 < fld v 16 2 + fld v 20 2 then 1
  else 0

/-- The bytes in exactly one of two ranges. -/
def rangesXor (a b : Nat × Nat) : List (Nat × Nat) :=
  let l := if a.2 ≤ b.1 ∨ b.2 ≤ a.1 ∨ a.1 = a.2 ∨ b.1 = b.2 then [a, b]
    else [(min a.1 b.1, max a.1 b.1), (min a.2 b.2, max a.2 b.2)]
  l.filter fun p => decide (p.1 < p.2)

/-- A write of SP_CARVE is judged and, when OK, takes effect; the space that enters or leaves the carve-out begins
to be cleared (R137, R138). -/
def Dev.carveNow (s : Dev) (n : Nat) (v : Word) : Dev :=
  let pg := corePg n 1
  let r := carveJudge (s.core n) v.toNat
  let s1 := s.setReg (ra pg 0x204) (w32 r)
  if r = 0 then
    let old := s.carve n
    let s2 := s1.setReg (ra pg 0x200) (v &&& 0x331F1F#32)
    let rs := rangesXor old (s2.carve n)
    s2.modCore n fun c => { c with carveClear := rs, frc := if rs.isEmpty then c.frc else [] }
  else (s1.bump pg 14 1).evt pg 7

/-- A write of SP_CARVE: it waits behind a clear in progress (R138), and a locked page ignores it (R14). -/
def Dev.carveWrite (s : Dev) (n : Nat) (v : Word) : Dev :=
  if s.locked (corePg n 1) then s
  else if (s.core n).carveClear.isEmpty then s.carveNow n v
  else s.modCore n fun c => { c with carveWait := c.carveWait ++ [v] }

/-- SP_CARVE_WRITE. -/
def execSpCarveWrite (w : Writer) (core : Nat) (v : Word) (s : State) : Host.Outcome State Fault Refusal :=
  .next (s.onDev fun d => d.regAccess w (corePg core 1) fun d => d.carveWrite core v)

/-- Waiting SP_CARVE writes are judged in order until one starts a clear (R138). -/
def Dev.carveRest (s : Dev) (n : Nat) : List Word → Dev
  | [] => s.modCore n fun c => { c with carveWait := [] }
  | v :: l =>
    let s1 := s.carveNow n v
    if (s1.core n).carveClear.isEmpty then s1.carveRest n l
    else s1.modCore n fun c => { c with carveWait := l }

/-- The clear ends: the words of the space hold nothing, and waiting writes are judged (R138). -/
def Dev.carveDone (s : Dev) (n : Nat) : Dev :=
  let c := s.core n
  if c.carveClear.isEmpty then s
  else
    (s.modCore n fun c => { c with
      sp := c.carveClear.foldl (fun m p => mclear m (p.1 / 8) (p.2 / 8)) c.sp
      spWb := c.spWb.filter (fun q => !c.carveClear.any fun p => decide (p.1 ≤ 8 * q.1) && decide (8 * q.1 < p.2))
      carveClear := [] }).carveRest n c.carveWait

/-- CARVE_CLEAR_DONE. -/
def execCarveClearDone (core : Nat) (s : State) : Host.Outcome State Fault Refusal :=
  .next (s.onCore core fun d => d.carveDone core)

end Sys2Proof.Machine
end

