-- ==== Sys2Proof/Machine/Harness.lean ====
section
/-! DEFINITION. Packets where they arrive (R308 to R331): requests at a core, combining, responses at their requester,
and the request timeout (R488). -/
namespace Sys2Proof.Machine
open Sys2Proof

/-! Requests at a core. -/

/-- What a core does with a request for its memory. -/
inductive Door where
  /-- It waits: the memory is held, or the clocks stand still (R39, R133, R515). -/
  | wait
  /-- No such place (R25, R327, R359). -/
  | absent
  /-- Refused (R69, R139). -/
  | refused (reserve : Bool)
  /-- Served at a scratchpad or vault offset. -/
  | spad (o : Nat)
  | vault (o : Nat)
  deriving DecidableEq, Repr

/-- The memory a device physical address means at the core that got it, and its offset (a multicast's address names no
core of its own). -/
def localOf (a : Nat) : Bool × Nat := if 0x400000000000 ≤ a then (true, a % 0x100000) else (false, a % 0x8000000)

/-- The door of core `n` for `len` bytes at an address, of a read or of a write to the offsets given. -/
def Dev.door (s : Dev) (n a len : Nat) (writes : Option (List WWrite)) : Door :=
  let l := localOf a
  let lo := match writes with
    | some ws => ws.foldl (fun m w => min m (w.addr / 8 * 8)) (l.2 + len)
    | none => l.2
  let hi := match writes with
    | some ws => ws.foldl (fun m w => max m (w.addr / 8 * 8 + 8)) l.2
    | none => l.2 + len
  if (s.pod (podOf n)).gated then .wait
  else if l.1 then
    if spSize < hi then .absent
    else if (s.core n).spHeld lo (hi - lo) then .wait
    else if s.inCarve n lo (hi - lo) then .refused false
    else if writes.isSome && (s.core n).running && decide (s.reserve n < hi) then .refused true
    else .spad lo
  else if vaultSize < hi then .absent
  else match s.vaultGate n lo with
    | .hold => .wait
    | .absent => .absent
    | .ok => .vault lo

/-- An answer of core `n`: it has no such place. -/
def Dev.absentHere (s : Dev) (n : Nat) (p : Packet) : Dev :=
  let s1 := { s with net := s.net ++ answers p .err errAbsent }
  let l := localOf p.addr
  if l.1 then s1 else s1.absentVault n l.2

/-- An answer of core `n`: the write or read is refused (R69, R139). -/
def Dev.refusedHere (s : Dev) (n : Nat) (p : Packet) (reserve : Bool) : Dev :=
  let s1 := s.refusedAt n p
  if reserve then (s1.bump (corePg n 1) 15 1).evt (corePg n 1) 10 else s1

/-- Core `n` has a place for one more remote request of its vault offset `o` (R343). -/
def Core.intakeRoom (c : Core) (o : Nat) : Bool :=
  let l := c.vault.pend.filter fun a => match a.who with
    | .local _ => false
    | .remote _ _ _ => true
  decide (l.length < 64) && decide ((l.filter fun a => bankOf a.off == bankOf o).length < 16)

/-- A read request at core `n` (R313, R342); `s` is without the packet. -/
def Dev.readAt (s : Dev) (n : Nat) (p : Packet) : Taken :=
  if s.podGone (podOf n) then .took (s.absentAt (podOf n) p)
  else match s.door n p.addr p.len none with
    | .wait => .wait
    | .absent => .took (s.absentHere n p)
    | .refused r => .took (s.refusedHere n p r)
    | .spad o =>
      let q := s.spRead n (wordsAt o p.len)
      .took (q.2.inject (respond p .rdRsp 0 q.1 []))
    | .vault o =>
      if !(s.core n).intakeRoom o then .head
      else .took (s.modVault n fun v => { v with pend := v.pend ++
        [{ who := .remote p.src p.epoch p.tag, off := o, kind := 4, gaddr := p.addr,
           raw := (wordsAt o p.len).map fun i => mget noWord v.mem i }] })

/-- A request for another endpoint than a core is HOST_WINDOW_REQUEST's or REMOTE_ACCESS's. -/
def atCore (p : Packet) (f : Nat → Taken) : Taken := if p.dst < Config.cores then f p.dst else .wait

/-- RD_REQ. -/
def Dev.rdReq (s : Dev) (k : Nat) (u : Upset) : Dev := s.deliver k .rdReq u fun s p => atCore p fun n => s.readAt n p

/-- RD_REQ. -/
def execRdReq (k : Nat) (u : Upset) (s : State) : Host.Outcome State Fault Refusal := .next (s.onDev fun d => d.rdReq k u)

/-- The writes of a request, at a core's memory: what results, and whether an FX addition saturated. -/
def Dev.putWrites (s : Dev) (n op : Nat) (sp : Bool) (o : Nat) (ws : List WWrite) : Dev × Bool :=
  if sp then rwAll (fun s w => s.spRw n op w) s ws else rwAll (fun s w => s.vRw n op w) (s.openRow n o) ws

/-- A write's addresses as offsets of the memory it reaches. -/
def localWrites (ws : List WWrite) : List WWrite := ws.map fun w => { w with addr := (localOf w.addr).2 }

/-- A write request at core `n` (R313, R324): a mark sends the core's notice before any acknowledgement. -/
def Dev.writeAt (s : Dev) (n : Nat) (p : Packet) : Taken :=
  let ws := localWrites p.writes
  let store (sp : Bool) (o : Nat) : Taken :=
    let q := s.putWrites n p.op sp o ws
    let s2 := if p.mark || q.2 then q.1.notice n else q.1
    .took { s2 with net := s2.net ++ answers p .wrAck 0 }
  if s.podGone (podOf n) then .took (s.absentAt (podOf n) p)
  else match s.door n p.addr p.len (some ws) with
    | .wait => .wait
    | .absent => .took (s.absentHere n p)
    | .refused r => .took (s.refusedHere n p r)
    | .spad o => store true o
    | .vault o => if (s.core n).intakeRoom o then store false o else .head

/-- WR_REQ. -/
def Dev.wrReq (s : Dev) (k : Nat) (u : Upset) : Dev := s.deliver k .wrReq u fun s p => atCore p fun n => s.writeAt n p

/-- WR_REQ. -/
def execWrReq (k : Nat) (u : Upset) (s : State) : Host.Outcome State Fault Refusal := .next (s.onDev fun d => d.wrReq k u)

/-- RW_REQ. -/
def Dev.rwReq (s : Dev) (k : Nat) (u : Upset) : Dev := s.deliver k .rwReq u fun s p => atCore p fun n => s.writeAt n p

/-- RW_REQ. -/
def execRwReq (k : Nat) (s : State) (u : Upset := {}) : Host.Outcome State Fault Refusal := .next (s.onDev fun d => d.rwReq k u)

/-! Combining (R322, R323). -/

/-- A write of the survivor's payload combined with the arriving one's of the same word. -/
def combineWord (op : Nat) (a : WWrite) (bs : List WWrite) : WWrite × Bool :=
  match bs.find? fun b => b.addr / 8 == a.addr / 8 with
  | none => (a, false)
  | some b =>
    let both := a.mask &&& b.mask
    let r := rwWord op a.data b.data both
    ({ a with mask := a.mask ||| b.mask, data := (r.1 &&& a.mask) ||| (b.data &&& b.mask &&& ~~~a.mask),
              poison := a.poison || b.poison }, r.2)

/-- The payloads of two reduce-writes as one. -/
def combineWrites (op : Nat) (a b : List WWrite) : List WWrite × Bool :=
  let rs := a.map fun w => combineWord op w b
  (rs.map (·.1) ++ b.filter (fun w => !(a.any fun x => x.addr / 8 == w.addr / 8)), rs.any (·.2))

/-- The combined packet: the arriving source and its contributors join the survivor's. -/
def combinePkt (p q : Packet) : Packet :=
  let r := combineWrites p.op p.writes q.writes
  { p with writes := r.1, mark := p.mark || q.mark || r.2, con := p.con ++ (q.src, q.epoch, q.tag) :: q.con }

/-- Router `pod` may combine packet `q`, which arrives, with the queued `p` (R322): both pass it, neither has left it behind
when it last absorbed another; packets to one destination leave it by one port. -/
def Dev.mayCombine (s : Dev) (pod : Nat) (p q : Packet) : Bool :=
  let ctl := s.regN (ra (podPg pod) 0x100)
  let passes (x : Packet) : Bool := ((x.way x.dst).drop x.hop).elem pod
  p.cls == .rwReq && q.cls == .rwReq && p.dst == q.dst && p.addr == q.addr && p.len == q.len && p.op == q.op
    && decide (p.con.length + 1 + q.con.length ≤ 7) && tb ctl 0 && (decide (4 ≤ p.op) || tb ctl 1) && passes p && passes q

/-- COMBINE: packet `j`, which arrives, is absorbed by packet `i`, which waits and keeps its place. It has come as far as the
router, and no packet between the two may be overtaken by what shares a source with it (R313). -/
def Dev.combine (s : Dev) (pod i j : Nat) : Dev :=
  match s.net[i]?, s.net[j]? with
  | some p, some q =>
    let between := (s.net.take (max i j)).drop (min i j + 1)
    if i != j && s.mayCombine pod p q && between.all fun x => !x.ahead q q.dst then
      let at_ (x : Packet) : Nat := ((x.way x.dst).takeWhile (· != pod)).length
      let s1 := { s with net := ldel (lset s.net i { combinePkt p q with hop := at_ p }) j }
      ((s1.fromCore q.src q.flits).hops q.flits ((q.way q.dst).take (at_ q + 1))).bump (podPg pod) (if 4 ≤ p.op then 6 else 7) 1
    else s
  | _, _ => s

/-- COMBINE. -/
def execCombine (pod i j : Nat) (s : State) : Host.Outcome State Fault Refusal := .next (s.onDev fun d => d.combine pod i j)

/-! Flags and multicast. -/

/-- A FLAG_OP at its core (R315): FLAG_LAST records the source core; one of a collective unit records the core itself
(R403). -/
def Dev.flagAt (s : Dev) (n : Nat) (p : Packet) : Taken :=
  if s.podGone (podOf n) then .took (s.absentAt (podOf n) p)
  else if (s.pod (podOf n)).gated then .wait
  else
    .took (((s.flagTo n (p.addr % 64) (p.op == 1) 2 (if p.src < Config.cores then p.src else n)).bump (corePg n 0) 7 1).inject
      (respond p .flagAck 0 [] []))

/-- FLAG_OP. -/
def Dev.flagOp (s : Dev) (k : Nat) (u : Upset) : Dev := s.deliver k .flagOp u fun s p => atCore p fun n => s.flagAt n p

/-- FLAG_OP. -/
def execFlagOp (k : Nat) (s : State) (u : Upset := {}) : Host.Outcome State Fault Refusal := .next (s.onDev fun d => d.flagOp k u)

/-- A copy of a multicast write reaches core `n`: a shoot-down (R293) or a collective's result (R403); the core's error code
with it (R320, R327). None where it has to wait. -/
def Dev.mcCopy (s : Dev) (p : Packet) (n : Nat) : Option (Dev × Nat) :=
  let ws := localWrites p.writes
  let store (sp : Bool) (o : Nat) : Option (Dev × Nat) :=
    let q := s.putWrites n 0 sp o ws
    some (if p.mark then q.1.notice n else q.1, 0)
  if s.podGone (podOf n) then some (s.absentMark (podOf n), errAbsent)
  else if p.op = 1 then
    if (s.pod (podOf n)).gated then none
    else some (s.modCore n fun c => c.shootDown (lget 0 p.info 0), 0)
  else match s.door n p.addr p.len (some ws) with
    | .wait => none
    | .absent => some (if (localOf p.addr).1 then s else s.absentVault n (localOf p.addr).2, errAbsent)
    | .refused r =>
      let s1 := s.bump (podPg (podOf n)) 10 1
      some (if r then (s1.bump (corePg n 1) 15 1).evt (corePg n 1) 10 else s1, errRefused)
    | .spad o => store true o
    | .vault o => if (s.core n).intakeRoom o then store false o else none

/-- The copy waits at the head of the core's intake for a place of its bank (R343). -/
def Dev.mcStuck (s : Dev) (k n : Nat) : Bool :=
  match s.arrivedAt k .mcWr n with
  | none => false
  | some p => p.op != 1 && !s.podGone (podOf n) && match s.door n p.addr p.len (some (localWrites p.writes)) with
    | .vault o => !(s.core n).intakeRoom o
    | _ => false

/-- MC_WR: the copy for core `n`. -/
def Dev.mcWr (s : Dev) (k n : Nat) (u : Upset) : Dev :=
  if s.mcStuck k n then
    { s with net := s.net.zipIdx.map fun x => if x.2 = k then { x.1 with stuck := n :: x.1.stuck.filter (· != n) } else x.1 }
  else s.deliverMc k .mcWr n u fun s p => s.mcCopy p n

/-- MC_WR. -/
def execMcWr (k core : Nat) (s : State) (u : Upset := {}) : Host.Outcome State Fault Refusal := .next (s.onDev fun d => d.mcWr k core u)

/-! Responses. -/

/-- The engine's head waits for the answer of this lookup or write. -/
def Core.awaits (c : Core) (r : Req) : Bool :=
  decide (r.eng < 3) && match c.headJob r.eng with
    | some j => j.wait == .rsp r.tag || j.wait == .lookup r.tag
    | none => false

/-- The access that request `r` of an engine's head stands for, kind and address, and whether it writes: the first word a
read was asked for, the next word or the write that a lookup was for, the write at hand. -/
def Core.accessOf (c : Core) (r : Req) : Nat × Nat × Bool :=
  match c.headJob r.eng with
  | none => (r.kind, r.gaddr, false)
  | some j =>
    let word : Option (Nat × Nat) := match r.cls with
      | .rdReq => j.needs.find? fun w => w.1 == r.kind && decide (r.gaddr ≤ w.2) && decide (w.2 < r.gaddr + r.len)
      | .lookup => j.needs.find? fun w => !c.asked r.eng w
      | _ => none
    match word, j.items[j.wdone]? with
    | some w, _ => (w.1, w.2, false)
    | none, some it => (it.kind, (match it.ws with
      | w :: _ => w.addr
      | [] => it.block), true)
    | none, none => (r.kind, r.gaddr, false)

/-- A Block Owner Table entry arrives (R292): a valid one is cached, an invalid one faults the access (R291, R297). One that
a shoot-down has overtaken is asked for again (R293). -/
def Dev.lookupIn (s : Dev) (n : Nat) (r : Req) (e : DWord) : Dev :=
  let waits := (s.core n).awaits r
  let go (s : Dev) : Dev := if waits then (s.modJob n r.eng fun j => { j with wait := .none }).advance n r.eng else s
  if r.stale then go s
  else if !(e.getLsbD 0 && decide (fld e.toNat 38 6 ≤ 47)) then
    if r.eng = 5 then s.runaheadDrop n
    else if waits then
      let w := (s.core n).accessOf r
      s.jobFault n r.eng 0x3A w.1 w.2.1 0 w.2.2 false
    else s
  else go (s.modCore n fun c => { c with xl := xlPut c.xl (botXl r.gaddr e) })

/-- Data of a read arrives: into the far-read cache where it fetched a line (R294), and to the engine. -/
def Dev.dataIn (s : Dev) (n : Nat) (r : Req) (ws : List PWord) : Dev :=
  let s1 := match r.line with
    | some l => if r.stale then s else s.frcFill n l ws
    | none => s
  if r.eng = 5 then s1.bump (corePg n 3) 10 1
  else if r.eng < 3 then (s1.stageJob n r.eng r.kind r.gaddr ws).advance n r.eng
  else s1

/-- The line that an answer brings has to wait: its place in the carve-out is being cleared (R133, R138). -/
def Dev.fillHeld (s : Dev) (n : Nat) (p : Packet) : Bool :=
  let c := s.carve n
  p.cls == .rdRsp && (s.core n).spHeld c.1 (c.2 - c.1) && match s.answered n p with
    | some r => r.line.isSome && !r.stale
    | none => false

/-- A write of the head instruction is acknowledged (R279). -/
def Dev.ackIn (s : Dev) (n : Nat) (r : Req) : Dev :=
  if !(s.core n).awaits r then s
  else match (s.core n).headJob r.eng with
    | none => s
    | some j => match j.items[j.wdone]? with
      | some it => (s.itemDone n r.eng it).advance n r.eng
      | none => s

/-- An error, or the timeout, ends a request (R297, R318, R488): the cause of the fault. -/
def Dev.errIn (s : Dev) (n : Nat) (r : Req) (cause : Nat) : Dev :=
  if r.cls = .flagOp then
    s.faultEnd n (if r.eng = 3 then .X else .A) { cause := cause, slot := 0, pc := r.pc, engine := 0 }
  else if r.eng = 5 then s.runaheadDrop n
  else if r.eng < 3 ∧ (r.cls = .rdReq ∨ (s.core n).awaits r) then
    let w := (s.core n).accessOf r
    s.jobFault n r.eng cause w.1 w.2.1 0 w.2.2 false
  else s

/-- A response at core `n`: discarded (R328, R330), or taken. -/
def Dev.respAt (s : Dev) (n : Nat) (p : Packet) : Taken :=
  if (s.pod (podOf n)).gated || s.fillHeld n p then .wait
  else match s.answered n p with
    | none => .took (s.discard n p)
    | some r =>
      let s2 := s.closeReq n r.tag
      .took (match p.cls with
        | .rdRsp => if r.cls = .lookup then s2.lookupIn n r (lget {} p.data 0).data else s2.dataIn n r p.data
        | .wrAck => s2.ackIn n r
        | .err => s2.errIn n r (if p.code = errRefused then 0x3C else 0x3B)
        | _ => s2)

/-- A response of a class arrives at the endpoint it is for. -/
def Dev.respIn (s : Dev) (k : Nat) (cls : PCls) (u : Upset) : Dev :=
  s.deliver k cls u fun s p =>
    if p.dst < Config.cores then s.respAt p.dst p
    else if 0x400 ≤ p.dst ∧ p.dst < 0x408 then .took (s.linkResp (p.dst - 0x400) p)
    else if p.dst = 0x410 then .took (s.portResp .A p)
    else if p.dst = 0x411 then .took (s.portResp .B p)
    else .took s

/-- RD_RSP. -/
def execRdRsp (k : Nat) (s : State) (u : Upset := {}) : Host.Outcome State Fault Refusal := .next (s.onDev fun d => d.respIn k .rdRsp u)
/-- FLAG_ACK. -/
def execFlagAck (k : Nat) (s : State) (u : Upset := {}) : Host.Outcome State Fault Refusal := .next (s.onDev fun d => d.respIn k .flagAck u)
/-- WR_ACK. -/
def execWrAck (k : Nat) (s : State) (u : Upset := {}) : Host.Outcome State Fault Refusal := .next (s.onDev fun d => d.respIn k .wrAck u)
/-- MC_ACK (R320). -/
def execMcAck (k : Nat) (s : State) (u : Upset := {}) : Host.Outcome State Fault Refusal := .next (s.onDev fun d => d.respIn k .mcAck u)
/-- ERR. -/
def execErr (k : Nat) (s : State) (u : Upset := {}) : Host.Outcome State Fault Refusal := .next (s.onDev fun d => d.respIn k .err u)

/-! The request timeout (R488, R489). -/

/-- A request is ended by its timeout: its tag and its slot stay in quarantine (R330). -/
def Dev.quarantine (s : Dev) (n : Nat) (r : Req) : Dev :=
  (s.closeReq n r.tag).modCore n fun c => { c with quarantine := c.quarantine ++ [r] }

/-- A read is sent again under a new tag. -/
def Dev.reissue (s : Dev) (n t : Nat) (r : Req) : Dev :=
  let s1 := (s.quarantine n r).request n t r.eng
    { cls := r.cls, vc := 1, dst := r.dst, src := n, addr := r.addr, len := r.len, info := r.info } r.kind r.gaddr r.pc true r.line
  if (s.core n).awaits r then s1.modJob n r.eng fun j => { j with wait := .lookup t } else s1

/-- The timer of an outstanding request of core `n` expires. A read that finds no free tag or slot waits to be sent again. -/
def Dev.coreTimeout (s : Dev) (n tag : Nat) : Dev :=
  match (s.core n).reqs.find? fun r => r.tag == tag with
  | none => s
  | some r =>
    let P := s.corePart n
    let count (s : Dev) (i : Nat) : Dev := if P < 12 then s.bump (pctlPg P) i 1 else s
    let again := (r.cls == .rdReq || r.cls == .lookup) && decide (r.eng < 3) && !r.reissued && tb (s.regN (ra (pctlPg P) 0x208)) 2
    if again then
      match (s.core n).freeTag, (s.core n).slotHold n r.bank with
      | some t, none => count (count (s.reissue n t r) 5) 6
      | _, _ => s
    else
      (count (s.quarantine n r) 5).errIn n r 0x3D

/-- HARNESS_REQUEST_TIMEOUT: of a core, or of a request that a link port serves for another part (R387). -/
def Dev.reqTimeout (s : Dev) (n tag : Nat) : Dev :=
  if n < Config.cores then s.coreTimeout n tag
  else if n < 0x400 then s
  else match (s.link (n - 0x400)).serves.find? fun v => v.tag == tag with
    | some v => s.serveBack (n - 0x400) v 3 []
    | none => s

/-- HARNESS_REQUEST_TIMEOUT. -/
def execHarnessRequestTimeout (core tag : Nat) (s : State) : Host.Outcome State Fault Refusal :=
  .next (s.onDev fun d => d.reqTimeout core tag)

end Sys2Proof.Machine
end

