-- ==== Sys2Proof/Machine/Power.lean ====
section
/-! DEFINITION. The power manager (R35 to R39, R507 to R520, R527) and the lending of power shares (R332 to R334,
R516). -/
namespace Sys2Proof.Machine
open Sys2Proof

/-! Lending. -/

/-- A stream that does not hold its core's share back: not RUNNING, or idle past the threshold (R332). -/
def Stream.lends (t : Stream) : Bool := t.st != .running || t.lendable

/-- The share of core `n` is lendable (R332). -/
def Dev.coreLendable (s : Dev) (n : Nat) : Bool := (s.core n).x.lends && (s.core n).a.lends

/-- Lendable cores of a pod, by slot (R332, R336). -/
def Dev.lendable (s : Dev) (p : Nat) : BitVec 8 :=
  (upFrom 0 8).foldl (fun (v : BitVec 8) k => if s.coreLendable (8 * p + k) then set8 v k else v) 0

/-- Lendable cores that the router reports to the power manager: with RT_CTL.LEND = 1 (R332). -/
def Dev.lendReport (s : Dev) (p : Nat) : BitVec 8 :=
  if tb (s.regN (ra (podPg p) 0x100)) 2 then s.lendable p else 0

/-- The lending timer of a stream reaches RT_LEND_THR (R332): of one that did not issue in its last core cycle, since one
that is able to issue does, and its timer starts anew (R334). -/
def Dev.lendThreshold (s : Dev) (n : Nat) (i : StreamId) : Dev :=
  if (s.core n).waitOver i then s
  else s.modStrm n i fun t => if t.st = .running ∧ t.waiting then { t with lendable := true } else t

/-- LEND_THRESHOLD. -/
def execLendThreshold (core : Nat) (i : StreamId) (s : State) : Host.Outcome State Fault Refusal :=
  .next (s.onDev fun d => d.lendThreshold core i)

/-- The stream runs and nothing but its share holds it: it waits for the share, or has not tried to issue yet (R333). -/
def Core.ableToIssue (c : Core) (i : StreamId) : Bool :=
  let t := c.strm i
  t.st == .running && (!t.waiting || t.cause == 14 || c.waitOver i)

/-- A stream of a lent core became able to issue, or a START or RESUME arrived: the router sends a reclaim message (R333). -/
def Dev.reclaim (s : Dev) (n : Nat) : Dev :=
  if s.shareLent n && ((s.core n).ableToIssue .X || (s.core n).ableToIssue .A) then
    s.modPod (podOf n) fun p => { p with reclaiming := set8 p.reclaiming (n % 8) }
  else s

/-- RECLAIM. -/
def execReclaim (core : Nat) (s : State) : Host.Outcome State Fault Refusal := .next (s.onDev fun d => d.reclaim core)

/-- Borrowers are lowered one step each, the last raised first, until `short` is covered (R516): the pods lowered,
those that keep their step, and what was recovered. -/
def lowerUntil (short : Nat) : List (Nat × Nat) → List (Nat × Nat) × List (Nat × Nat) × Nat
  | [] => ([], [], 0)
  | b :: rest =>
    if short = 0 then ([], b :: rest, 0)
    else
      let r := lowerUntil (short - b.2) rest
      (b :: r.1, r.2.1, b.2 + r.2.2)

/-- A borrowing pod goes down one step. -/
def Pod.lower (p : Pod) (need : Nat) : Pod :=
  { p with step := min 8 (p.step + 1), alloc := p.alloc + 1, share := p.share - need, borrowing := false }

/-- The manager recovers one core's lent share (R516). -/
def Dev.recover (s : Dev) : Dev :=
  let w := s.power
  let r := lowerUntil (w.unit - w.lam) w.borrowers.reverse
  let s1 := r.1.foldl (fun (s : Dev) b => (s.modPod b.1 fun p => p.lower b.2).bump mgmtPg 1 1) s
  { s1 with power := { s1.power with borrowers := r.2.1.reverse, lam := w.lam + r.2.2 - w.unit } }

/-- The return of a lent share is confirmed (R333, R516). -/
def Dev.reclaimConfirm (s : Dev) (n : Nat) : Dev :=
  let p := podOf n
  if (s.pod p).reclaiming.getLsbD (n % 8) then
    let s1 := s.recover.modPod p fun q => { q with lent := clr8 q.lent (n % 8), reclaiming := clr8 q.reclaiming (n % 8) }
    (s1.bump mgmtPg 3 1).evt (podPg p) 0
  else s

/-- RECLAIM_CONFIRM. -/
def execReclaimConfirm (core : Nat) (s : State) : Host.Outcome State Fault Refusal :=
  .next (s.onDev fun d => d.reclaimConfirm core)

/-! Temperatures (R518 to R520). Sensors: 0 to 83 of the pods, 84 to 87 of the spine, 88 to 95 of the quarter-tiers. -/

/-- The register of a sensor. -/
def sensorKey (i : Nat) : Nat :=
  ra mgmtPg (if i < 84 then 0x400 + 4 * i else if i < 88 then 0x3A0 + 4 * (i - 84) else 0x380 + 4 * (i - 88))

/-- A sensor's reading in 1/64 °C. -/
def Dev.temp (s : Dev) (i : Nat) : Int := sfld (s.regN (sensorKey i)) 0 16

/-- A number held between two bounds. -/
def clampTo (lo hi v : Nat) : Nat := if v < lo then lo else if hi < v then hi else v

/-- LOGIC_THR and TIER_THR in force, in 1/64 °C (R519). -/
def Dev.logicThr (s : Dev) : Int := 64 * (clampTo 85 105 (fld (s.regN (ra mgmtPg 0x300)) 0 8) : Nat)
/-- TIER_THR. -/
def Dev.tierThr (s : Dev) : Int := 64 * (clampTo 80 95 (fld (s.regN (ra mgmtPg 0x300)) 8 8) : Nat)

/-- A pod is hot: its sensor, or a tier of its quarter, is above its threshold. -/
def Dev.podHot (s : Dev) (p : Nat) : Bool :=
  let q := p / 21
  decide (s.logicThr < s.temp p) || decide (s.tierThr < s.temp (88 + 2 * q)) || decide (s.tierThr < s.temp (89 + 2 * q))
/-- A pod is cool: 3 °C below all of them. -/
def Dev.podCool (s : Dev) (p : Nat) : Bool :=
  let q := p / 21
  decide (s.temp p ≤ s.logicThr - 192) && decide (s.temp (88 + 2 * q) ≤ s.tierThr - 192) &&
    decide (s.temp (89 + 2 * q) ≤ s.tierThr - 192)

/-- A sensor has reached the trip point (R519). -/
def Dev.tripNow (s : Dev) : Bool :=
  (upFrom 0 96).any fun i => decide ((if i < 88 then 115 * 64 else 105 * 64 : Int) ≤ s.temp i)

/-- THERM_STEP of a pod in an interval (R519). -/
def Dev.thermPod (s : Dev) (p : Nat) : Dev :=
  let q := s.pod p
  if s.podHot p then
    let s1 := if q.therm < 8 then s.bump mgmtPg 5 1 else s
    s1.modPod p fun q => { q with therm := min 8 (q.therm + 1), cool := 0 }
  else if s.podCool p then
    s.modPod p fun q => if 99 ≤ q.cool then { q with therm := q.therm - 1, cool := 0 } else { q with cool := q.cool + 1 }
  else s.modPod p fun q => { q with cool := 0 }

/-- The thermal part of an interval. -/
def Dev.thermal (s : Dev) (temps : List (Nat × BitVec 16)) : Dev :=
  let s1 := temps.foldl (fun (s : Dev) t => if t.1 < 96 then s.setReg (sensorKey t.1) (w32 t.2.toNat) else s) s
  let hot := (upFrom 0 84).any s1.podHot
  let s2 := (upFrom 0 84).foldl (fun (s : Dev) p => s.thermPod p) s1
  let s3 := { s2 with power := { s2.power with alarm := hot } }
  if hot then s3.evt mgmtPg 2 else s3

/-! The budget (R507, R511 to R514). -/

/-- A function holds its land (R527). -/
def Dev.pinEn (s : Dev) (f : Nat) : Bool := tb (s.regN (ra mgmtPg 0x600)) f
/-- A function is denied its land: a lower-numbered one holds it. -/
def Dev.pinDenied (s : Dev) (f : Nat) : Bool :=
  s.pinEn f && ((f == 3 && s.pinEn 1) || (f == 4 && s.pinEn 2))
/-- PWR_CAP_N is active and its land low. -/
def Dev.capped (s : Dev) : Bool := s.pinEn 1 && s.power.capLow

/-- The profile REQ and the cap ask for: 0 is 600 W, 1 is 450 W, 2 is 300 W (R507). -/
def Dev.profileAsked (s : Dev) : Nat := if s.capped then 2 else min 2 (s.regN (ra mgmtPg 0x100) % 4)
/-- A profile in nanowatts. -/
def profileNw : Nat → Nat
  | 0 => 600000000000
  | 1 => 450000000000
  | _ => 300000000000

/-- A count among those of an interval. -/
def countOf (used : List (Nat × Nat)) (i : Nat) : Nat := ((used.find? fun u => u.1 == i).map (·.2)).getD 0

/-- d of a pod from its counted activity (R511): array-cycles, vector element-operations, scratchpad bytes and core
cycles stand at 8 p to 8 p + 3. -/
def podDyn (used : List (Nat × Nat)) (p old : Nat) : Nat :=
  let c := countOf used (8 * p + 3)
  if c = 0 then old
  else 940 * (91000 * countOf used (8 * p) + 120 * countOf used (8 * p + 1) + 65 * countOf used (8 * p + 2) + 160000 * c) / c

/-- The charges of R512; the bytes moved in quarter-tier `i` stand at 1000 + i. -/
def Dev.chargesNw (s : Dev) (used : List (Nat × Nat)) : Nat :=
  let w := s.power
  let spine := (upFrom 0 4).foldl (fun a k => if w.spineOff.getLsbD k then a else a + 2000000000) 0
  let pcie := (if s.portA.off then 0 else 4000000000) + (if s.portB.off then 0 else 4000000000)
  let link := (upFrom 0 8).foldl (fun a k =>
    if w.linkOff.getLsbD k then a
    else if (s.link k).st = .down then a + 1500000000 else a + 7500000000 * (s.link k).width / 8) 0
  let tier := (upFrom 0 8).foldl (fun a k =>
    if w.tierOff.getLsbD k then a
    else a + 3000000000 + 12000000000 * min 107520000 (countOf used (1000 + k)) / 107520000) 0
  44000000000 + spine + pcie + link + tier

/-- Power of a pod at step `k`, in sixteenths of a nanowatt (R509, R513). -/
def podCost (d k : Nat) : Nat := 7200000000 + d * (16 - k)

/-- A pod's line in the decision of an interval. -/
structure Alloc where
  pod : Nat
  d : Nat
  nl : Nat
  lent : BitVec 8
  share : Int
  k : Nat
  lim : Nat
  alloc : Nat := 0
  raised : Option Nat := none
  deriving DecidableEq, Repr

/-- The pods with power. -/
def Dev.poweredPods (s : Dev) : List Nat := (upFrom 0 84).filter fun p => !(s.pod p).off

/-- The first step whose cost a share covers, else 9. -/
def fitStep (d : Nat) (share : Int) : Nat := ((upFrom 0 9).find? fun k => decide ((podCost d k : Int) ≤ share)).getD 9

/-- Gate of a pod whose k is 9 (R514). -/
def fitGate (d : Nat) (share : Int) : Nat :=
  ((upFrom 1 15).find? fun g => decide ((14400000000 + d * (16 - g) : Nat) ≤ 2 * share)).getD 15

/-- k of a pod at the end of the last interval: 9 where it was gated. -/
def Pod.kPrev (p : Pod) : Nat := if 0 < p.gate then 9 else p.step

/-- A pod's allotment before borrowing (R513); the cores in `back` have been reclaimed as the interval began and lend nothing in
it (R516). -/
def Dev.allocOf (s : Dev) (back : Nat → BitVec 8) (base : Int) (l : Nat) (lend : Bool) (p : Nat) : Alloc :=
  let q := s.pod p
  let v := if lend then s.lendReport p &&& ~~~back p else 0
  let nl := popTo 8 v.toNat
  let share := base - nl * l
  { pod := p, d := q.dyn, nl := nl, lent := if 0 < l then v else 0, share := share, k := fitStep q.dyn share
    lim := max (max q.therm (min 8 (fld (s.regN (ra mgmtPg (0x180 + 4 * p))) 8 4))) (q.kPrev - 1) }

/-- Pods in the order of borrowing: ascending from `ptr`, wrapping. -/
def fromPtr (ptr : Nat) (l : List Alloc) : List Alloc := (l.filter fun a => ptr ≤ a.pod) ++ l.filter fun a => a.pod < ptr

/-- Borrowing (R513): what is left of `lam`, the pointer, and the lines as borrowing leaves them. -/
def borrow (lam ptr : Nat) : List Alloc → Nat × Nat × List Alloc
  | [] => (lam, ptr, [])
  | a :: rest =>
    let need := ((podCost a.d (min (a.k - 1) 8) : Int) - a.share).toNat
    if a.nl = 0 ∧ 1 ≤ a.k ∧ a.lim ≤ a.k - 1 ∧ need ≤ lam then
      let r := borrow (lam - need) ((a.pod + 1) % 84) rest
      (r.1, r.2.1, { a with share := a.share + need, k := a.k - 1, raised := some need } :: r.2.2)
    else
      let r := borrow lam ptr rest
      (r.1, r.2.1, a :: r.2.2)

/-- A line takes effect (R510, R513 to R515). -/
def Dev.allocate (s : Dev) (a : Alloc) : Dev :=
  let q := s.pod a.pod
  let k := max a.k a.lim
  let step := min k 8
  let g := if k = 9 then fitGate a.d a.share else 0
  let s1 := if step = q.step then s else s.bump mgmtPg 1 1
  let s2 := if q.alloc = 0 ∧ 0 < a.k then s1.evt mgmtPg 3 else s1
  let s3 := if 0 < g then (s2.bump mgmtPg 4 1).evt mgmtPg 4 else s2
  (s3.modPod a.pod fun p => { p with
    step := step, alloc := a.k, gate := g, gated := decide (0 < g), share := a.share.toNat, lent := a.lent
    lending := a.lent != 0, borrowing := a.raised.isSome }).bump mgmtPg 2 (popTo 8 a.lent.toNat)

/-- Waiting reclaims are handled before the decision, in ascending core number (R516). -/
def Dev.reclaimAll (s : Dev) : Dev := (upFrom 0 672).foldl (fun (s : Dev) n => s.reclaimConfirm n) s

/-- The manager's decision (R513). -/
def Dev.decide513 (s : Dev) (back : Nat → BitVec 8) (pkg : Nat) (used : List (Nat × Nat)) : Dev :=
  let prof := profileNw s.profileAsked
  let above := decide (prof < 125000000 * pkg)
  let corr := if above then min (s.power.corr + 1000000000) 100000000000 else s.power.corr - 100000000
  let target := 97 * prof / 100 - corr
  let charges := s.chargesNw used
  let pods := s.poweredPods
  let s0 := pods.foldl (fun (s : Dev) p => s.modPod p fun q => { q with dyn := podDyn used p q.dyn }) s
  let base : Int := 16 * ((target : Int) - (charges : Int)) / (pods.length : Int)
  let l := (base / 8 - 1200800000).toNat
  let lines := pods.map (s0.allocOf back base l (tb (s0.regN (ra mgmtPg 0x110)) 0))
  let lam := (lines.map fun a => a.nl * l).sum
  let r := borrow lam s0.power.ptr (fromPtr s0.power.ptr lines)
  let s1 := r.2.2.foldl (fun (s : Dev) a => s.allocate a) s0
  let s2 := { s1 with power := { s1.power with
    corr := corr, ptr := r.2.1, lam := r.1, unit := l, pkg := pkg, target := target, charges := charges
    profile := s.profileAsked
    borrowers := r.2.2.filterMap fun (a : Alloc) => a.raised.map fun n => (a.pod, n) } }
  (if above then s2.bump mgmtPg 9 1 else s2).bump mgmtPg 0 1

/-- A power interval: new readings, thermal steps, a trip (R520), or the manager's decision. -/
def Dev.powerInterval (s : Dev) (temps : List (Nat × BitVec 16)) (pkg : Nat) (used : List (Nat × Nat)) : Dev :=
  let s1 := s.reclaimAll.thermal temps
  if s1.tripNow then { s1.emit .thermtrip with tripped := true }
  else s1.decide513 (fun p => (s.pod p).reclaiming) pkg used

/-- POWER_INTERVAL. -/
def execPowerInterval (temps : List (Nat × BitVec 16)) (pkg : BitVec 16) (used : List (Nat × Nat)) (s : State) :
    Host.Outcome State Fault Refusal :=
  .next (s.onDev fun d => d.powerInterval temps pkg.toNat used)

/-- The span in which a gated pod's clocks stand still ends (R515). -/
def Dev.gateSpanEnd (s : Dev) (p : Nat) : Dev := s.modPod p fun q => { q with gated := false }

/-- GATE_SPAN_END. -/
def execGateSpanEnd (pod : Nat) (s : State) : Host.Outcome State Fault Refusal := .next (s.onDev fun d => d.gateSpanEnd pod)

/-! Profiles, the cap, pin functions (R507, R527). -/

/-- PM_RESULT of a writer; that of a boot record stands for both ports (R466). -/
def Dev.pmResult (s : Dev) (w : Writer) (r : Nat) : Dev :=
  let s1 := s.setReg (pra (writerPort w) mgmtPg 0x104) (w32 r)
  if w = .record then s1.setReg (pra .B mgmtPg 0x104) (w32 r) else s1

/-- A write of PM_PROFILE on a part with fuse F4 or without (R507): a refused request leaves 450 W asked for. -/
def Dev.pmProfile (s : Dev) (w : Writer) (f4 : Bool) (v : Word) : Dev :=
  if s.locked mgmtPg then s
  else if f4 && v.toNat % 4 == 0 then ((s.setFld (ra mgmtPg 0x100) 0 2 1).pmResult w 4).evt mgmtPg 0
  else (s.setFld (ra mgmtPg 0x100) 0 2 (v.toNat % 4)).pmResult w 0

/-- PM_PROFILE. -/
def execPmProfile (w : Writer) (v : Word) (s : State) : Host.Outcome State Fault Refusal :=
  .next (s.onDev fun d => d.regAccess w mgmtPg fun d => d.pmProfile w s.sec.sensed.f4 v)

/-- A step after which PWR_CAP_N may have become asserted. -/
def Dev.capLook (s : Dev) (before : Bool) : Dev := if s.capped && !before then s.evt mgmtPg 6 else s

/-- The land of PWR_CAP_N changes. -/
def Dev.pwrCap (s : Dev) (level : Bool) : Dev :=
  ({ s with power := { s.power with capLow := !level } }).capLook s.capped

/-- PWR_CAP_N; its level stands on a part that is not released too. -/
def execPwrCapN (level : Bool) (s : State) : Host.Outcome State Fault Refusal :=
  .next (if s.dev.alive then { s with dev := s.dev.pwrCap level }
    else { s with dev := { s.dev with power := { s.dev.power with capLow := !level } } })

/-- A write of PIN_FN_EN (R527). -/
def Dev.pinFn (s : Dev) (v : Word) : Dev :=
  if s.locked mgmtPg then s
  else
    let s1 := s.setReg (ra mgmtPg 0x600) (v &&& 0x7E#32)
    let new := (upFrom 3 2).any fun f => s1.pinDenied f && !s.pinDenied f
    (if new then s1.evt mgmtPg 5 else s1).capLook s.capped

/-- PIN_FN_EN. -/
def execPinFnEn (w : Writer) (v : Word) (s : State) : Host.Outcome State Fault Refusal :=
  .next (s.onDev fun d => d.regAccess w mgmtPg fun d => d.pinFn v)

/-! Switching domains (R37 to R39, R517). -/

/-- The registers, counters and latches of a page back at their reset values; BLK_OWNER, a critical word, stays. -/
def Dev.clearPage (s : Dev) (pg : Nat) : Dev :=
  let lo := ra pg 0
  { s with regs := mclear s.regs lo (lo + 4096), ctrs := mclear s.ctrs lo (lo + 4096), latch := mclear s.latch lo (lo + 4096)
           locks := mclear s.locks pg (pg + 1) }

/-- A packet of the Harness comes from, or goes to, a core of the pod. -/
def Packet.ofPod (q : Packet) (p : Nat) : Bool :=
  let inPod (n : Nat) : Bool := decide (n < 672) && n / 8 == p
  inPod q.src || inPod q.dst || q.con.any (fun c => inPod c.1) || q.targets.any inPod

/-- A pod is idle (R37). -/
def Dev.podIdle (s : Dev) (p : Nat) : Bool :=
  (upFrom (8 * p) 8).all (fun n =>
    let c := s.core n
    !c.active && c.reqs.isEmpty && c.vault.pend.isEmpty) && !(s.net.any fun q => q.ofPod p)

/-- A core whose domain loses power keeps its vault, in self-refresh, and what start-up found (R39, log 31). -/
def Core.dark (c : Core) : Core :=
  { retired := c.retired, selfFail := c.selfFail, vault := { c.vault with selfRefresh := true, openRow := [] } }

/-- A pod switched off (R39, R516). -/
def Dev.podOff (s : Dev) (p : Nat) : Dev :=
  let s1 := (upFrom (8 * p) 8).foldl (fun (s : Dev) n =>
    (upFrom 0 4).foldl (fun (s : Dev) j => s.clearPage (corePg n j)) (s.modCore n Core.dark)) s
  s1.modPod p fun q => { q with off := true, lent := 0, reclaiming := 0, lending := false, borrowing := false, gate := 0, gated := false }

/-- A pod switched on: its epoch advances (R328), its cores hold the record in force (R243), it runs at step 8,
ungated (R517). -/
def Dev.podOn (s : Dev) (p : Nat) : Dev :=
  let s1 := s.modPod p fun q => { q.reset with off := false, step := 8, gate := 0, gated := false }
  (upFrom (8 * p) 8).foldl (fun (s : Dev) n =>
    let P := s.corePart n
    let info := (s.part P).record
    s.modCore n fun c =>
      let c1 := { c with vault := { c.vault with selfRefresh := false } }
      if P < 12 then c1.takeRecord info else c1) s1

/-- A tier is unowned throughout its quarter (R37). -/
def Dev.tierIdle (s : Dev) (q : Nat) : Bool := (upFrom (21 * q) 21).all fun p => fld (s.owner (podPg p)) 0 4 == 15

/-- A segment is idle (R37): every link port it carries is off or its link down, its PCIe port is off, and S1 and S2 have no
table in use. A link port whose link is down counts as unused, a PCIe port never does, and the always-on blocks count as
neither (DESIGN CHOICE, log 31). -/
def Dev.spineIdle (s : Dev) (k : Nat) : Bool :=
  let links (lo : Nat) : Bool := (upFrom lo 4).all fun i => s.power.linkOff.getLsbD i || (s.link i).st == .down
  let bot := (upFrom 0 Config.parts).all fun P => (s.botRange P).2 == 0
  match k with
  | 0 => links 0
  | 1 => s.portA.off && bot
  | 2 => s.portB.off && bot
  | _ => links 4

/-- A domain: KIND and INDEX of PM_DOM_CMD. -/
def domValid (kind i : Nat) : Bool :=
  match kind with
  | 0 => decide (i < 84)
  | 1 | 2 => decide (i < 8)
  | 3 => decide (i < 2)
  | 4 => decide (i < 4)
  | _ => false

/-- The domain is on. -/
def Dev.domIsOn (s : Dev) (kind i : Nat) : Bool :=
  match kind with
  | 0 => !(s.pod i).off
  | 1 => !s.power.tierOff.getLsbD i
  | 2 => !s.power.linkOff.getLsbD i
  | 3 => !(if i = 0 then s.portA.off else s.portB.off)
  | _ => !s.power.spineOff.getLsbD i

/-- A bit of four set. -/
def set4 (v : BitVec 4) (k : Nat) : BitVec 4 := v ||| BitVec.ofNat 4 (2 ^ k)
/-- A bit of four cleared. -/
def clr4 (v : BitVec 4) (k : Nat) : BitVec 4 := v &&& ~~~BitVec.ofNat 4 (2 ^ k)

/-- The condition of R37 for switching a domain off. -/
def Dev.domIdle (s : Dev) (kind i : Nat) : Bool :=
  match kind with
  | 0 => s.podIdle i
  | 1 => s.tierIdle (i / 2)
  | 2 => (s.link i).st == .down
  | 3 => let q := if i = 0 then s.portA else s.portB; q.perst || q.cold
  | _ => s.spineIdle i

/-- A port number as a port. -/
def portOf (i : Nat) : Port := if i = 0 then .A else .B

/-- A domain switched on; one already on stays as it is (R517). A switched-on tier begins to be cleared (R355). -/
def Dev.switchOn (s : Dev) (kind i : Nat) : Dev :=
  if s.domIsOn kind i then s
  else
    let w := s.power
    let s1 := match kind with
      | 0 => s.podOn i
      | 1 => { s with power := { w with tierOff := clr8 w.tierOff i, clearing := set8 w.clearing i } }
      | 2 => { s with power := { w with linkOff := clr8 w.linkOff i } }.modLink i fun l => l.fresh (s.linkMode i)
      | 3 => s.modPort (portOf i) fun q => { q with off := false }
      | _ => { s with power := { w with spineOff := clr4 w.spineOff i } }
    s1.bump mgmtPg 6 1

/-- A domain switched off; one already off stays as it is. -/
def Dev.switchOff (s : Dev) (kind i : Nat) : Dev :=
  if !s.domIsOn kind i then s
  else
    let w := s.power
    let s1 := match kind with
      | 0 => s.podOff i
      | 1 => { s with power := { w with tierOff := set8 w.tierOff i, clearing := clr8 w.clearing i } }
      | 2 => { s with power := { w with linkOff := set8 w.linkOff i } }.clearPage (linkPg i)
      | 3 => (s.modPort (portOf i) fun q => { subsystem := q.subsystem, off := true, perst := q.perst, cold := q.cold }).clearPage (pciePg (portOf i))
      | _ => { s with power := { w with spineOff := set4 w.spineOff i } }
    s1.bump mgmtPg 7 1

/-- A PD_POD command names a pod of a partition of the other port (R517). -/
def Dev.domDenied (s : Dev) (w : Writer) (kind i : Nat) : Bool :=
  match w with
  | .host p => kind == 0 && decide (fld (s.owner (podPg i)) 0 4 < 12) && s.ptPort (fld (s.owner (podPg i)) 0 4) != p
  | .record | .jtag => false

/-- A write of PM_DOM_CMD (R517). -/
def Dev.domCmd (s : Dev) (w : Writer) (v : Word) : Dev :=
  let op := fld v.toNat 28 4
  let kind := fld v.toNat 24 4
  let i := fld v.toNat 0 8
  let refuse (r : Nat) : Dev := (s.pmResult w r).bump mgmtPg 8 1
  if !domValid kind i || (op != 1 && op != 2) then refuse 2
  else if s.domDenied w kind i then refuse 5
  else if op = 1 then (s.switchOn kind i).pmResult w 0
  else if s.domIsOn kind i && !s.domIdle kind i then (refuse 3).evt mgmtPg 1
  else (s.switchOff kind i).pmResult w 0

/-- DOM_ON. -/
def execDomOn (w : Writer) (v : Word) (s : State) : Host.Outcome State Fault Refusal :=
  .next (s.onDev fun d => d.regAccess w mgmtPg fun d => d.domCmd w v)
/-- DOM_OFF. -/
def execDomOff (w : Writer) (v : Word) (s : State) : Host.Outcome State Fault Refusal :=
  .next (s.onDev fun d => d.regAccess w mgmtPg fun d => d.domCmd w v)

end Sys2Proof.Machine
end

