-- ==== Sys2Proof/Machine/Partitions.lean ====
section
/-! DEFINITION. Partitions: creation and release, port resets, translation invalidation (R428 to R432, R437, R447), and
the end of a reset epoch's hold (R328). -/
namespace Sys2Proof.Machine
open Sys2Proof

/-! Finding room. -/

/-- Ranges of the Block Owner Table that partitions hold. -/
def Dev.botTaken (s : Dev) : List (Nat × Nat) :=
  ((upFrom 0 Config.parts).filter fun P => s.ptState P != 0).map s.botRange

/-- The lowest index that starts a free run of `n` entries (R430): 0, or the end of a range that is held. -/
def Dev.botFit (s : Dev) (n : Nat) : Option Nat :=
  let l := s.botTaken
  let free (b : Nat) : Bool := decide (b + n ≤ 131072) && l.all fun r => decide (n = 0 ∨ r.2 = 0 ∨ b + n ≤ r.1 ∨ r.1 + r.2 ≤ b)
  let ends := (0 :: l.map fun r => r.1 + r.2).filter free
  ends.foldl (fun (a : Option Nat) b => some (match a with | some x => min x b | none => b)) none

/-- A column of the range is held by a partition (R428). -/
def Dev.colsHeld (s : Dev) (col n : Nat) : Bool :=
  (upFrom 0 Config.parts).any fun P =>
    let c := s.ptCols P
    s.ptState P != 0 && decide (col < c.1 + c.2) && decide (c.1 < col + n)

/-! The steps of a creation (R430). -/

/-- The pages of a partition (R421). -/
def Dev.pagesOfPart (s : Dev) (P : Nat) : List Nat :=
  ((s.coresOf P).flatMap fun n => upFrom (corePg n 0) 4) ++ (s.podsOf P).map podPg ++ [lsPg P, netPg P, pctlPg P]

/-- BLK_OWNER of a partition's pages. -/
def Dev.setOwner (s : Dev) (P v : Nat) : Dev := (s.pagesOfPart P).foldl (fun (s : Dev) pg => s.critW 2 (12 + pg) v) s

/-- Segments a partition needs: those under its columns, its port's, and those of the table where it has entries. -/
def Dev.segsOfPart (s : Dev) (P blocks : Nat) : List Nat :=
  let c := s.ptCols P
  (upFrom 0 4).filter fun k =>
    (decide (c.1 < 3 * k + 3) && decide (3 * k < c.1 + c.2)) || k == 1 + (s.ptPort P).toNat || (decide (0 < blocks) && (k == 1 || k == 2))

/-- Step 2: domains that are off are switched on; a tier switched on reads as zero (R355). -/
def Dev.powerUp (s : Dev) (P blocks : Nat) : Dev :=
  let c := s.ptCols P
  let tiers := (upFrom 0 8).filter fun i =>
    !s.domIsOn 1 i && decide (c.1 < 3 * (i / 2) + 3) && decide (3 * (i / 2) < c.1 + c.2)
  let s1 := tiers.foldl (fun (s : Dev) i => (s.switchOn 1 i).tierClearDone (i / 2) (i % 2)) s
  let s2 := (s.segsOfPart P blocks).foldl (fun (s : Dev) k => s.switchOn 4 k) s1
  (s.podsOf P).foldl (fun (s : Dev) p => s.switchOn 0 p) s2

/-- The loss-scale state at creation and after a release (R237). -/
def Dev.lsFresh (s : Dev) (P : Nat) : Dev :=
  let lo := ra (lsPg P) 0
  let s1 := { s with regs := mclear (mclear s.regs (lo + 0x140) (lo + 0x194)) (lo + 0x800) (lo + 0x1000) }
  ((s1.critW 3 (2 * P) 0x10).critW 3 (2 * P + 1) 0).lsLast P 1 0x10

/-- The network page, the route table, the collective entries and what else the partition holds, at reset values. -/
def Dev.netFresh (s : Dev) (P : Nat) : Dev :=
  let lo := ra (netPg P) 0
  { s with regs := mclear s.regs (lo + 0x100) (lo + 0x1000) }.modPart P fun _ => {}

/-- Scratchpads and instruction memories of the partition wiped (R133). -/
def Dev.wipeCores (s : Dev) (P : Nat) : Dev :=
  (s.coresOf P).foldl (fun (s : Dev) n => (s.modCore n Core.wipeSp).evt (corePg n 1) 8) s

/-- Translations of the partition leave every cache (R430, R431). -/
def Dev.xlEmpty (s : Dev) (P : Nat) : Dev :=
  let keep (l : List XlEntry) : List XlEntry := l.filter fun e => e.base / 2 ^ 48 != P
  let s1 := (s.coresOf P).foldl (fun (s : Dev) n => s.modCore n fun c => { c with xl := [] }) s
  (s1.modPort .A fun q => { q with xl := keep q.xl }).modPort .B fun q => { q with xl := keep q.xl }

/-- Steps 1 to 5 of a creation, up to the hold of the reset epochs. -/
def Dev.createRun (s : Dev) (p : Port) (P col n wbits blocks base : Nat) : Dev :=
  let s1 := s.setPt P (2 ^ 30 + p.toNat * 2 ^ 29 + col * 2 ^ 20 + n * 2 ^ 16)
  let s2 := (s1.powerUp P blocks).setOwner P (P + 16 * p.toNat)
  let s3 := { ((s2.setReg (ra botPg (0x140 + 8 * P)) (w32 base)).setReg (ra botPg (0x144 + 8 * P)) (w32 blocks)) with
    bot := mclear s2.bot base (base + blocks) }
  let s4 := ((s3.computeReset P).wipeCores P).netFresh P
  let s5 := (s4.lsFresh P).xlEmpty P
  let s6 := (s5.liveCores P).foldl (fun (s : Dev) n => s.modCore n fun c => c.takeRecord [0, 1, 0x10, 0x10]) s5
  let pg := pctlPg P
  ((((s6.setReg (ra pg 0x100) 0).setReg (ra pg 0x104) 0).setReg (ra pg 0x108) (w32 wbits)).setReg (ra pg 0x230) 0)

/-- Step 6 of a creation. -/
def Dev.createEnd (s : Dev) (P : Nat) : Dev := ((s.setPtState P 2).bump ptPg 0 1).evt ptPg 2

/-! The steps of a release (R431). -/

/-- Core `n` is one of the list. -/
def ofCores (l : Nat × Nat) (n : Nat) : Bool := decide (l.1 ≤ n) && decide (n < l.1 + l.2)

/-- A request from or to a core of the partition. -/
def Packet.asksOf (q : Packet) (cs : Nat × Nat) : Bool :=
  q.isRequest && (ofCores cs q.src || if q.isMc then q.targets.any (ofCores cs) else ofCores cs q.dst)

/-- What a request that has come out of the Harness meets at its destination. -/
def Dev.landAt (s : Dev) (p : Packet) : Taken :=
  match p.cls with
  | .rdReq | .wrReq | .rwReq =>
    if p.dst < Config.cores then (if p.cls = .rdReq then s.readAt p.dst p else s.writeAt p.dst p)
    else if p.dst = 0x410 then s.windowAt .A p
    else if p.dst = 0x411 then s.windowAt .B p
    else if p.dst < 0x408 then s.remoteAt (p.dst - 0x400) p
    else .wait
  | .flagOp => if p.dst < Config.cores then s.flagAt p.dst p else .wait
  | _ => .wait

/-- The copies of a multicast that are still on their way reach their cores; one that cannot be taken counts as ABSENT. -/
def Dev.landMc (s : Dev) (p : Packet) : Dev :=
  let r := p.targets.foldl (fun (x : Dev × Nat × Nat) n =>
    match x.1.mcCopy p n with
    | some (d, c) => (d, x.2.1 ||| c, x.2.2 + b2n (c == errAbsent))
    | none => (x.1, x.2.1 ||| errAbsent, x.2.2 + 1)) (s, p.code, p.gone)
  (r.1.mcTravelled p).inject
    { cls := .mcAck, vc := 2, dst := p.src, src := p.dst, epoch := p.epoch, tag := p.tag, addr := p.addr, code := r.2.1, info := [r.2.2] }

/-- A request in flight takes its effect at its destination (R329); one that cannot be taken there is answered ABSENT once
the wait of R431 has ended. -/
def Dev.land (s : Dev) (p : Packet) : Dev :=
  if p.isMc then s.landMc p
  else match s.landAt p with
    | .took t => t.travelled p p.dst {}
    | .wait | .head => { s with net := s.net ++ answers p .err errAbsent }

/-- Step 3 of a release: every request from or to the partition's cores ends, in the order of injection. -/
def Dev.netLand (s : Dev) (cs : Nat × Nat) : Dev :=
  (s.net.filter fun q => q.asksOf cs).foldl (fun (s : Dev) q => s.land q) { s with net := s.net.filter fun q => !q.asksOf cs }

/-- What is left for the partition's cores echoes an old epoch and is discarded (R328); messages on VC0 from them and
verdict records for them are gone. -/
def Dev.netEnd (s : Dev) (cs : Nat × Nat) : Dev :=
  let s1 := (s.net.filter fun q => q.vc == 2 && ofCores cs q.dst).foldl (fun (s : Dev) q => s.discard q.dst q) s
  { s1 with net := s1.net.filter fun q =>
      if q.vc = 0 then !(ofCores cs q.src || q.targets.any (ofCores cs)) else !(q.vc == 2 && ofCores cs q.dst) }

/-- Reads that vaults of the partition have accepted are answered. -/
def Dev.pendEnd (s : Dev) (n : Nat) : Dev :=
  (upFrom 0 (s.core n).vault.pend.length).foldl (fun (s : Dev) _ => s.vaultDone n 0 []) s

/-- The vaults of the partition wiped (R354). -/
def Dev.wipeVaults (s : Dev) (P : Nat) : Dev :=
  (s.coresOf P).foldl (fun (s : Dev) n =>
    ((s.bump (vqPg (quarterOf n)) 8 (s.core n).vault.wipeRows).modVault n Vault.wiped).evt (vqPg (quarterOf n)) 7) s

/-- Accesses of a port's walker for the partition end with UR. -/
def Dev.walksEnd (s : Dev) (P : Nat) (p : Port) : Dev :=
  let mine (w : BWalk) : Bool := fld (s.aperture p w.ofs) 24 4 == P
  let gone := (s.port p).walks.filter mine
  gone.foldl (fun (s : Dev) w => s.bar2Ur p w.ofs (!w.write)) (s.modPort p fun q => { q with walks := q.walks.filter fun w => !mine w })

/-- Apertures of a port that name the partition are disabled. -/
def Dev.apertureEnd (s : Dev) (P : Nat) (p : Port) : Dev :=
  (upFrom 0 16).foldl (fun (s : Dev) i =>
    let k := ra (pciePg p) (0x110 + 4 * i)
    if fld (s.regN k) 24 4 = P then s.setFld k 31 1 0 else s) s

/-- The partition's connections, messages and remote accesses leave the link ports. -/
def Dev.connEnd (s : Dev) (P : Nat) : Dev :=
  (upFrom 0 8).foldl (fun (s : Dev) k => s.modLink k fun l => { l with
    rx := l.rx.filter fun x => x.part != some P
    txq := l.txq.filter fun m => m.job.toNat != s.job P
    conns := l.conns.filter fun c => c.part != P, waits := l.waits.filter fun x => x.part != P, serves := l.serves.filter fun x => x.part != P }) s

/-- The fault records of the partition cleared. -/
def Dev.recordsEnd (s : Dev) (P : Nat) : Dev :=
  (s.coresOf P).foldl (fun (s : Dev) n => { s with regs := mclear s.regs (ra (corePg n 0) 0x600) (ra (corePg n 0) 0x640) }) s

/-- Domains a release left idle are switched off where PM_CTL.AUTO_OFF is set (R517). -/
def Dev.autoOff (s : Dev) (pods : List Nat) : Dev :=
  if !tb (s.regN (ra mgmtPg 0x110)) 1 then s
  else
    let s1 := pods.foldl (fun (s : Dev) p => if s.podIdle p then s.switchOff 0 p else s) s
    let qs := (pods.map fun p => p / 21).eraseDups
    (qs.flatMap fun q => [2 * q, 2 * q + 1]).foldl (fun (s : Dev) i => if s.tierIdle (i / 2) then s.switchOff 1 i else s) s1

/-- Steps 2 to 6 of a release. -/
def Dev.releaseRun (s : Dev) (P : Nat) : Dev :=
  let pages := s.pagesOfPart P
  let pods := s.podsOf P
  let r := s.botRange P
  let s1 := (s.computeReset P).netLand (s.ptCores P)
  let s2 := ((s.coresOf P).foldl (fun (s : Dev) n => s.pendEnd n) s1).netEnd (s.ptCores P)
  let s3 := pods.foldl (fun (s : Dev) p => s.modPod p fun q => { q with lent := 0, reclaiming := 0, lending := false }) s2
  let s4 := (s3.wipeCores P).wipeVaults P
  let s5 := ({ s4 with bot := mclear s4.bot r.1 (r.1 + r.2) }.setReg (ra botPg (0x140 + 8 * P)) 0).setReg (ra botPg (0x144 + 8 * P)) 0
  let s6 := (((s5.connEnd P).lsFresh P).netFresh P).recordsEnd P
  let s7 := pages.foldl (fun (s : Dev) pg => s.setLock pg false) s6
  let s8 := ((((s7.walksEnd P .A).walksEnd P .B).apertureEnd P .A).apertureEnd P .B).xlEmpty P
  let s9 := (s8.setOwner P 0xF).setPt P 0
  ((s9.bump ptPg 1 1).evt ptPg 1).autoOff pods

/-! The procedure that runs, and the releases that wait for it (R429, R432, R496). -/

/-- The hang recovery of a partition ends (R494 step 5). -/
def Dev.hangEnd (s : Dev) (P : Nat) (h : Hang) : Dev :=
  let pg := pctlPg P
  let rec_ := 2 ^ 31 + h.trigger % 4 * 2 ^ 29 + sidN h.strm * 2 ^ 28 + h.core % 1024 * 2 ^ 16 + h.stalled % 4096
  (((s.setReg (ra pg 0x22C) (w32 rec_)).setReg (ra pg 0x230) (w32 (s.regN (ra pg 0x230) + 1))).bump pg 3 1).modPart P
    fun p => { p with hang := none }

/-- A port is done with its reset once it owns no partition (R432). -/
def Dev.portResetEnd (s : Dev) (p : Port) : Dev :=
  if (s.port p).resetting && (upFrom 0 Config.parts).all (fun P => s.ptState P == 0 || s.ptPort P != p) then
    (s.modPort p fun q => { q with resetting := false }).evt (pciePg p) 0
  else s

/-- The next waiting release begins, when no procedure runs: RELEASING. -/
def Dev.nextRelease (s : Dev) : Dev :=
  match s.proc, s.releaseQ with
  | none, P :: rest =>
    if s.ptState P = 2 then { (s.setPtState P 3) with proc := some { op := 2, part := P }, releaseQ := rest }
    else { s with releaseQ := rest }
  | _, _ => s

/-- The running procedure goes on: a creation ends once no pod of it is held (R328), a release runs once no hang
recovery of its partition does (R496). -/
def Dev.procStep (s : Dev) : Dev :=
  match s.proc with
  | none => s.nextRelease
  | some q =>
    if q.op = 1 then (if s.anyHeld q.part then s else { (s.createEnd q.part) with proc := none })
    else if (s.part q.part).hang.isSome then s
    else { (s.releaseRun q.part) with proc := none }

/-- Procedures go on as far as they can. -/
def Dev.procGo (s : Dev) : Dev :=
  let s1 := (upFrom 0 (2 * s.releaseQ.length + 2)).foldl (fun (s : Dev) _ => s.procStep) s
  (s1.portResetEnd .A).portResetEnd .B

/-! The commands. -/

/-- The outcome of a PT_CMD (R429), with the Block Owner Table base of a creation. -/
def Dev.ptJudge (s : Dev) (p : Port) (v : Nat) : Nat × Nat :=
  let op := fld v 28 4
  let P := fld v 24 4
  let col := fld v 20 4
  let n := fld v 16 4
  let arg := s.regN (pra p ptPg 0x104)
  let wbits := fld arg 18 6
  let blocks := fld arg 0 18
  if s.proc.isSome || !s.releaseQ.isEmpty then (1, 0)
  else if (op ≠ 1 ∧ op ≠ 2) ∨ 11 < P ∨ (op = 1 ∧ (n = 0 ∨ 12 < col + n ∨ wbits < 32 ∨ 48 < wbits ∨ 131072 < blocks)) then (2, 0)
  else if (op = 1 ∧ s.ptState P ≠ 0) ∨ (op = 2 ∧ s.ptState P ≠ 2) then (3, 0)
  else if op = 2 then (if s.ptPort P ≠ p then (4, 0) else (0, 0))
  else if s.colsHeld col n then (5, 0)
  else match s.botFit blocks with
    | none => (6, 0)
    | some b => (0, b)

/-- A write of PT_CMD. -/
def Dev.ptCmd (s : Dev) (w : Writer) (v : Word) : Dev :=
  let p := writerPort w
  let r := s.ptJudge p v.toNat
  let s1 := s.setReg (pra p ptPg 0x108) (w32 r.1)
  let P := fld v.toNat 24 4
  if r.1 ≠ 0 then (s1.bump ptPg 2 1).evt ptPg 0
  else if fld v.toNat 28 4 = 1 then
    let arg := s.regN (pra p ptPg 0x104)
    ({ (s1.createRun p P (fld v.toNat 20 4) (fld v.toNat 16 4) (fld arg 18 6) (fld arg 0 18) r.2) with
      proc := some { op := 1, part := P } }).procGo
  else ({ (s1.setPtState P 3) with proc := some { op := 2, part := P } }).procGo

/-- CREATE. -/
def execCreate (w : Writer) (v : Word) (s : State) : Host.Outcome State Fault Refusal :=
  .next (s.onDev fun d => d.regAccess w ptPg fun d => d.ptCmd w v)
/-- RELEASE. -/
def execRelease (w : Writer) (v : Word) (s : State) : Host.Outcome State Fault Refusal :=
  .next (s.onDev fun d => d.regAccess w ptPg fun d => d.ptCmd w v)

/-- A port reset (R432): 0 FLR, 1 hot reset, 2 PERST, 3 loss of the data link, which all but the first take down. Reads
of the host's memory that it had on the way are answered ABSENT (R427). -/
def Dev.portReset (s : Dev) (p : Port) (cause : Nat) : Dev :=
  let q := s.port p
  let down := decide (cause ≠ 0)
  let mine := (upFrom 0 Config.parts).filter fun P => s.ptState P != 0 && s.ptPort P == p
  let s1 := q.hreads.foldl (fun (s : Dev) h => s.hostAnswer p h none) s
  let s2 := s1.clearPage (pciePg p)
  let s3 := s2.modPort p fun q => {
    subsystem := q.subsystem, aerUr := q.aerUr && cause != 2, aerAdv := q.aerAdv && cause != 2, off := q.off, perst := q.perst || cause == 2, tags := q.tags, resetting := true
    cold := q.cold || (cause == 3 && q.dstate == 3)
    up := q.up && !down, width := if down then 0 else q.width, speed := if down then 0 else q.speed }
  let s4 := if down && q.up then s3.evt (pciePg p) 2 else s3
  ({ s4 with releaseQ := s4.releaseQ ++ mine.filter fun P => !s4.releaseQ.elem P && !(s4.proc.any fun (x : Proc) => x.op == 2 && x.part == P) }.bump
    ptPg 3 1).procGo

/-- PORT_RESET. On a part that is not released the PERST_N pin of a port is low from then on, and nothing else happens
(R453). -/
def execPortReset (p : Port) (cause : Nat) (s : State) : Host.Outcome State Fault Refusal :=
  .next (if s.dev.alive then { s with dev := s.dev.portReset p cause }
    else if cause = 2 then { s with dev := s.dev.modPort p fun q => { q with perst := true } } else s)

/-- The hold after an epoch's advance ends (R328): a pod held in reset is released under its next epoch, and what
waited for it goes on. -/
def Dev.holdEnd (s : Dev) (p : Nat) : Dev :=
  let q := s.pod p
  if q.held then
    let s1 := s.modPod p fun q => { q with epoch := (q.epoch + 1) % 16, held := false }
    let P := fld (s1.owner (podPg p)) 0 4
    let s2 := if decide (P < 12) && !s1.anyHeld P then
        match (s1.part P).hang with
        | some h => if h.reset then s1.hangEnd P h else s1
        | none => s1
      else s1
    s2.procGo
  else s.modPod p fun q => { q with recent := false }

/-- EPOCH_HOLD_END. -/
def execEpochHoldEnd (pod : Nat) (s : State) : Host.Outcome State Fault Refusal := .next (s.onDev fun d => d.holdEnd pod)

/-! Invalidation of translations (R437). -/

/-- The range of an invalidation. -/
def Dev.invSpan (s : Dev) (P : Nat) (v : Word) : Nat × Nat :=
  let pg := pctlPg P
  let va := s.regN (ra pg 0x110) + 2 ^ 32 * s.regN (ra pg 0x114)
  if v.getLsbD 30 then (0, s.window P) else (va, va + v.toNat % 2 ^ 24 * 65536)

/-- Cached pages that overlap a range go; `base` is what a cache adds to its addresses. -/
def dropRange (base : Nat) (r : Nat × Nat) (l : List XlEntry) : List XlEntry :=
  l.filter fun e => e.glb || !(decide (e.base < base + r.2) && decide (base + r.1 < e.base + e.size))

/-- A write of XL_INV: GO starts an invalidation unless one runs. -/
def Dev.xlInv (s : Dev) (P : Nat) (v : Word) : Dev :=
  let s1 := s.setReg (ra (pctlPg P) 0x10C) (v &&& 0x40FFFFFF#32)
  if !v.getLsbD 31 || (s.part P).invRange.isSome then s1
  else
    let r := s1.invSpan P v
    let s2 := (s1.coresOf P).foldl (fun (s : Dev) n => s.modCore n fun c => { c with xl := dropRange 0 r c.xl }) s1
    let s3 := (s2.modPort .A fun q => { q with xl := dropRange (portKey P 0) r q.xl }).modPort .B fun q =>
      { q with xl := dropRange (portKey P 0) r q.xl }
    (s3.modPart P fun p => { p with invRange := some r }).bump (pctlPg P) 2 1

/-- XL_INV. -/
def execXlInv (w : Writer) (part : Nat) (v : Word) (s : State) : Host.Outcome State Fault Refusal :=
  .next (s.onDev fun d => d.regAccess w (pctlPg part) fun d => d.xlInv part v)

/-- XL_INV_DONE. -/
def Dev.xlInvDone (s : Dev) (P : Nat) : Dev :=
  if (s.part P).invRange.isSome then (s.modPart P fun p => { p with invRange := none }).evt (pctlPg P) 1 else s

/-- XL_INV_DONE. -/
def execXlInvDone (part : Nat) (s : State) : Host.Outcome State Fault Refusal := .next (s.onDev fun d => d.xlInvDone part)

end Sys2Proof.Machine
end

