-- ==== Sys2Proof/Machine/RegView.lean ====
section
/-! DEFINITION. What a register shows where it is more than a stored word: identities, states, and copies of what the
units hold (R8 to R18, R40, R76, R142, R143, R175 to R177, R235, R263, R266, R302, R304, R336, R370, R414, R416,
R445, R447, R448, R505, R530). A field of width `w` at bit `lo` is written `v * 2 ^ lo`. -/
namespace Sys2Proof.Machine
open Sys2Proof

/-- A port's own copy is kept of the register (R304, R370, R447, R482, R483, R530). -/
def perPort (k : PageKind) (i o : Nat) : Bool :=
  match k with
  | .ptable => o == 0x104 || o == 0x108
  | .vq => o == 0x100 || o == 0x10C
  | .spine => i == 1 && (o == 0x100 || o == 0x104 || o == 0x10C)
  | .sec => o == 0x108 || (decide (0x110 ≤ o) && decide (o < 0x130)) || o == 0x180 || (decide (0x1C4 ≤ o) && decide (o < 0x200))
  | .mgmt => o == 0x104
  | _ => false

/-- The registers of the vault window (R370). -/
def windowed (o : Nat) : Bool := [0x110, 0x114, 0x130, 0x134, 0x138].elem o

/-- Where a register that is a stored word lies, as a port sees it. -/
def Dev.regKey (s : Dev) (p : Port) (a : Nat) : Nat :=
  let pg := a / 4096
  let o := a % 4096
  match pageKind pg with
  | some (k, i) =>
    if k = .vq ∧ windowed o then vra (s.windowCore (.host p) i) o
    else if perPort k i o then pra p pg o
    else a
  | none => a

/-! The core's four pages. -/

/-- S_STAT.STATE (R148). -/
def stateCode : StreamState → Nat
  | .idle => 0 | .running => 1 | .draining => 2 | .halted => 3 | .stopped => 4 | .suspended => 5 | .faulted => 6

/-- S_STAT (R176). -/
def Stream.statWord (t : Stream) : Nat :=
  fields [(20, t.pc % 4096), (12, t.haltCode % 256), (10, t.slot % 4), (9, b2n t.part), (3, b2n t.armed), (0, stateCode t.st)]
/-- S_WAIT (R176). -/
def Stream.waitWord (t : Stream) : Nat :=
  fields [(31, b2n t.waiting), (24, t.cause % 16), (20, t.wslot % 4), (8, if t.cause = 8 then t.wflag % 64 else 0),
    (0, if t.cause = 8 then b2n t.wexpect else 0)]

/-- A register of a stream at offset `o` of its block: 0x40 S_STAT onward. -/
def Stream.view (t : Stream) (o : Nat) : Option Nat :=
  if o = 0 then some t.statWord
  else if o = 0xC then some t.issued
  else if o = 0x10 then some t.waitWord
  else if o = 0x14 then some t.cmp.toNat
  else if 0x20 ≤ o ∧ o < 0x40 then some (lget 0 t.lcnt ((o - 0x20) / 4))
  else if 0x40 ≤ o ∧ o < 0x60 then some (lget 0 t.llim ((o - 0x40) / 4))
  else none

/-- A load or chain of the core is in progress. -/
def Core.imemBusy (c : Core) : Bool := c.chain.isSome || c.dq.any (·.kind == .imem)
/-- Slots the last load has written. -/
def Core.imemCount (c : Core) : Nat :=
  match c.dq.find? (·.kind == .imem) with
  | some j => j.pos
  | none => c.imemDone

/-- The CORE page (R176, R177). -/
def Core.coreView (c : Core) (o : Nat) : Option Nat :=
  if 0x140 ≤ o ∧ o < 0x1A0 then c.x.view (o - 0x140)
  else if 0x1A0 ≤ o ∧ o < 0x200 then c.a.view (o - 0x1A0)
  else if 0x300 ≤ o ∧ o < 0x310 then
    let q := (o - 0x300) / 4
    some (fields [(8, b2n (c.curValid.getLsbD q)), (0, (lget [] c.queues q).length)])
  else if 0x340 ≤ o ∧ o < 0x3C0 then some (lget 0#32 (lget [] c.cur ((o - 0x340) / 32)) ((o - 0x340) % 32 / 4)).toNat
  else if o = 0x3C0 then some (c.flags.toNat % 2 ^ 32)
  else if o = 0x3C4 then some (c.flags.toNat / 2 ^ 32)
  else if o = 0x40C then some (fields [(31, b2n c.imemBusy), (24, c.imemResult % 16), (0, c.imemCount)])
  else none

/-- Code of a tile register's state (R142). -/
def tileCode : TileState → Nat
  | .unconfigured => 0 | .empty => 1 | .loading => 2 | .valid => 3

/-- Rows of the configured tile registers. -/
def Core.tileRows (c : Core) : Nat := c.tiles.foldl (fun a t => if t.st = .unconfigured then a else a + t.rows) 0

/-- The ARRAY/TILE page (R76, R142, R143). -/
def Core.tileView (c : Core) (o : Nat) : Option Nat :=
  let arr (f : Nat → Arr → Bool) : Nat := bitsNat ((upFrom 0 4).map fun i => f i (lget {} c.arrs i))
  if o = 0x100 then
    some (fields [(12, arr fun _ a => a.active), (8, arr fun _ a => a.loading), (4, arr fun i _ => c.drains.any fun d => d.arrays.elem i),
      (0, arr fun _ a => !a.rows.isEmpty)])
  else if o = 0x108 then some (fields [(1, c.selfFail.toNat)])
  else if o = 0x180 then some (fields ((upFrom 0 16).map fun i => (2 * i, tileCode (lget {} c.tiles i).st)))
  else if o = 0x184 then some (fields [(16, 1024 - c.tileRows), (0, c.tileRows)])
  else if o = 0x188 then
    some (fields [(4, c.tAbandoned.length % 16), (3, b2n (c.tq.any fun (j : TileJob) => j.started)), (0, c.tq.length)])
  else if 0x1C0 ≤ o ∧ o < 0x200 then
    let t := lget {} c.tiles ((o - 0x1C0) / 4)
    some (fields [(12, b2n t.use), (8, t.fmt), (0, t.rows)])
  else if o = 0x208 then some (fields [(1, b2n (decide (0 < c.spScrubPos))), (0, b2n c.spWiping)])
  else none

/-- The VEC page (R235, R266). -/
def Core.vecView (c : Core) (o : Nat) : Option Nat :=
  if o = 0x100 then
    match c.vq with
    | [] => some 0
    | e :: _ => some (fields [(18, e.desc / 64), (16, c.vq.length), (15, b2n e.started), (14, b2n (e.started && e.lacksRows)),
        (13, b2n e.rbufFull)])
  else if o = 0x108 then some c.vAbandoned.length
  else if o = 0x140 then some c.updStep.toNat
  else if o = 0x144 then
    match c.vq with
    | [] => some c.updLs.toNat
    | e :: _ => some (c.updLs.toNat + fields [(18, b2n (c.vupdWaits e))])
  else none

/-- The DMA page (R302). -/
def Core.dmaView (c : Core) (n o : Nat) : Option Nat :=
  let own (l : List Job) : List Job := l.filter fun j => j.kind != .imem
  let running (l : List Job) : Nat := b2n (match l with
    | j :: _ => j.active && j.kind != .imem
    | [] => false)
  if o = 0x100 then some (fields [(8, c.dAbandoned.length % 16), (4, running c.dq), (0, (own c.dq).length)])
  else if o = 0x104 then
    some (fields [(11, b2n !c.gAbandoned1.isEmpty), (10, running c.g1), (8, c.g1.length), (3, b2n !c.gAbandoned0.isEmpty),
      (2, running c.g0), (0, c.g0.length)])
  else if o = 0x108 then
    let l := c.slotBanks n
    some (fields [(8, l.foldl (fun m b => max m (l.filter (· == b)).length) 0), (0, l.length)])
  else if o = 0x110 then some c.frc.length
  else none

/-! The other pages. -/

/-- Retired cores. -/
def Dev.retiredBits (s : Dev) (i : Nat) : Nat := bitsNat ((upFrom (32 * i) 32).map fun n => (s.core n).retired)
/-- Number of retired cores. -/
def Dev.retiredCores (s : Dev) : Nat := ((upFrom 0 Config.cores).filter fun n => (s.core n).retired).length

/-- The vault quarter page (R370): the window shows the port's selected vault. -/
def Dev.vqView (s : Dev) (p : Port) (q o : Nat) : Option Nat :=
  let v := (s.core (s.windowCore (.host p) q)).vault
  let t (b : BitVec 8) : Nat := fld b.toNat (2 * q) 2
  if o = 0x104 then
    some (fields [(4, v.retired.toNat), (2, b2n v.selfRefresh), (1, b2n v.wiping), (0, b2n !v.pend.isEmpty)])
  else if 0x120 ≤ o ∧ o < 0x130 then some (fields [(16, lget 0 v.ce ((o - 0x120) / 4)), (0, lget 0 v.ue ((o - 0x120) / 4))])
  else if o = 0x190 then
    some (fields [(3, b2n (decide (85 * 64 < s.temp (89 + 2 * q)))), (2, b2n (decide (85 * 64 < s.temp (88 + 2 * q)))), (0, t s.power.clearing)])
  else if o = 0x194 then some (fields [(2, t s.power.ovwFailed), (0, t s.power.ovwActive)])
  else if 0x1A0 ≤ o ∧ o < 0x1F4 then
    let i := (o - 0x1A0) / 4
    some (fields ((upFrom 0 8).map fun j => (4 * j, (s.core (168 * q + 8 * i + j)).vault.retired.toNat)))
  else none

/-- The network page (R416). -/
def Dev.netView (s : Dev) (P o : Nat) : Option Nat :=
  let x := s.part P
  if o = 0x124 then some (mget (fun _ => 0#4) x.routes (s.regN (ra (netPg P) 0x120) % 4096)).toNat
  else if o = 0x12C then
    let sel := s.regN (ra (netPg P) 0x128)
    some (mget (fun _ => 0#32) x.coll (16 * fld sel 4 5 + sel % 16)).toNat
  else if o = 0x134 then some (bitsNat ((upFrom 0 32).map x.runsEntry))
  else none

/-- PHASE of a recovery (R494): what is left of it is the hold of the pods. -/
def Dev.pctlView (s : Dev) (P o : Nat) : Option Nat :=
  let x := s.part P
  let c := s.ptCores P
  if o = 0x118 then some (fields [(31, b2n x.invRange.isSome)])
  else if o = 0x11C then some (fields [(16, c.1), (0, c.2)])
  else if 0x140 ≤ o ∧ o < 0x194 then
    let i := (o - 0x140) / 4
    some (bitsNat ((upFrom (32 * i) 32).map fun n => s.inPart P n && s.hasFault n))
  else if o = 0x228 then some (match x.hang with
    | none => 0
    | some h => fields [(31, 1), (0, if h.reset then 4 else 1)])
  else none

/-- Multicast entries that a router holds (R320, R336). -/
def Dev.mcUsed (s : Dev) (p : Nat) : Nat := mcHeld s.net p 3 + mcHeld s.net p 0

/-- The pod router page (R336). -/
def Dev.podView (s : Dev) (p o : Nat) : Option Nat :=
  let q := s.pod p
  if o = 0x104 then some q.epoch
  else if o = 0x108 then some (fields [(1, b2n q.held), (0, b2n !q.off)])
  else if o = 0x110 then some (fields [(16, q.reclaiming.toNat), (8, q.lent.toNat), (0, (s.lendable p).toNat)])
  else if o = 0x114 then some (s.mcUsed p)
  else none

/-- Code of a link state (R414). -/
def linkCode : LinkState → Nat
  | .down => 0 | .training => 1 | .up => 2 | .retraining => 3

/-- The link port page (R414). -/
def Dev.linkView (s : Dev) (k o : Nat) : Option Nat :=
  let l := s.link k
  if o = 0x104 then
    some (fields [(24, l.subUp.toNat), (16, l.retired.toNat), (8, l.active.toNat), (4, l.width), (0, linkCode l.st)])
  else if o = 0x140 then some l.conns.length
  else none

/-- BOT_DATA of a port's selection (R304): zero where the access is refused. -/
def Dev.botView (s : Dev) (p : Port) (hi : Bool) : Nat :=
  match s.botTarget p with
  | .ok e => if hi then s.botEntry e / 2 ^ 32 else s.botEntry e % 2 ^ 32
  | .error _ => 0

/-- Power in units of 0.125 W. -/
def eighths (nw : Nat) : Nat := nw / 125000000

/-- The management page (R530). -/
def Dev.mgmtView (s : Dev) (f4 : Bool) (o : Nat) : Option Nat :=
  let w := s.power
  if o = 0x100 then some (fields [(16, b2n f4), (8, w.profile), (0, s.regN (ra mgmtPg 0x100) % 4)])
  else if o = 0x108 then some (fields [(16, eighths w.target), (0, w.pkg)])
  else if o = 0x10C then some (fields [(16, eighths w.corr), (0, eighths w.charges)])
  else if o = 0x118 then
    some (fields [(20, 15 - w.spineOff.toNat), (17, b2n !s.portB.off), (16, b2n !s.portA.off), (8, 255 - w.linkOff.toNat), (0, 255 - w.tierOff.toNat)])
  else if 0x140 ≤ o ∧ o < 0x14C then
    let i := (o - 0x140) / 4
    some (bitsNat ((upFrom (32 * i) 32).map fun p => decide (p < 84) && !(s.pod p).off))
  else if 0x180 ≤ o ∧ o < 0x2D0 then
    let q := s.pod ((o - 0x180) / 4)
    some (fields [(25, b2n q.lending), (24, b2n q.borrowing), (16, min 255 (q.share / 500000000)), (12, q.therm),
      (8, fld (s.regN (ra mgmtPg o)) 8 4), (4, q.gate), (0, q.step)])
  else if o = 0x304 then some (b2n w.alarm)
  else if o = 0x604 then
    let on (f : Nat) : Bool := s.pinEn f && !s.pinDenied f
    some (fields ((upFrom 1 6).flatMap fun f => [(f, b2n (on f)), (16 + f, b2n (s.pinDenied f))]))
  else none

/-- What a page shows at an offset from 0x100 that is not a stored word. -/
def Dev.pageView (s : Dev) (f4 : Bool) (p : Port) (k : PageKind) (i o : Nat) : Option Nat :=
  match k with
  | .org =>
    if o = 0x104 then some (Config.cores - s.retiredCores)
    else if 0x140 ≤ o ∧ o < 0x194 then some (s.retiredBits ((o - 0x140) / 4))
    else none
  | .ptable =>
    if o = 0x10C then some (match s.proc with
      | some x => fields [(31, 1), (24, x.part), (0, x.op)]
      | none => 0)
    else if 0x140 ≤ o ∧ o < 0x170 then some (s.ptEntry ((o - 0x140) / 4))
    else none
  | .ls =>
    if o = 0x104 then some (s.critR 3 (2 * i))
    else if o = 0x108 then some (s.critR 3 (2 * i + 1))
    else if o = 0x10C then some (fields [(1, b2n (s.part i).sealing), (0, b2n (s.part i).ovf)])
    else none
  | .vq => s.vqView p i o
  | .crit => none
  | .net => s.netView i o
  | .pctl => s.pctlView i o
  | .core => (s.core i).coreView o
  | .tile => ((s.core i).tileView o).map fun v => if o = 0x108 then v + b2n s.released else v
  | .vec => (s.core i).vecView o
  | .dma => (s.core i).dmaView i o
  | .pod => s.podView i o
  | .spine =>
    if i = 1 ∧ o = 0x104 then some (s.botView p false)
    else if i = 1 ∧ o = 0x108 then some (s.botView p true)
    else if i = 1 ∧ o = 0x10C then some (fields [(31, b2n s.shoot.isSome), (0, s.regN (pra p botPg 0x10C) % 4)])
    else none
  | .link => s.linkView i o
  | .pcie =>
    if o = 0x100 then
      let q := s.port p
      some (fields [(10, b2n q.up), (8, q.dstate.toNat), (4, q.width), (0, q.speed)])
    else none
  | .boot | .sec => none
  | .mgmt => s.mgmtView f4 o

/-- A vault of the quarter has a read, a write-back or a wipe to finish, or a tier of it is being cleared. -/
def Dev.quarterBusy (s : Dev) (q : Nat) : Bool :=
  fld s.power.clearing.toNat (2 * q) 2 != 0 || (upFrom (168 * q) 168).any fun n =>
    let v := (s.core n).vault
    v.wiping || !v.pend.isEmpty || !v.wb.isEmpty

/-- A link port trains, or holds messages that are not answered. -/
def Link.busy (l : Link) : Bool :=
  l.st == .training || l.st == .retraining || !l.retry.isEmpty || !l.txf.isEmpty
    || !l.frames.isEmpty || !l.txq.isEmpty || !l.rx.isEmpty || !l.waits.isEmpty
    || !l.serves.isEmpty || l.conns.any fun c => !c.unacked.isEmpty || !c.queue.isEmpty

/-- A host port resets, or has accesses in flight. -/
def PciePort.busy (q : PciePort) : Bool :=
  q.resetting || !q.reads.isEmpty || !q.hreads.isEmpty || !q.walks.isEmpty || !q.writes.isEmpty

/-- BLK_STAT (R11): work in flight, a fault record, retirement, the lock. What is work in flight of each block is the
model's reading (DESIGN CHOICE, log 48); the security block's stands at `State.readReg`. -/
def Dev.blkStat (s : Dev) (pg : Nat) (k : PageKind) (i : Nat) : Nat :=
  let c := s.core i
  let isCore := k = .core ∨ k = .tile ∨ k = .vec ∨ k = .dma
  let busy : Bool := match k with
    | .core => c.active
    | .tile => !c.tq.isEmpty || !c.arraysQuiet
    | .vec => !c.vq.isEmpty
    | .dma => c.moving
    | .ptable => s.proc.isSome || !s.releaseQ.isEmpty
    | .ls => (s.part i).sealing
    | .vq => s.quarterBusy i
    | .net => !(s.part i).runs.isEmpty
    | .pctl => (s.part i).hang.isSome || (s.part i).invRange.isSome
    | .pod => (s.pod i).reclaiming != 0 || s.net.any fun q => podOf q.src == i || podOf q.dst == i
    | .spine => (i == 1 && s.shoot.isSome) || ((i == 1 || i == 2) && s.net.any fun q => q.cls == .lookup && q.dst == epBot (i - 1))
    | .link => (s.link i).busy
    | .pcie => (if i = 0 then s.portA else s.portB).busy
    | .org | .crit | .boot | .sec | .mgmt => false
  fields [(3, b2n (s.locked pg)), (2, b2n (decide isCore && c.retired)), (1, b2n (k == .core && s.hasFault i)), (0, b2n busy)]

/-- BLK_CAP (R10), with what differs between the instances of a block. -/
def Dev.blkCap (s : Dev) (pg : Nat) (k : PageKind) (i : Nat) : Nat :=
  s.regN (ra pg 8) + match k with
    | .tile => b2n (isSplit i)
    | .pod => fields [(3, b2n ([0, 2, 4, 6, 77, 79, 81, 83].elem i)), (2, b2n (i % 7 == 0))]
    | _ => 0

/-- The common part of a page (R8 to R17). -/
def Dev.commonView (s : Dev) (pg : Nat) (k : PageKind) (i o : Nat) : Nat :=
  if o = 0 then typeCode k * 2 ^ 24 + instCode k i
  else if o = 4 then 0x06722000 + (Config.blkRev pg).toNat
  else if o = 8 then s.blkCap pg k i
  else if o = 0x14 then s.blkStat pg k i
  else if o = 0x24 then s.owner pg
  else if o = 0x28 then b2n (s.locked pg)
  else if 0x80 ≤ o ∧ o < 0x100 then
    if o % 8 = 0 then s.ctr (ra pg o) % 2 ^ 32 else (mget (fun _ => 0#32) s.latch (ra pg (o - 4))).toNat
  else if (regDef k o).isSome then s.regN (ra pg o)
  else 0

/-- STALL of a core, low or high word (R176). -/
def Dev.stallView (s : Dev) (pg o : Nat) : Nat :=
  if o % 8 = 0 then s.ctr (ra pg o) % 2 ^ 32 else (mget (fun _ => 0#32) s.latch (ra pg (o - 4))).toNat

/-- Registers the hardware writes that no write sets. -/
def storedRo (k : PageKind) (o : Nat) : Bool :=
  match k with
  | .org => o == 0x100
  | .ptable => o == 0x108
  | .ls => o == 0x110 || o == 0x11C || o == 0x120 || o == 0x124
  | .vq => o == 0x10C
  | .net => o == 0x130 || o == 0x13C
  | .pctl => o == 0x108 || o == 0x224 || o == 0x230 || o == 0x234
  | .core => o == 0x104
  | .tile => o == 0x204
  | .vec => o == 0x10C
  | .spine => decide (0x140 ≤ o) && decide (o < 0x1A0)
  | .link => o == 0x118
  | .pcie => o == 0x150
  | .mgmt => decide (0x380 ≤ o) && decide (o < 0x550) || o == 0x104
  | _ => false

/-- What a register of the device reads as at a port, the boot and security pages apart; the page is visible. An offset
at which no table lists a register reads 0, and a write to it is ignored (DESIGN CHOICE, log 48). -/
def Dev.readReg (s : Dev) (f4 : Bool) (p : Port) (a : Nat) : Nat :=
  let pg := a / 4096
  let o := a % 4096
  match pageKind pg with
  | none => 2 ^ 32 - 1
  | some (k, i) =>
    if o < 0x100 then s.commonView pg k i o
    else if k = .core ∧ 0x200 ≤ o ∧ o < 0x300 then s.stallView pg o
    else match s.pageView f4 p k i o with
      | some v => v
      | none =>
        if k = .spine ∧ i ≠ 1 then 0
        else if (regDef k o).isSome || (k = .core && decide (0x500 ≤ o) && decide (o < 0x634)) || storedRo k o
          then s.regN (s.regKey p a) else 0

/-! Lands. -/

/-- The part drives multi-function land MF`m` low (R527). What stands on MF2, a clock, is no level. -/
def Dev.mfLow (s : Dev) (m : Nat) : Bool :=
  let on (f : Nat) : Bool := s.pinEn f && !s.pinDenied f
  let up (lo : Nat) : Bool := (upFrom lo 4).any fun k => (s.link k).st == .up
  match m with
  | 0 => on 3 && up 0
  | 1 => (on 2 && s.power.alarm) || (on 4 && up 4)
  | 3 => on 6 && (upFrom 0 Config.parts).any fun P =>
      tb (s.regN (ra (pctlPg P) 0x22C)) 31 || (s.coresOf P).any s.hasFault
  | _ => false

end Sys2Proof.Machine
end

