-- ==== Sys2Proof/Machine/Recovery.lean ====
section
/-! DEFINITION. The no-progress watchdogs and hang recovery (R487, R490 to R498, R505). -/
namespace Sys2Proof.Machine
open Sys2Proof

/-! The no-progress watchdog. -/

/-- The watchdogs of partition `P` are held, but for the core's other stream (R491): a collective runs, a seal is on
its way, or a recovery runs (from the first expiry on: log 32). -/
def Dev.wdPartHeld (s : Dev) (P : Nat) : Bool :=
  let x := s.part P
  (upFrom 0 32).any x.runsEntry || x.sealing || x.hang.isSome

/-- STOPPED, SUSPENDED or FAULTED. -/
def Stream.stopped3 (t : Stream) : Bool := t.st == .stopped || t.st == .suspended || t.st == .faulted

/-- The watchdog of a stream can expire (R490, R491). -/
def Dev.wdCounts (s : Dev) (n : Nat) (i : StreamId) : Bool :=
  let P := s.corePart n
  let t := (s.core n).strm i
  decide (P < 12) && s.regN (ra (pctlPg P) 0x200) != 0 && (t.st == .running || t.st == .draining)
    && !((s.core n).strm (otherSid i)).stopped3 && !s.wdPartHeld P

/-- Everything the engines of a draining stream still hold is abandoned (R492). -/
def Core.abandonAll (c : Core) (i : StreamId) : Core :=
  match i with
  | .X => c.stopX.abandonVec 0
  | .A => ((c.abandonEng 0).abandonEng 1).abandonEng 2

/-- FLAG_LAST of the flag a stream awaits, 0 where it awaits none (R492, R497). -/
def Dev.awaitedLast (s : Dev) (n : Nat) (t : Stream) : Nat :=
  if t.cause = 8 then s.regN (ra (corePg n 0) (0x500 + 4 * (t.wflag % 64))) else 0

/-- An expiry with AUTO = 0 (R492): FAULTED at once, with cause WDOG unless a fault of the stream is already pending
(R150). -/
def Dev.wdFault (s : Dev) (n : Nat) (i : StreamId) : Dev :=
  let t := (s.core n).strm i
  let rc : FRec := { cause := 0x40, slot := t.wslot, pc := t.pc, engine := 0, addr := t.waitWord }
  let hi := s.awaitedLast n t % 4096
  let s1 := (if i = .X then s.vecFlush n none else s).modStop n fun c =>
    let c1 := c.beginDrain i .faulted
    let c2 := if t.st = .draining then c1.abandonAll i else c1
    c2.setStrm i { c2.strm i with st := .faulted, target := .idle, frec := none }
  let s2 := match t.frec with
    | some f => s1.record n i f 0
    | none => s1.record n i rc hi
  let s3 := s2.evt (corePg n 0) (6 + sidN i)
  if i = .X then s3.cancelChain n else s3

/-- A stream's watchdog expires (R492, R493). -/
def Dev.streamWatchdog (s : Dev) (n : Nat) (i : StreamId) : Dev :=
  if !s.wdCounts n i ∨ (s.core n).waitOver i then s
  else
    let P := s.corePart n
    let s1 := (s.evt (corePg n 0) (13 + sidN i)).bump (pctlPg P) 4 1
    if tb (s.regN (ra (pctlPg P) 0x208)) 0 then
      s1.modPart P fun p => { p with hang := some { trigger := 1, core := n, strm := i } }
    else s1.wdFault n i

/-- STREAM_WATCHDOG. -/
def execStreamWatchdog (core : Nat) (i : StreamId) (s : State) : Host.Outcome State Fault Refusal :=
  .next (s.onDev fun d => d.streamWatchdog core i)

/-! The dump (R497, R498). -/

/-- First byte of the dump area in each vault. -/
def Dev.dumpOfs (s : Dev) (P : Nat) : Nat := min (fld (s.regN (ra (pctlPg P) 0x20C)) 12 15) 0x5FBF * 4096

/-- The streams of the partition that wait, at the freeze. -/
def Dev.stalledOf (s : Dev) (P : Nat) : Nat :=
  let one (t : Stream) : Nat := b2n ((t.st == .running || t.st == .draining) && t.waiting)
  (s.coresOf P).foldl (fun a n => a + one (s.core n).x + one (s.core n).a) 0

/-- A stream's part of the dump: 48 words. Its watchdog's count is a free value where it counts (log 13, log 32). -/
def Dev.dumpStream (s : Dev) (n : Nat) (i : StreamId) (count : Nat) : List Nat :=
  let t := (s.core n).strm i
  let fr := ra (corePg n 0) (0x600 + 0x20 * sidN i)
  let l := [t.statWord, t.waitWord, t.issued, t.cmp.toNat] ++ ((upFrom 0 8).map fun k => lget 0 t.lcnt k)
    ++ ((upFrom 0 8).map fun k => lget 0 t.llim k) ++ ((upFrom 0 5).map fun k => s.regN (fr + 4 * k))
    ++ [if t.st = .running ∨ t.st = .draining then count else 0, s.awaitedLast n t]
  l ++ List.replicate (48 - l.length) 0

/-- The first 1 KiB of a dump, as words; COMPLETE is clear. -/
def Dev.dumpHead (s : Dev) (P n trigger cx ca : Nat) : List Nat :=
  let c := s.core n
  let v (r : Option Nat) : Nat := r.getD 0
  let head := [0x504D5544, (s.regN (ra (pctlPg P) 0x230) + 1) % 2 ^ 32, fields [(24, trigger), (16, P), (0, n)], (s.pod (podOf n)).epoch]
    ++ ((upFrom 0 4).map fun k => s.regN (ra (pctlPg P) (0x210 + 4 * k))) ++ List.replicate 8 0
  let units := [c.flags.toNat % 2 ^ 32, c.flags.toNat / 2 ^ 32] ++ ((upFrom 0 4).map fun q => v (c.coreView (0x300 + 4 * q)))
    ++ [v (c.tileView 0x180), v (c.tileView 0x188), v (c.vecView 0x100), v (c.dmaView n 0x100), v (c.dmaView n 0x104), v (c.dmaView n 0x108),
        v (c.tileView 0x100), s.regN (ra (corePg n 1) 0x104), 0, 0]
  let last := (upFrom 0 64).map fun f => s.regN (ra (corePg n 0) (0x500 + 4 * f))
  let stall := (upFrom 0 32).flatMap fun k =>
    let x := s.ctr (ra (corePg n 0) (0x200 + 8 * k))
    [x % 2 ^ 32, x / 2 ^ 32]
  head ++ s.dumpStream n .X cx ++ s.dumpStream n .A ca ++ units ++ last ++ stall

/-- Pairs of words as 64-bit words. -/
def pairWords : List Nat → List PWord
  | a :: b :: l => ⟨w64 (a + 2 ^ 32 * b), false⟩ :: pairWords l
  | [a] => [⟨w64 a, false⟩]
  | [] => []

/-- The 4 KiB pages of the windows: offset in the dump area, and first scratchpad byte. -/
def Dev.dumpPages (s : Dev) (P : Nat) : List (Nat × Nat) :=
  (upFrom 0 4).flatMap fun i =>
    let r := s.regN (ra (pctlPg P) (0x210 + 4 * i))
    let ofs := fld r 20 8
    let size := min (r % 32) 16
    if 192 ≤ ofs then [] else (upFrom 0 (min size (192 - ofs))).map fun k => (0x1000 + i * 0x10000 + k * 4096, (ofs + k) * 4096)

/-- A 4 KiB page of the dump written to the core's vault; an ABSENT answer ends the dump. -/
def Dev.dumpPut (x : Dev × Bool) (n ofs : Nat) (ws : Dev → List PWord × Dev) : Dev × Bool :=
  let s := x.1
  if !x.2 then x
  else if s.podGone (podOf n) then (s, false)
  else match s.vaultGate n ofs with
    | .ok =>
      let r := ws s
      (((upFrom 0 512).zip r.1).foldl (fun (s : Dev) p => s.vWrite n (ofs / 8 + p.1) (BitVec.allOnes 64) p.2) (r.2.openRow n ofs), true)
    | _ => (s.absentVault n ofs, false)

/-- A core writes its dump: the windows first, COMPLETE last. -/
def Dev.dumpCore (s : Dev) (P n trigger : Nat) : Dev × Bool :=
  let b := s.dumpOfs P
  let cx := s.take
  let ca := cx.2.take
  let head := s.dumpHead P n trigger (cx.1.toNat % 2 ^ 32) (ca.1.toNat % 2 ^ 32)
  let zeros := 512 - head.length / 2
  let x := (s.dumpPages P).foldl (fun (x : Dev × Bool) p =>
    Dev.dumpPut x n (b + p.1) fun d => d.spRead n (upFrom (p.2 / 8) 512)) (ca.2, true)
  let y := Dev.dumpPut x n b fun d => (pairWords head ++ List.replicate zeros (⟨0, false⟩ : PWord), d)
  if y.2 then (y.1.vWrites n (bytesTo (b + 13) 1 1), true) else y

/-- Every core of the partition writes its dump; DUMP_STAT counts those that could not end it. -/
def Dev.dumpAll (s : Dev) (P trigger : Nat) : Dev :=
  let r := (s.coresOf P).foldl (fun (x : Dev × Nat) n =>
    let y := x.1.dumpCore P n trigger
    (y.1, x.2 + b2n !y.2)) (s, 0)
  r.1.setReg (ra (pctlPg P) 0x234) (w32 r.2)

/-! Hang recovery (R494). -/

/-- The recovery writes a dump. -/
def Dev.dumps (s : Dev) (P trigger : Nat) : Bool := trigger != 3 && tb (s.regN (ra (pctlPg P) 0x208)) 1

/-- A dump would meet a vault that holds requests: it waits (R348, R354, R355). -/
def Dev.dumpWaits (s : Dev) (P : Nat) : Bool :=
  let b := s.dumpOfs P
  (s.coresOf P).any fun n => s.vaultGate n b == .hold || s.vaultGate n (b + 0x40FFF) == .hold

/-- Steps 2 to 5 of a recovery, up to the hold of the reset epochs; the state is sampled before anything changes
(R495). -/
def Dev.hangRun (s : Dev) (P : Nat) (h : Hang) : Dev :=
  let d := s.dumps P h.trigger
  if d && s.dumpWaits P then s
  else
    let h1 := { h with stalled := s.stalledOf P }
    let s1 := (if d then s.dumpAll P h.trigger else s).computeReset P
    if s1.anyHeld P then s1.modPart P fun p => { p with hang := some { h1 with reset := true } }
    else (s1.hangEnd P h1).procGo

/-- A recovery that has been asked for runs. -/
def Dev.hangRecovery (s : Dev) (P : Nat) : Dev :=
  match (s.part P).hang with
  | some h => if h.reset then s else s.hangRun P h
  | none => s

/-- HANG_RECOVERY. -/
def execHangRecovery (part : Nat) (s : State) : Host.Outcome State Fault Refusal := .next (s.onDev fun d => d.hangRecovery part)

/-- HANG_RESULT of a command: 0 OK, 1 BUSY, 2 STATE, 3 INVALID (R496, R505). -/
def Dev.hangJudge (s : Dev) (P op : Nat) : Nat :=
  if (s.part P).hang.isSome || s.proc.any fun x => x.part == P then 1
  else if op ≠ 1 ∧ op ≠ 2 then 3
  else if s.ptState P ≠ 2 then 2
  else 0

/-- A write of HANG_CMD. -/
def Dev.hangCmd (s : Dev) (P op : Nat) : Dev :=
  let r := s.hangJudge P op
  let s1 := s.setReg (ra (pctlPg P) 0x224) (w32 r)
  if r = 0 then (s1.modPart P fun p => { p with hang := some { trigger := op + 1 } }).hangRecovery P else s1

/-- DUMP_RESET. -/
def execDumpReset (w : Writer) (part : Nat) (s : State) : Host.Outcome State Fault Refusal :=
  .next (s.onDev fun d => d.regAccess w (pctlPg part) fun d => d.hangCmd part 1)
/-- RESET. -/
def execReset (w : Writer) (part : Nat) (s : State) : Host.Outcome State Fault Refusal :=
  .next (s.onDev fun d => d.regAccess w (pctlPg part) fun d => d.hangCmd part 2)

end Sys2Proof.Machine
end

