-- ==== Sys2Proof/Machine/Smbus.lean ====
section
/-! DEFINITION. The SMBus target (R443, R444). -/
namespace Sys2Proof.Machine
open Sys2Proof

/-- A count over the cores. -/
def Dev.countCores (s : Dev) (f : Core → Nat) : Nat := (upFrom 0 Config.cores).foldl (fun a n => a + f (s.core n)) 0
/-- Pseudo-channels retired. -/
def Dev.retiredPcs (s : Dev) : Nat := s.countCores fun c => popTo 4 c.vault.retired.toNat
/-- Link lanes retired. -/
def Dev.retiredLanes (s : Dev) : Nat := (upFrom 0 8).foldl (fun a k => a + popTo 8 (s.link k).retired.toNat) 0

/-- STATUS. -/
def Dev.smbStatus (s : Dev) : Nat :=
  bitsNat [s.released, (upFrom 0 Config.parts).any fun P => s.ptState P != 0, s.power.alarm,
    (upFrom 0 Config.pods).any fun p => (s.pod p).alloc != 0, s.portA.up, s.portB.up,
    s.retiredPcs != 0, s.retiredLanes != 0, s.retiredCores != 0]

/-- SMB_ALERT_N is asserted. -/
def Dev.smbAlert (s : Dev) : Bool := (BitVec.ofNat 8 s.smbStatus &&& ~~~s.alertMask) != 0

/-- The hottest of some sensors, as its 16 bits. -/
def Dev.hottest (s : Dev) (is : List Nat) : Nat :=
  let best := is.foldl (fun (a : Option Int) i => some (match a with
    | some x => max x (s.temp i)
    | none => s.temp i)) none
  (best.getD 0 % 65536).toNat

/-- One bit of the packet error code, CRC-8 with polynomial 0x07 (PRESUMED, log 33: SMBus 3.1). -/
def pecBits : Nat → Nat → Nat
  | 0, a => a
  | n + 1, a => pecBits n (if 128 ≤ a then (2 * a % 256) ^^^ 7 else 2 * a)

/-- The packet error code of what has been on the bus since the start condition. -/
def pecOf (l : List Nat) : Nat := l.foldl (fun a b => pecBits 8 (a ^^^ b)) 0

/-- What the target sends for a command code that it answers with `len` bytes, once the fuses are sensed (R443): a Block Read
with its count first, and with the packet error code where it is asked for. The critical words `keys` are read for it
(R362). -/
def State.smbus (s : State) (code len : Nat) (block pec : Bool) (keys : List Nat) (v : Dev → Nat) : State :=
  if s.dev.pwrok then
    let data := (if block then [BitVec.ofNat 8 len] else []) ++ leBytes len (v s.dev)
    let sum := if pec then [BitVec.ofNat 8 (pecOf ([0x94, code, 0x95] ++ data.map (·.toNat)))] else []
    { s with dev := (s.dev.emit (.smbus (data ++ sum))).critSeen keys }
  else s

/-- IDENT. -/
def execIdent (s : State) (pec : Bool := false) : Host.Outcome State Fault Refusal :=
  .next (s.smbus 0x00 8 true pec [] fun _ => fields [(0, 0x0672), (16, 0x20), (24, b2n s.sec.sensed.f4)])
/-- LIFECYCLE. -/
def execLifecycle (s : State) (pec : Bool := false) : Host.Outcome State Fault Refusal := .next (s.smbus 0x01 1 false pec [0] fun d => d.critR 0 0 % 4)
/-- STATUS. -/
def execStatus (s : State) (pec : Bool := false) : Host.Outcome State Fault Refusal := .next (s.smbus 0x02 2 false pec ptKeys Dev.smbStatus)
/-- PKG_POWER. -/
def execPkgPower (s : State) (pec : Bool := false) : Host.Outcome State Fault Refusal := .next (s.smbus 0x10 2 false pec [] fun d => d.power.pkg)
/-- PROFILE. -/
def execProfile (s : State) (pec : Bool := false) : Host.Outcome State Fault Refusal := .next (s.smbus 0x11 1 false pec [] fun d => d.power.profile)
/-- TEMP_LOGIC. -/
def execTempLogic (s : State) (pec : Bool := false) : Host.Outcome State Fault Refusal :=
  .next (s.smbus 0x20 2 false pec [] fun d => d.hottest (upFrom 0 88))
/-- TEMP_T0. -/
def execTempT0 (q : Nat) (s : State) (pec : Bool := false) : Host.Outcome State Fault Refusal :=
  .next (s.smbus (0x21 + q) 2 false pec [] fun d => d.hottest [88 + 2 * q])
/-- TEMP_T1. -/
def execTempT1 (q : Nat) (s : State) (pec : Bool := false) : Host.Outcome State Fault Refusal :=
  .next (s.smbus (0x25 + q) 2 false pec [] fun d => d.hottest [89 + 2 * q])
/-- PARTS. -/
def execParts (s : State) (pec : Bool := false) : Host.Outcome State Fault Refusal :=
  .next (s.smbus 0x30 24 true pec ptKeys fun d =>
    fields ((upFrom 0 Config.parts).map fun P => (16 * P, d.ptEntry P / 2 ^ 24 + d.ptEntry P / 2 ^ 16 % 256 * 256)))
/-- RETIRED. -/
def execRetired (s : State) (pec : Bool := false) : Host.Outcome State Fault Refusal :=
  .next (s.smbus 0x31 6 true pec [] fun d => fields [(0, d.retiredCores), (16, d.retiredPcs), (32, d.retiredLanes)])
/-- ALERT_MASK read. -/
def execAlertMaskRead (s : State) (pec : Bool := false) : Host.Outcome State Fault Refusal :=
  .next (s.smbus 0x7F 1 false pec [] fun d => d.alertMask.toNat)
/-- ALERT_MASK written; a write whose packet error code is wrong is not acknowledged, and not done. -/
def execAlertMaskWrite (v : Byte) (s : State) (pec : Option Byte := none) : Host.Outcome State Fault Refusal :=
  .next (if !s.dev.pwrok then s
    else if (pec.map fun b => b.toNat == pecOf [0x94, 0x7F, v.toNat]).getD true then { s with dev := { s.dev with alertMask := v } }
    else { s with dev := s.dev.emit .smbusNack })
/-- ALERT_RESPONSE: the target gives its address while it asserts SMB_ALERT_N. -/
def execAlertResponse (s : State) (pec : Bool := false) : Host.Outcome State Fault Refusal :=
  .next (if s.dev.pwrok && s.dev.smbAlert then
      { s with dev := s.dev.emit (.smbus (0x94 :: if pec then [BitVec.ofNat 8 (pecOf [0x19, 0x94])] else [])) }
    else s)
/-- The codes the target answers. -/
def smbKnown (c : Nat) : Bool := (([0, 1, 2, 0x10, 0x11, 0x30, 0x31, 0x7F] ++ upFrom 0x20 9).elem c)
/-- SMBUS_OTHER_COMMAND: any other code is not acknowledged. -/
def execSmbusOtherCommand (code : Byte) (s : State) : Host.Outcome State Fault Refusal :=
  .next (if s.dev.pwrok && !smbKnown code.toNat then { s with dev := s.dev.emit .smbusNack } else s)

end Sys2Proof.Machine
end

