-- ==== Sys2Proof/Machine/Security.lean ====
section
/-! DEFINITION. The security block: life cycle and fuses, identity and attestation, unlock tokens (R454, R455, R467 to
R475, R478 to R483). -/
namespace Sys2Proof.Machine
open Sys2Proof

/-! What start-up sensed. -/

/-- The life-cycle state (R444, R467): 0 BLANK, 1 PROVISIONED, 2 DEPLOYED, 3 RETURNED. -/
def State.life (s : State) : Nat := s.dev.critR 0 0 % 4
/-- ROOTKEY of a slot, as its critical words hold it (R361, R454). -/
def State.rootKey (s : State) (slot : Nat) : Nat :=
  (upFrom 0 8).foldr (fun i a => s.dev.critR 1 (8 * slot + i) + 2 ^ 32 * a) 0
/-- The slot can verify: programmed and not revoked. -/
def State.keyLive (s : State) (slot : Nat) : Bool :=
  decide (slot < 2) && s.rootKey slot != 0 && !tb s.sec.sensed.revoke.toNat slot

/-- X of R471. -/
def idSeed : List Byte := Config.shake256 (Config.seed ++ [1]) 48
/-- The identity public key, PK.seed and PK.root. -/
def idKey : List Byte := idSeed.drop 32 ++ Config.slhRoot idSeed
/-- ID_PK: zero in RETURNED (R467). -/
def State.idPk (s : State) : List Byte := if s.life = 3 then List.replicate 32 0 else idKey
/-- CHALLENGE (R479). -/
def State.challenge (s : State) : List Byte := Config.shake256 (Config.seed ++ [2] ++ leBytes 4 s.sec.ctr) 32

/-- Word `i` of a byte string. -/
def wordOf (l : List Byte) (i : Nat) : Nat := leNat ((l.drop (4 * i)).take 4)

/-- A partition exists, or is coming or going. -/
def Dev.anyPart (s : Dev) : Bool := (upFrom 0 Config.parts).any fun P => s.ptState P != 0

/-! Registers of the security page. -/

/-- A change of the device alone. -/
def State.onDevice (s : State) (f : Dev → Dev) : State := { s with dev := f s.dev }

/-- A write by `w` to a register of the security page does `f`, on a released part, where it reaches the page. -/
def State.secAccess (s : State) (w : Writer) (f : State → State) : State :=
  if !s.dev.alive then s
  else
    let g := s.dev.regGate w secPg
    if g.2 then f { s with dev := g.1 } else { s with dev := g.1 }

/-- A request is refused (R481). -/
def Dev.secRefuse (s : Dev) : Dev := (s.bump secPg 4 1).evt secPg 2

/-- LC_RESULT of a writer. -/
def State.lcResult (s : State) (w : Writer) (r : Nat) : State :=
  s.onDevice fun d =>
    let d1 := d.setReg (pra (writerPort w) secPg 0x108) (w32 r)
    if r = 0 then d1 else d1.secRefuse

/-! Fuse burns (R470). -/

/-- A thermometer code's count, or a set of bits, only grows (R454). -/
def Burn.apply (f : Fuses) : Burn → Fuses
  | .key s v => if s = 0 then { f with key0 := f.key0 ||| v } else { f with key1 := f.key1 ||| v }
  | .revoke s => { f with revoke := f.revoke ||| BitVec.ofNat 2 (2 ^ s) }
  | .svn n => { f with svnMin := max f.svnMin n }

/-- KEY_DATA of a writer's port. -/
def Dev.keyData (s : Dev) (w : Writer) : BitVec 256 :=
  BitVec.ofNat 256 ((upFrom 0 8).foldr (fun i a => s.regN (pra (writerPort w) secPg (0x110 + 4 * i)) + 2 ^ 32 * a) 0)

/-- A burn starts. -/
def State.burnStart (s : State) (w : Writer) (b : Burn) : State :=
  { s with sec := { s.sec with burn := some b } }.lcResult w 0

/-- PROG_KEY: 4 INVALID where an operand is none a burn could take, 1 BUSY, 2 STATE otherwise (log 34). -/
def State.progKey (s : State) (w : Writer) (slot : Nat) : State :=
  let v := s.dev.keyData w
  if 1 < slot ∨ v = 0 then s.lcResult w 4
  else if s.sec.burn.isSome then s.lcResult w 1
  else if 1 < s.life ∨ s.rootKey slot ≠ 0 then s.lcResult w 2
  else s.burnStart w (.key slot v)

/-- PROG_KEY. -/
def execProgKey (w : Writer) (slot : Byte) (s : State) : Host.Outcome State Fault Refusal :=
  .next (s.secAccess w fun s => s.progKey w slot.toNat)

/-- BOOT_STAT.UNSIGNED. -/
def Dev.unsigned (s : Dev) : Bool := tb (s.regN (ra bootPg 0x100)) 13

/-- REVOKE. -/
def State.revokeKey (s : State) (w : Writer) (slot : Nat) : State :=
  if 1 < slot then s.lcResult w 4
  else if s.sec.burn.isSome then s.lcResult w 1
  else if (s.life ≠ 1 ∧ s.life ≠ 2) ∨ slot = s.sec.keySlot ∨ s.dev.unsigned then s.lcResult w 2
  else s.burnStart w (.revoke slot)

/-- REVOKE. -/
def execRevoke (w : Writer) (slot : Byte) (s : State) : Host.Outcome State Fault Refusal :=
  .next (s.secAccess w fun s => s.revokeKey w slot.toNat)

/-- SVN_BURN: a count that is reached already burns nothing. -/
def State.svnBurn (s : State) (w : Writer) (v : Nat) : State :=
  if 32 < v then s.lcResult w 4
  else if s.sec.burn.isSome then s.lcResult w 1
  else if (s.life ≠ 1 ∧ s.life ≠ 2) ∨ s.dev.regN (ra bootPg 0x104) < v then s.lcResult w 2
  else if v ≤ s.sec.fuses.svnMin then s.lcResult w 0
  else s.burnStart w (.svn v)

/-- SVN_BURN. -/
def execSvnBurn (w : Writer) (count : Byte) (s : State) : Host.Outcome State Fault Refusal :=
  .next (s.secAccess w fun s => s.svnBurn w count.toNat)

/-- A burn ends: the fuse array holds it, and the next start senses it (R470). -/
def State.burnDone (s : State) : State :=
  match s.sec.burn with
  | some b => { s with
      sec := { s.sec with fuses := b.apply s.sec.fuses, burn := none }
      dev := (s.dev.bump secPg 3 1).evt secPg 3 }
  | none => s

/-- FUSE_BURN_DONE. -/
def execFuseBurnDone (s : State) : Host.Outcome State Fault Refusal := .next s.burnDone

/-! Unlock tokens (R478, R479). -/

/-- The bytes of a staged token. -/
def tokenBytes (buf : SMap Word) : Bytes :=
  (upFrom 0 4100).flatMap fun i => leBytes 4 (mget (fun _ => 0#32) buf i).toNat

/-- A word staged at a port's TOKEN_OFS, which moves on (R483). -/
def State.tokenPut (s : State) (p : Port) (v : Word) : State :=
  let k := pra p secPg 0x180
  let i := s.dev.regN k % 2 ^ 14
  let s1 := s.onDevice fun d => d.setFld k 0 14 (i + 1)
  match p with
  | .A => { s1 with sec := { s1.sec with bufA := mset (fun _ => 0#32) s1.sec.bufA i v } }
  | .B => { s1 with sec := { s1.sec with bufB := mset (fun _ => 0#32) s1.sec.bufB i v } }

/-- TOKEN_DATA. -/
def execTokenData (w : Writer) (v : Word) (s : State) : Host.Outcome State Fault Refusal :=
  .next (s.secAccess w fun s => s.tokenPut (writerPort w) v)

/-- A token is submitted; it waits its turn. -/
def State.tokenSubmit (s : State) (src : TokenSrc) (t : Bytes) : State :=
  { s with sec := { s.sec with tokens := s.sec.tokens ++ [(src, t)] } }

/-- TOKEN_CMD.GO. -/
def State.tokenGo (s : State) (w : Writer) : State :=
  match writerPort w with
  | .A => s.tokenSubmit .A (tokenBytes s.sec.bufA)
  | .B => s.tokenSubmit .B (tokenBytes s.sec.bufB)

/-- TOKEN_CMD. -/
def execTokenCmd (w : Writer) (s : State) : Host.Outcome State Fault Refusal := .next (s.secAccess w fun s => s.tokenGo w)

/-- Some bytes of a string. -/
def cut (t : Bytes) (ofs len : Nat) : Bytes := (t.drop ofs).take len

/-- The result of a judgement: 0 OK, 1 FORMAT, 2 IDENTITY, 3 CHALLENGE, 4 KEY, 5 SIGNATURE (R483). -/
def State.tokenJudge (s : State) (t : Bytes) : Nat :=
  let slot := leNat (cut t 4 1)
  let pk := cut t 0x80 48
  if leNat (cut t 0 2) ≠ 1 ∨ 7 < leNat (cut t 2 2) ∨ leNat (cut t 5 3) ≠ 0 ∨ leNat (cut t 0x48 0x38) ≠ 0 then 1
  else if cut t 8 32 ≠ s.idPk then 2
  else if cut t 0x28 32 ≠ s.challenge then 3
  else if !s.keyLive slot ∨ leNat (Config.shake256 pk 32) ≠ s.rootKey slot then 4
  else if !Config.slhVerify pk (cut t 0 0x80) (cut t 0xB0 16224) then 5
  else 0

/-- A judgement ends (R479). -/
def State.tokenDone (s : State) : State :=
  match s.sec.tokens with
  | [] => s
  | (_, t) :: rest =>
    let r := s.tokenJudge t
    let grant := if r = 0 then BitVec.ofNat 3 (leNat (cut t 2 2)) else 0
    { s with
      sec := { s.sec with tokens := rest, tokenResult := r, ctr := (s.sec.ctr + 1) % 2 ^ 32 }
      dev := ({ s.dev with scopes := s.dev.scopes ||| grant }.bump secPg (if r = 0 then 1 else 2) 1).evt secPg 1 }

/-- TOKEN_DONE. -/
def execTokenDone (s : State) : Host.Outcome State Fault Refusal := .next s.tokenDone

/-! Attestation (R471 to R475). -/

/-- Bytes of a report. -/
def reportLen : Nat := 18112

/-- ATT_STAT.RESULT of a port. -/
def Dev.attResult (s : Dev) (p : Port) (r : Nat) : Dev := s.setReg (pra p secPg 0x1D0) (w32 r)

/-- A READY partition that the port owns. -/
def Dev.ownReady (s : Dev) (p : Port) (P : Nat) : Bool := s.ptState P == 2 && s.ptPort P == p

/-- A mask without the partitions the port may not ask for. -/
def Dev.attMask (s : Dev) (p : Port) (m : Nat) : Nat := bitsNat ((upFrom 0 Config.parts).map fun P => tb m P && s.ownReady p P)

/-- A destination the port may name (R472). -/
def Dev.attDest (s : Dev) (p : Port) (a : Nat) : Bool :=
  match placeOf a with
  | .host m y => m == p.toNat && decide (y + reportLen ≤ 2 ^ 44)
  | .vault n o => decide (s.corePart n < 12) && s.ownReady p (s.corePart n) && decide (o + reportLen ≤ vaultSize)
  | _ => false

/-- ATT_CMD.GO. -/
def State.attGo (s : State) (w : Writer) : State :=
  let p := writerPort w
  let d := s.dev
  let a := d.regN (pra p secPg 0x1C8) + 2 ^ 32 * d.regN (pra p secPg 0x1CC)
  if s.life = 3 then s.onDevice fun d => (d.attResult p 3).secRefuse
  else if !d.attDest p a then s.onDevice fun d => (d.attResult p 1).secRefuse
  else { s with sec := { s.sec with att := s.sec.att ++ [{
      port := p, mask := d.attMask p (d.regN (pra p secPg 0x1C4)), dest := a
      nonce := (upFrom 0 8).flatMap fun i => leBytes 4 (d.regN (pra p secPg (0x1E0 + 4 * i))) }] } }

/-- ATT_CMD. -/
def execAttCmd (w : Writer) (s : State) : Host.Outcome State Fault Refusal := .next (s.secAccess w fun s => s.attGo w)

/-- What a core's instruction memories contribute to a program digest (R474). -/
def Core.programBytes (c : Core) (n : Nat) : List Byte :=
  leBytes 2 n ++ ((upFrom 0 8192).flatMap fun i => leBytes 8 (mget noWord c.imemX i).value.data.toNat)
    ++ (upFrom 0 4096).flatMap fun i => leBytes 8 (mget noWord c.imemA i).value.data.toNat

/-- The program digest of a partition. -/
def Dev.programDigest (s : Dev) (P : Nat) : List Byte :=
  Config.shake256 ((s.coresOf P).flatMap fun n => (s.core n).programBytes n) 64

/-- The signed body of a report (R473). -/
def State.reportBody (s : State) (q : AttReq) : List Byte :=
  let d := s.dev
  let mask := d.attMask q.port q.mask
  let words (o k : Nat) : List Byte := (upFrom 0 k).flatMap fun i => leBytes 4 (d.regN (ra bootPg (o + 4 * i)))
  leBytes 2 1 ++ leBytes 2 0x0672 ++ [0x20, BitVec.ofNat 8 s.life, BitVec.ofNat 8 q.port.toNat, 0] ++ leBytes 2 mask ++ [0, 0]
    ++ words 0x104 1 ++ q.nonce ++ idKey ++ words 0x140 16 ++ words 0x180 16 ++ words 0x100 1 ++ List.replicate 12 0
    ++ ((upFrom 0 Config.parts).flatMap fun P => if tb mask P then d.programDigest P else List.replicate 64 0)
    ++ List.replicate 32 0

/-- The report with its signature. -/
def State.report (s : State) (q : AttReq) : List Byte := s.reportBody q ++ Config.slhSign idSeed (s.reportBody q)

/-- 16 B of a report written to a vault; an ABSENT answer ends it. -/
def Dev.reportPut (x : Dev × Bool) (n o : Nat) (v : Nat) : Dev × Bool :=
  let s := x.1
  if !x.2 then x
  else if s.podGone (podOf n) then (s.absentMark (podOf n), false)
  else match s.vaultGate n o with
    | .ok => ((s.openRow n o).vWrites n (bytesTo o 16 v), true)
    | _ => (s.absentVault n o, false)

/-- A report written to its destination; false where the write is answered ABSENT (R472). -/
def Dev.reportOut (s : Dev) (q : AttReq) (bytes : List Byte) : Dev × Bool :=
  match placeOf q.dest with
  | .vault n o =>
    ((upFrom 0 1132).zip (chunksOf 16 1132 bytes)).foldl (fun (x : Dev × Bool) (c : Nat × List Byte) =>
      Dev.reportPut x n (o + 16 * c.1) (leNat c.2)) (s, true)
  | .host _ _ =>
    if s.windowOpen q.port then
      ((s.emit (.hostWrite q.port ((bytesTo 0 reportLen (leNat bytes)).map fun (w : WWrite) =>
        { w with addr := s.hostAddr q.port (q.dest + w.addr) }))).bump (pciePg q.port) 6 (cdiv reportLen 256), true)
    else (s, false)
  | _ => (s, false)

/-- The destination holds requests: the report waits (R39, R348, R354). -/
def Dev.reportWaits (s : Dev) (a : Nat) : Bool :=
  match placeOf a with
  | .vault n o => s.vaultGate n o == .hold || s.vaultGate n (o + reportLen - 1) == .hold
  | _ => false

/-- The oldest request's report is formed and written (R472). -/
def State.attReport (s : State) : State :=
  match s.sec.att with
  | [] => s
  | q :: rest =>
    if s.dev.reportWaits q.dest then s
    else
      let r := s.dev.reportOut q (s.report q)
      { s with
        sec := { s.sec with att := rest }
        dev := ((if r.2 then r.1.bump secPg 0 1 else r.1).attResult q.port (if r.2 then 0 else 2)).evt secPg 0 }

/-- ATT_REPORT. -/
def execAttReport (s : State) : Host.Outcome State Fault Refusal := .next (if s.dev.alive then s.attReport else s)

/-! The security and boot pages read. -/

/-- A register of the security page as a port reads it (R482, R483). -/
def State.secView (s : State) (p : Port) (o : Nat) : Nat :=
  let slot (k : Nat) : Nat := b2n (s.rootKey k != 0)
  let mine (q : AttReq) : Bool := q.port == p
  if o = 0x100 then
    fields [(20, s.dev.scopes.toNat), (18, slot 0 + 2 * slot 1), (16, s.sec.sensed.revoke.toNat), (8, s.sec.sensed.svnMin),
      (2, b2n s.sec.burn.isSome), (0, s.life)]
  else if 0x140 ≤ o ∧ o < 0x160 then wordOf s.idPk ((o - 0x140) / 4)
  else if 0x160 ≤ o ∧ o < 0x180 then wordOf s.challenge ((o - 0x160) / 4)
  else if o = 0x18C then fields [(31, b2n !s.sec.tokens.isEmpty), (0, s.sec.tokenResult)]
  else if o = 0x1D0 then
    fields [(31, b2n ((s.sec.att.take 1).any mine)), (30, b2n ((s.sec.att.drop 1).any mine)), (0, s.dev.regN (pra p secPg 0x1D0) % 8)]
  else if perPort .sec 0 o then s.dev.regN (pra p secPg o)
  else 0

/-- The security block has work in flight (R11, log 48): a burn, a report or a token's check. -/
def Sec.busy (s : Sec) : Bool := s.burn.isSome || !s.att.isEmpty || !s.tokens.isEmpty

/-- What any register reads as at a port, where its page is visible. -/
def State.readReg (s : State) (p : Port) (a : Nat) : Nat :=
  let o := a % 4096
  if a / 4096 = secPg ∧ 0x100 ≤ o then s.secView p o
  else if a / 4096 = bootPg ∧ 0x100 ≤ o then s.dev.regN a
  else s.dev.readReg s.sec.sensed.f4 p a + (if a = ra secPg 0x14 then b2n s.sec.busy else 0)

end Sys2Proof.Machine
end

