-- ==== Sys2Proof/Machine/Registers.lean ====
section
/-! DEFINITION. Register writes and reads through BAR0 (R5 to R7, R11 to R18, R420 to R422, R441, R442): the access codes,
the common registers of a page, and where a write has a behaviour of its own, that behaviour. -/
namespace Sys2Proof.Machine
open Sys2Proof

/-! Stored fields. -/

/-- A register after a write under the access codes of R6. -/
def mergeReg (d : RegDef) (locked : Bool) (old v : Word) : Word :=
  let m := w32 (d.rw ||| (if locked then 0 else d.rwl))
  ((old &&& ~~~m) ||| (v &&& m)) &&& ~~~(v &&& w32 d.w1c)

/-- A field write to a register with no behaviour of its own; a boot record writes both ports' copies (R466). -/
def Dev.storeReg (s : Dev) (w : Writer) (a : Nat) (v : Word) : Dev :=
  match pageKind (a / 4096) with
  | none => s
  | some (k, i) =>
    if k = .spine ∧ i ≠ 1 ∧ 0x100 ≤ a % 4096 then s
    else match regDef k (a % 4096) with
      | none => s
      | some d =>
        let put (s : Dev) (key : Nat) : Dev := s.setReg key (mergeReg d (s.locked (a / 4096)) (s.reg key) v)
        let s1 := put s (s.regKey (writerPort w) a)
        if w = .record then put s1 (s.regKey .B a) else s1

/-! The common registers. -/

/-- BLK_EVT bits a page has. -/
def evtBits (pg : Nat) : Word :=
  match pageKind pg with
  | some (k, _) => w32 (evtMask k)
  | none => 0

/-- BLK_EVT written (R12, R13): bits the hardware raises in the same cycle stay set, and a vector whose condition still
holds is signalled again (R442). -/
def Dev.evtClear (s : Dev) (pg : Nat) (mask raised : Word) : Dev :=
  let key := ra pg 0x18
  let up := raised &&& evtBits pg
  let old := s.reg key ||| up
  (s.setReg key ((old &&& ~~~mask) ||| up)).pageLook pg ((old &&& mask) != 0)

/-- BLK_EVT_FORCE written. -/
def Dev.evtForce (s : Dev) (pg : Nat) (mask : Word) : Dev := s.raise pg (mask &&& evtBits pg)

/-- The 16 counters of a page cleared (R11, R18), and on a CORE page the stall counters with them (R170). -/
def Dev.cntClear (s : Dev) (pg : Nat) : Dev :=
  let common := mclear s.ctrs (ra pg 0x80) (ra pg 0x100)
  { s with ctrs := match pageKind pg with
      | some (.core, _) => mclear common (ra pg 0x200) (ra pg 0x300)
      | _ => common }

/-- A write to the common part of a page. CNT_CLEAR clears the counters while CNT_FREEZE holds them too (DESIGN CHOICE,
log 48: R11 does not say which field prevails). -/
def Dev.commonWrite (s : Dev) (w : Writer) (a : Nat) (v : Word) : Dev :=
  let pg := a / 4096
  let o := a % 4096
  if o = 0x10 then
    let s1 := s.storeReg w a v
    if v.getLsbD 2 then s1.cntClear pg else s1
  else if o = 0x18 then s.evtClear pg v 0
  else if o = 0x1C then (s.storeReg w a v).pageLook pg false
  else if o = 0x20 then s.evtForce pg v
  else if o = 0x28 then (if v.getLsbD 0 then s.setLock pg true else s)
  else s

/-! Writes with behaviours of their own. -/

/-- A register of the vault window (R367, R368). -/
def Dev.windowStore (s : Dev) (w : Writer) (q o : Nat) (a : Nat) (v : Word) : Dev :=
  if o = 0x138 then s.vcFlipArm w q v
  else s.windowWrite w q fun s _ => s.storeReg w a v

/-- VC_CMD (R354, R360). -/
def Dev.vcCmd (s : Dev) (w : Writer) (q : Nat) (v : Word) : Dev :=
  match v.toNat % 16 with
  | 1 => s.vcWipe w q
  | 2 => s.vcRetire w q (fld v.toNat 4 2)
  | _ => s.vcNone w q

/-- RANK of NET_RT_SEL moves on after an access of NET_RT_DATA (R416). -/
def Dev.routeInc (s : Dev) (P : Nat) : Dev :=
  let k := ra (netPg P) 0x120
  let v := s.regN k
  if tb v 31 then s.setFld k 0 12 (v + 1) else s

/-- A write of NET_RT_DATA (R393, R416). -/
def Dev.routeWrite (s : Dev) (P : Nat) (v : Word) : Dev :=
  (s.modPart P fun p => { p with
    routes := mset (fun _ => 0#4) p.routes (s.regN (ra (netPg P) 0x120) % 4096) (BitVec.ofNat 4 v.toNat) }).routeInc P

/-- A write to a page of core `n` from 0x100 on. -/
def Dev.coreWrite (s : Dev) (w : Writer) (n o a : Nat) (v : Word) : Dev :=
  if o = 0x100 then s.streamCmd n (fld v.toNat 0 4) (fld v.toNat 4 4)
  else if o = 0x3C8 then s.hostFlags w n false false v
  else if o = 0x3CC then s.hostFlags w n true false v
  else if o = 0x3D0 then s.hostFlags w n false true v
  else if o = 0x3D4 then s.hostFlags w n true true v
  else if o = 0x408 then s.imemLoad n v
  else s.storeReg w a v

/-- A write to an ARRAY/TILE page from 0x100 on. -/
def Dev.tileWrite (s : Dev) (w : Writer) (n o a : Nat) (v : Word) : Dev :=
  if o = 0x200 then s.carveWrite n v
  else if o = 0x20C then (if v.getLsbD 0 then s.spWipe n else s)
  else if o = 0x228 then s.spFlipArm n v
  else s.storeReg w a v

/-- A write to a network page from 0x100 on. -/
def Dev.netWrite (s : Dev) (w : Writer) (P o a : Nat) (v : Word) : Dev :=
  if o = 0x100 then s.netConfig P 0 v
  else if o = 0x104 then s.netConfig P 1 v
  else if o = 0x108 then s.netConfig P 2 v
  else if o = 0x124 then s.routeWrite P v
  else if o = 0x12C then s.collData P v
  else s.storeReg w a v

/-- A write to a page from 0x100 on. -/
def Dev.pageWrite (s : Dev) (f4 : Bool) (w : Writer) (k : PageKind) (i o a : Nat) (v : Word) : Dev :=
  match k with
  | .ptable => if o = 0x100 then s.ptCmd w v else s.storeReg w a v
  | .ls =>
    if o = 0x118 then s.lsInit i v
    else if 0x140 ≤ o ∧ o < 0x194 then s.lsPart i ((o - 0x140) / 4) v
    else s.storeReg w a v
  | .vq => if o = 0x108 then s.vcCmd w i v else if windowed o then s.windowStore w i o a v else s.storeReg w a v
  | .crit => if o = 0x104 then s.critFlipArm v else s.storeReg w a v
  | .net => s.netWrite w i o a v
  | .pctl =>
    if o = 0x10C then s.xlInv i v
    else if o = 0x220 then s.hangCmd i (fld v.toNat 28 4)
    else s.storeReg w a v
  | .core => s.coreWrite w i o a v
  | .tile => s.tileWrite w i o a v
  | .dma =>
    let s1 := s.storeReg w a v
    if o = 0x10C ∧ v.getLsbD 0 then s1.modCore i Core.frcInv else s1
  | .spine =>
    if i = 1 ∧ o = 0x104 then s.botLo (writerPort w) v
    else if i = 1 ∧ o = 0x108 then s.botHi (writerPort w) v
    else s.storeReg w a v
  | .link => if o = 0x100 then s.lnkCtlWrite i v else if o = 0x108 then s.lnkRetire i v else s.storeReg w a v
  | .mgmt =>
    if o = 0x100 then s.pmProfile w f4 v
    else if o = 0x114 then s.domCmd w v
    else if o = 0x600 then s.pinFn v
    else s.storeReg w a v
  | .org | .vec | .pod | .pcie | .boot | .sec => s.storeReg w a v

/-- A register written, the commands of the security page apart. -/
def Dev.writeReg (s : Dev) (f4 : Bool) (w : Writer) (a : Nat) (v : Word) : Dev :=
  match pageKind (a / 4096) with
  | none => s
  | some (k, i) =>
    if s.pageDark (a / 4096) then s
    else if a % 4096 < 0x100 then s.commonWrite w a v
    else s.pageWrite f4 w k i (a % 4096) a v

/-- LC_CMD, but for ADVANCE, which the command ADVANCE stands for (log 34). -/
def State.lcCmd (s : State) (w : Writer) (v : Nat) : State :=
  match fld v 28 4 with
  | 1 => s
  | 2 => s.progKey w (fld v 16 8)
  | 3 => s.revokeKey w (fld v 16 8)
  | 4 => s.svnBurn w (fld v 16 8)
  | _ => s.lcResult w 4

/-- Any register written by `w`. -/
def State.writeReg (s : State) (w : Writer) (a : Nat) (v : Word) : State :=
  let o := a % 4096
  if a / 4096 = secPg ∧ o = 0x104 then s.lcCmd w v.toNat
  else if a / 4096 = secPg ∧ o = 0x184 then
    (let s1 := s.tokenPut (writerPort w) v
     if w = .record then s1.tokenPut .B v else s1)
  else if a / 4096 = secPg ∧ o = 0x188 then (if v.getLsbD 31 then s.tokenGo w else s)
  else if a / 4096 = secPg ∧ o = 0x1C0 then (if v.getLsbD 31 then s.attGo w else s)
  else s.onDevice fun d => d.writeReg s.sec.sensed.f4 w a v

/-- An access by `w` to a page does `f` where it reaches it. -/
def State.pageAccess (s : State) (w : Writer) (pg : Nat) (f : State → State) : State :=
  if !s.dev.alive then s
  else
    let g := s.dev.regGate w pg
    if g.2 then f { s with dev := g.1 } else { s with dev := g.1 }

/-- REGISTER_WRITE: an aligned write of 32 bits. -/
def execRegisterWrite (w : Writer) (addr : BitVec 24) (v : Word) (s : State) : Host.Outcome State Fault Refusal :=
  .next (if addr.toNat % 4 = 0 then s.pageAccess w (addr.toNat / 4096) fun s => s.writeReg w addr.toNat v else s)

/-! Reads. -/

/-- The port as which a reader reads. -/
def emitRead (w : Writer) (a : Nat) (v : Word) (s : Dev) : Dev :=
  match w with
  | .host p => s.emit (.bar0 p a v)
  | .jtag => s.emit (.jtag v.toNat)
  | .record => s

/-- A counter's slot, or a STALL counter's (R17, R176). -/
def isCounter (a : Nat) : Bool :=
  let o := a % 4096
  (decide (0x80 ≤ o) && decide (o < 0x100)) ||
    (decide (0x200 ≤ o) && decide (o < 0x300) && match pageKind (a / 4096) with
      | some (.core, _) => true
      | _ => false)

/-- What a read does beside returning a value: a counter's low word latches its high word (R17), BOT_DATA reports
(R304), and an index with AUTOINC set moves on (R304, R416). -/
def Dev.readEffect (s : Dev) (p : Port) (a : Nat) : Dev :=
  let o := a % 4096
  if isCounter a then
    (if o % 8 = 0 then { s with latch := mset (fun _ => 0#32) s.latch a (w32 (s.ctr a / 2 ^ 32)) } else s)
  else match pageKind (a / 4096) with
    | some (.spine, 1) =>
      let res (s : Dev) : Dev := s.botResult p (match s.botTarget p with
        | .ok _ => 0
        | .error r => r)
      if o = 0x104 then res s else if o = 0x108 then (res s).botInc p else s
    | some (.net, P) =>
      if o = 0x124 then s.routeInc P
      else if o = 0x12C then
        let k := ra (netPg P) 0x128
        (if tb (s.regN k) 31 then s.setFld k 0 4 (s.regN k + 1) else s)
      else s
    | _ => s

/-- A register read by `w`: its value leaves, then the read's effects happen. A page without power reads as a free value,
and so does one whose router answers ABSENT (R38, log 13, log 31). -/
def State.readOut (s : State) (w : Writer) (a : Nat) : State :=
  let p := writerPort w
  if s.dev.pageDark (a / 4096) then
    let t := (s.dev.pageGate (a / 4096)).1.take
    { s with dev := emitRead w a (w32 t.1.toNat) t.2 }
  else s.onDevice fun d => (emitRead w a (w32 (s.readReg p a)) d).readEffect p a

/-- A read through BAR0: one that reaches no visible page returns all ones (R422). -/
def State.hostRead (s : State) (p : Port) (a : Nat) : State :=
  if !s.dev.alive || !(s.dev.port p).up || !(s.dev.port p).settled then s
  else if s.dev.visible p (a / 4096) then
    { s with dev := (s.dev.bump (pciePg p) 2 1).critSeen (s.dev.gateKeys (.host p) (a / 4096)) }.readOut (.host p) a
  else { s with dev := (s.dev.regGate (.host p) (a / 4096)).1.emit (.bar0 p a (BitVec.allOnes 32)) }

/-- COUNTER_LATCH: a read of a counter. -/
def execCounterLatch (p : Port) (addr : BitVec 24) (s : State) : Host.Outcome State Fault Refusal :=
  .next (if addr.toNat % 4 = 0 ∧ isCounter addr.toNat then s.hostRead p addr.toNat else s)

/-- AUTOINC_READ: a read of any other register. -/
def execAutoincRead (p : Port) (addr : BitVec 24) (s : State) : Host.Outcome State Fault Refusal :=
  .next (if addr.toNat % 4 = 0 ∧ !isCounter addr.toNat then s.hostRead p addr.toNat else s)

/-! The other commands. -/

/-- An access of `width` bytes that is not an aligned one of four (R7): ACCESS_ERR, and a read returns all ones. -/
def Dev.misaligned (s : Dev) (w : Writer) (a width : Nat) (write : Bool) : Dev :=
  if width = 4 ∧ a % 4 = 0 then s
  else
    let g := s.regGate w (a / 4096)
    let ends (s : Dev) : Dev := if write then s else emitRead w a (BitVec.allOnes 32) s
    let arrives := match w with
      | .host p => (s.port p).up && (s.port p).settled
      | .jtag => s.debugOpen
      | .record => false
    if g.2 then ends (g.1.evt (a / 4096) 31) else if arrives then ends g.1 else g.1

/-- MISALIGNED_ACCESS. -/
def execMisalignedAccess (w : Writer) (addr : BitVec 24) (width : Nat) (write : Bool) (s : State) : Host.Outcome State Fault Refusal :=
  .next (s.onDev fun d => d.misaligned w addr.toNat width write)

/-- CNT_CLEAR. -/
def execCntClear (w : Writer) (page : BitVec 12) (s : State) : Host.Outcome State Fault Refusal :=
  .next (s.onDev fun d => d.regAccess w page.toNat fun d => d.cntClear page.toNat)
/-- EVT_CLEAR. -/
def execEvtClear (w : Writer) (page : BitVec 12) (mask raised : Word) (s : State) : Host.Outcome State Fault Refusal :=
  .next (s.onDev fun d => d.regAccess w page.toNat fun d => d.evtClear page.toNat mask raised)
/-- EVT_FORCE. -/
def execEvtForce (w : Writer) (page : BitVec 12) (mask : Word) (s : State) : Host.Outcome State Fault Refusal :=
  .next (s.onDev fun d => d.regAccess w page.toNat fun d => d.evtForce page.toNat mask)
/-- LOCK. -/
def execLock (w : Writer) (page : BitVec 12) (s : State) : Host.Outcome State Fault Refusal :=
  .next (s.onDev fun d => d.regAccess w page.toNat fun d => d.setLock page.toNat true)

/-- An entry of the MSI-X table written through BAR4 (R420, R442): its message and its mask bit; unmasking sends the
pending message where the condition still holds. -/
def Dev.msixWrite (s : Dev) (p : Port) (v : Nat) (addr : DWord) (data : Word) (mask : Bool) : Dev :=
  let put (t : SMap Word) (i : Nat) (x : Word) : SMap Word := mset msixDefault t (4 * v + i) x
  let s1 := s.modPort p fun q => { q with
    msix := put (put (put (put q.msix 0 (w32 addr.toNat)) 1 (w32 (addr.toNat / 2 ^ 32))) 2 data) 3 (w32 (b2n mask)) }
  if !mask && (s.port p).pba.elem v then
    let s2 := s1.modPort p fun q => { q with pba := q.pba.filter (· != v) }
    if s.vecCond p v then s2.sendMsix p v else s2
  else s1

/-- VECTOR_UNMASK. -/
def execVectorUnmask (p : Port) (v : Nat) (addr : DWord) (data : Word) (mask : Bool) (s : State) : Host.Outcome State Fault Refusal :=
  .next (s.onDev fun d => if (d.port p).up ∧ v < 2048 then d.msixWrite p v addr data mask else d)

end Sys2Proof.Machine
end

