-- ==== Sys2Proof/Machine/Boot.lean ====
section
/-! DEFINITION. Start-up (R450 to R466), its end and its restart (R453, R469, R522). -/
namespace Sys2Proof.Machine
open Sys2Proof

/-! The flash (R456 to R459). -/

/-- Byte `i` of an image copy; what the copy does not list reads as erased. -/
def imgByte (l : List Byte) (i : Nat) : Nat := ((l.drop i).headD 0xFF).toNat
/-- `n` bytes from `i`. -/
def imgBytes (l : List Byte) (i n : Nat) : List Byte :=
  let part := (l.drop i).take n
  part ++ List.replicate (n - part.length) 0xFF
/-- A little-endian number of `n` bytes. -/
def imgNat (l : List Byte) (i n : Nat) : Nat := leNat (imgBytes l i n)

/-- Discovery's result: 0, or the code that ends it (R456, R457, R463). -/
def discover (f : Flash) : Nat :=
  if !f.sfdp || !f.basic then 1
  else if f.mib < 16 ∨ 256 < f.mib then 2
  else if 16 < f.mib ∧ !f.four ∧ !f.enter4 then 2
  else 0

/-- The overlay index of a copy (R464). -/
def overlayOf (fu : Fuses) (straps : Nat) (l : List Byte) : Nat :=
  if fu.modeSrc then fu.modeDefault % 8 else fld (imgNat l 0x12 2) (3 * straps) 3

/-- Header fields (R459). -/
def imgBase (l : List Byte) : Nat × Nat := (imgNat l 0x14 4, imgNat l 0x18 4)
/-- Offset, length and signature offset of overlay `i`. -/
def imgOvl (l : List Byte) (i : Nat) : Nat × Nat × Nat :=
  (imgNat l (0x20 + 16 * i) 4, imgNat l (0x24 + 16 * i) 4, imgNat l (0x28 + 16 * i) 4)
/-- The overlay's bytes. -/
def ovlBytes (l : List Byte) (i : Nat) : List Byte := imgBytes l (imgOvl l i).1 (imgOvl l i).2.1
/-- The base's bytes. -/
def baseBytes (l : List Byte) : List Byte := imgBytes l (imgBase l).1 (imgBase l).2

/-- Check 3 passes. -/
def headerOk (l : List Byte) : Bool :=
  let zero (i n : Nat) : Bool := imgNat l i n == 0
  imgBytes l 0 4 == [0x4C, 0x6F, 0x72, 0x67] && imgNat l 4 2 == 1 && imgNat l 6 2 == 0x0672 && decide (imgNat l 0x10 1 ≤ 1)
    && zero 0x11 1 && decide (imgNat l 0x12 2 < 4096) && zero 0x1C 4 && ((upFrom 0 8).all fun i => zero (0x2C + 16 * i) 4)
    && zero 0xA0 0x60 && zero 0x130 0xD0

/-- Check 4 passes: the lengths of R459, and every region within the copy's 8 MiB. -/
def layoutOk (l : List Byte) (ovl : Nat) : Bool :=
  let fits (o n : Nat) : Bool := decide (o + n ≤ 0x800000)
  let b := imgBase l
  b.1 % 8 == 0 && b.2 % 8 == 0 && decide (8 ≤ b.2) && decide (b.2 ≤ 24576) && fits b.1 b.2
    && ((upFrom 0 8).all fun i =>
      let v := imgOvl l i
      v.1 % 8 == 0 && v.2.1 % 8 == 0 && decide (v.2.1 ≤ 8192) && (v.2.1 == 0 || fits v.1 v.2.1))
    && fits (imgOvl l ovl).2.2 16224

/-! Records (R460). -/

/-- A record's effect, unfolded. -/
inductive RecOp where
  | write (addr : Nat) (v : Word)
  | ids (p : Port) (v : Word)
  deriving DecidableEq, Repr

/-- The records of a base or overlay, in 8 B pieces: their effects and how many records they are; none where a record is
malformed or the writes are more than `room` (R461, R463). -/
def unfoldRecs (room : Nat) : List (List Byte) → Option (List RecOp × Nat × Nat)
  | [] => some ([], 0, room)
  | r :: rest =>
    let op := imgByte r 0
    let field := imgNat r 1 3
    let v := w32 (imgNat r 4 4)
    match op with
    | 0 => some ([], 0, room)
    | 1 =>
      if room = 0 then none
      else (unfoldRecs (room - 1) rest).map fun x => (.write (4 * (field % 2 ^ 22)) v :: x.1, x.2.1 + 1, x.2.2)
    | 2 =>
      match rest with
      | w :: rest2 =>
        let n := v.toNat
        if imgByte w 0 ≠ 1 ∨ room < n then none
        else (unfoldRecs (room - n) rest2).map fun x =>
          (((upFrom 0 n).map fun i => RecOp.write (4 * (imgNat w 1 3 % 2 ^ 22) + i * 4 * field) (w32 (imgNat w 4 4))) ++ x.1, x.2.1 + 2, x.2.2)
      | [] => none
    | 3 => (unfoldRecs room rest).map fun x => (.ids (if field % 2 = 0 then .A else .B) v :: x.1, x.2.1 + 1, x.2.2)
    | _ => none

/-- The records of base and overlay together. -/
def imgRecs (l : List Byte) (ovl : Nat) : Option (List RecOp × Nat) :=
  let pieces (b : List Byte) : List (List Byte) := chunksOf 8 (b.length / 8) b
  match unfoldRecs 16384 (pieces (baseBytes l)) with
  | none => none
  | some x => (unfoldRecs x.2.2 (pieces (ovlBytes l ovl))).map fun y => (x.1 ++ y.1, x.2.1 + y.2.1)

/-- A command register, which records do not write (R466). -/
def recIgnored (a : Nat) : Bool :=
  let o := a % 4096
  match pageKind (a / 4096) with
  | none => true
  | some (.ptable, _) => o == 0x100
  | some (.core, _) => o == 0x100 || o == 0x408
  | some (.vq, _) => o == 0x108
  | some (.pctl, _) => o == 0x10C
  | some (.ls, _) => o == 0x118
  | some (.sec, _) => o == 0x104 || o == 0x188 || o == 0x1C0
  | some _ => false

/-- A record applied (R466). -/
def State.applyRec (s : State) (r : RecOp) : State :=
  match r with
  | .write a v =>
    if recIgnored a then s.onDevice fun d => (d.bump bootPg 1 1).evt bootPg 2
    else s.writeReg .record a v
  | .ids p v => s.onDevice fun d => d.modPort p fun q => { q with subsystem := v }

/-! An attempt (R461 to R463). -/

/-- DI. -/
def imgDi (l : List Byte) : List Byte := Config.shake256 (imgBytes l 0 0x100 ++ baseBytes l) 64
/-- DO. -/
def imgDo (l : List Byte) (ovl : Nat) : List Byte := Config.shake256 (ovlBytes l ovl) 64

/-- Checks 6 and 9 are skipped (R463). -/
def State.unsignedOk (s : State) : Bool := s.life == 0 && s.rootKey 0 == 0 && s.rootKey 1 == 0

/-- The code of a copy's first failing check, 0 where it verifies. -/
def State.checkImage (s : State) (l : List Byte) (ovl : Nat) : Nat :=
  let slot := imgNat l 0x10 1
  let pk := imgBytes l 0x100 48
  if !headerOk l then 3
  else if !layoutOk l ovl then 4
  else if (imgOvl l ovl).2.1 = 0 then 5
  else if !s.unsignedOk && (!s.keyLive slot || leNat (Config.shake256 pk 32) != s.rootKey slot) then 6
  else if imgNat l 8 4 < s.sec.sensed.svnMin then 7
  else if (imgRecs l ovl).isNone then 8
  else if !s.unsignedOk && !Config.slhVerify pk (imgDi l ++ imgDo l ovl) (imgBytes l (imgOvl l ovl).2.2 16224) then 9
  else 0

/-- Bytes read of a copy by the check that ends it (R461). -/
def readBytes (l : List Byte) (ovl code : Nat) : Nat :=
  let body := 512 + (imgBase l).2 + (imgOvl l ovl).2.1
  if code = 0 ∨ code = 9 then body + 16224 else if code = 8 then body else 512

/-- An attempt counted. -/
def Dev.attempt (s : Dev) (l : List Byte) (ovl code : Nat) : Dev := (s.bump bootPg 2 (readBytes l ovl code)).bump bootPg 3 1

/-! The sequence (R450). -/

/-- What a vault keeps where PWROK does not fall: its retirements and the counts of the running window (R357, R469). -/
def Vault.kept (v : Vault) : Vault := { retired := v.retired, ue := v.ue, ce := v.ce }

/-- The registers that tell of an overwrite scrub: THRESH, PC_RETIRED and OVW_DONE of the quarter pages (log 35). -/
def Dev.ovwRegs (s : Dev) : SMap Word :=
  (upFrom 0 4).foldl (fun (l : SMap Word) q => mset regDefault l (ra (vqPg q) 0x18) (s.reg (ra (vqPg q) 0x18) &&& 0x430#32)) []
/-- The counters that tell of it: RETIREMENTS, OVW_ROWS and OVW_FAIL_WORDS (log 35). -/
def Dev.ovwCtrs (s : Dev) : SMap Nat :=
  (upFrom 0 4).foldl (fun (l : SMap Nat) q =>
    [10, 12, 13].foldl (fun (l : SMap Nat) i => mset (fun _ => 0) l (ctrAddr (vqPg q) i) (s.ctr (ctrAddr (vqPg q) i))) l) []

/-- A unit of the part before a start: what a start from PWROK leaves, but for its pins, the values it has drawn and
what it has sent; without PWROK retirements stay, and what tells of the overwrite scrub (R452, R469). -/
def Dev.cold (s : Dev) (keep : Bool) : Dev :=
  let pins (q : PciePort) : PciePort := { perst := q.perst }
  let d : Dev := { released := false, portA := pins s.portA, portB := pins s.portB, fresh := s.fresh, out := s.out,
                   power := { capLow := s.power.capLow } }
  if keep then
    { d with
      alertMask := s.alertMask
      regs := s.ovwRegs
      ctrs := s.ovwCtrs
      power := { d.power with ovwFailed := s.power.ovwFailed }
      cores := s.cores.filterMap fun p =>
        if p.2.vault.kept = {} then none else some (p.1, { vault := p.2.vault.kept })
      links := s.links.filterMap fun p => if p.2.retired = 0 then none else some (p.1, { retired := p.2.retired }) }
  else d

/-- Critical words LIFECYCLE and ROOTKEY loaded (step 2). -/
def Dev.senseCrit (s : Dev) (f : Fuses) : Dev :=
  let key (s : Dev) (slot v : Nat) : Dev := (upFrom 0 8).foldl (fun (s : Dev) i => s.critW 1 (8 * slot + i) (fld v (32 * i) 32)) s
  key (key (s.critW 0 0 f.life) 0 f.key0.toNat) 1 f.key1.toNat

/-- Fuse sensing (R454); the profile a part with PROFILE_MAX burnt starts at (R530). -/
def State.sense (s : State) (keep : Bool) : State :=
  let f := s.sec.fuses
  let d := (s.dev.cold keep).senseCrit f
  { s with
    dev := if f.f4 then { (d.setFld (ra mgmtPg 0x100) 0 2 1) with power := { d.power with profile := 1 } } else d
    sec := { fuses := f, sensed := f, ctr := if keep then s.sec.ctr else 0, ir := s.sec.ir, cells := s.sec.cells } }

/-- BOOT_STAT. -/
def bootStat (err prim ovl img slot : Nat) (f : Flash) (fu : Fuses) (straps : Nat) (uns : Bool) (phase : Nat) : Nat :=
  fields [(28, err), (24, prim), (21, ovl), (20, img), (19, slot), (18, b2n f.quad), (17, b2n (decide (16 < f.mib))),
    (16, b2n fu.modeSrc), (14, straps), (13, b2n uns), (0, phase)]

/-- A start that fails leaves the part unreleased, with the codes (R465). -/
def State.bootFail (s : State) (err prim img : Nat) (f : Flash) (straps : Nat) : State :=
  s.onDevice fun d => d.setReg (ra bootPg 0x100) (w32 (bootStat err prim 0 img 0
    (if err < 3 then { f with quad := false, mib := 0 } else f) s.sec.sensed straps false 8))

/-- The registers that tell of the running image (R480); the time is a free value (log 13, log 35). -/
def State.bootRegs (s : State) (l : List Byte) (ovl prim img : Nat) (f : Flash) (straps : Nat) : State :=
  let t := s.dev.take
  let put (d : Dev) (o v : Nat) : Dev := d.setReg (ra bootPg o) (w32 v)
  let words (d : Dev) (o : Nat) (b : List Byte) : Dev := (upFrom 0 16).foldl (fun (d : Dev) i => put d (o + 4 * i) (wordOf b i)) d
  let d1 := put (put (put (put t.2 0x100 (bootStat 0 prim ovl img (imgNat l 0x10 1) f s.sec.sensed straps s.unsignedOk 7))
    0x104 (imgNat l 8 4)) 0x108 (imgNat l 0xC 4)) 0x110 t.1.toNat
  { s with dev := words (words d1 0x140 (imgDi l)) 0x180 (imgDo l ovl), sec := { s.sec with keySlot := imgNat l 0x10 1 } }

/-- A core after step 8 (R452): its arrays tested (R72), a core with a failing array retired (R23), its compute part reset. -/
def Dev.testCore (s : Dev) (n : Nat) (fail : BitVec 4) : Dev :=
  if fail = 0 then s else (s.modCore n fun c => { c with retired := true, selfFail := fail }).evt (corePg n 1) 3

/-- Wipe and self-test (R452). Memories hold nothing before it, since no record writes one; the tiers' clear is told as R355
has it, the scratchpads' wipe raises no event (log 35). -/
def Dev.wipeTest (s : Dev) (failing : List (Nat × BitVec 4)) : Dev :=
  let s1 := s.cores.foldl (fun (s : Dev) p => s.modCore p.1 fun c => c.wipeSp.afterReset) s
  let s2 := (upFrom 0 Config.pods).foldl (fun (s : Dev) p => s.modPod p fun q => { q with epoch := 0, held := false, recent := false })
    { s1 with
      bot := []
      crit := s1.crit.filter fun p => decide (p.1 < 2 * 65536)
      power := { s1.power with tierOff := 0, clearing := 0 } }
  let s3 := (upFrom 0 4).foldl (fun (s : Dev) q => (s.bump (vqPg q) 8 (2 * 4128768)).evt (vqPg q) 9) s2
  failing.foldl (fun (s : Dev) f => if f.1 < Config.cores then s.testCore f.1 f.2 else s) s3

/-- The records applied, then steps 8 and 9. -/
def State.bootRun (s : State) (l : List Byte) (ovl : Nat) (failing : List (Nat × BitVec 4)) : State :=
  let r := (imgRecs l ovl).getD ([], 0)
  let s1 := (r.1.foldl (fun (s : State) x => s.applyRec x) s).onDevice fun d => d.bump bootPg 0 r.2
  s1.onDevice fun d => { (d.wipeTest failing).evt bootPg 0 with released := true }

/-- Steps 3 to 9 on a part whose fuses are sensed. -/
def State.bootFlash (s : State) (f : Flash) (straps : Nat) (failing : List (Nat × BitVec 4)) : State :=
  let e := discover f
  if e ≠ 0 then s.bootFail e 0 0 f straps
  else
    let s1 := s.onDevice fun d => d.setReg (ra bootPg 0x10C) (w32 f.mib)
    let o1 := overlayOf s.sec.sensed straps f.primary
    let c1 := s1.checkImage f.primary o1
    let s2 := s1.onDevice fun d => d.attempt f.primary o1 c1
    if c1 = 0 then (s2.bootRegs f.primary o1 0 0 f straps).bootRun f.primary o1 failing
    else
      let o2 := overlayOf s.sec.sensed straps f.secondary
      let c2 := s2.checkImage f.secondary o2
      let s3 := s2.onDevice fun d => d.attempt f.secondary o2 c2
      if c2 = 0 then
        ((s3.bootRegs f.secondary o2 c1 1 f straps).onDevice fun d => d.evt bootPg 1).bootRun f.secondary o2 failing
      else s3.bootFail c2 c1 1 f straps

/-- PWROK_RISE: the start-up sequence from step 1. -/
def execPwrokRise (flash : Flash) (straps : BitVec 2) (failing : List (Nat × BitVec 4)) (s : State) :
    Host.Outcome State Fault Refusal :=
  .next (if s.dev.pwrok then s else (s.sense false).bootFlash flash straps.toNat failing)

/-- The part without power good (R453). A burn under way has taken place or has not (R455): a free value says which. -/
def State.powerDown (s : State) : State :=
  if !s.dev.pwrok then s
  else
    let t := s.dev.take
    let f := match s.sec.burn with
      | some b => if t.1.getLsbD 0 then b.apply s.sec.fuses else s.sec.fuses
      | none => s.sec.fuses
    { s with
      dev := { t.2.cold false with pwrok := false }
      sec := { fuses := f, sensed := f, ir := s.sec.ir, cells := s.sec.cells } }

/-- PWROK_FALL. -/
def execPwrokFall (s : State) : Host.Outcome State Fault Refusal := .next s.powerDown
/-- RAIL_DROP (R522). -/
def execRailDrop (s : State) : Host.Outcome State Fault Refusal := .next s.powerDown

/-! A change of the life-cycle state (R468, R469). -/

/-- LC_RESULT of an ADVANCE. -/
def State.advJudge (s : State) (target : Nat) : Nat :=
  let ok := match s.life, target with
    | 0, 1 => s.rootKey 0 != 0 || s.rootKey 1 != 0
    | 1, 2 => true
    | 0, 3 | 1, 3 => true
    | 2, 3 => s.dev.scopes.getLsbD 2
    | _, _ => false
  if !ok then 2
  else if s.dev.anyPart then 5
  else if s.sec.burn.isSome || !s.sec.att.isEmpty || !s.sec.tokens.isEmpty then 1
  else 0

/-- A word fails the verification of an overwrite scrub (R356): counted, an uncorrectable error of its pseudo-channel. -/
def Dev.ovwFail (s : Dev) (b : Nat × Nat) : Dev :=
  let o := 8 * b.2
  if Config.cores ≤ b.1 ∨ vaultSize ≤ o then s
  else
    let s1 := (s.bump (vqPg (quarterOf b.1)) 13 1).pcCount b.1 (pcOf o) 1 0
    { s1 with power := { s1.power with ovwFailed := set8 s1.power.ovwFailed (qtOf b.1 o) } }

/-- The overwrite scrub of all quarter-tiers (R356): each row written three times and read back; `bad` are the words that
still have their valid bit set, by core and number. What the vaults hold ends with it. -/
def Dev.overwrite (s : Dev) (bad : List (Nat × Nat)) : Dev :=
  let s1 := (upFrom 0 4).foldl (fun (s : Dev) q => s.bump (vqPg q) 12 (2 * 4 * 4128768))
    { s with power := { s.power with ovwActive := 0xFF, ovwFailed := 0 } }
  let s2 := bad.eraseDups.foldl Dev.ovwFail s1
  let s3 := (upFrom 0 4).foldl (fun (s : Dev) q => s.evt (vqPg q) 10) s2
  { s3 with power := { s3.power with ovwActive := 0 } }

/-- An accepted change (R469): the links go to Detect, every memory is overwritten, the bit burnt, and the start taken again
from step 2. -/
def State.advance (s : State) (w : Writer) (target : Nat) (bad : List (Nat × Nat)) (flash : Flash) (straps : Nat)
    (failing : List (Nat × BitVec 4)) : State :=
  let r := s.advJudge target
  let dark (q : PciePort) : PciePort := { subsystem := q.subsystem, off := q.off, perst := q.perst }
  let burnt := { s.sec.fuses with life := max s.sec.fuses.life target }
  if r ≠ 0 then s.lcResult w r
  else
    ({ s with
      dev := { s.dev with portA := dark s.dev.portA, portB := dark s.dev.portB }.overwrite bad
      sec := { s.sec with fuses := burnt } }.sense true).bootFlash flash straps failing

/-- ADVANCE. -/
def execAdvance (w : Writer) (target : Byte) (flash : Flash) (straps : BitVec 2) (failing : List (Nat × BitVec 4))
    (s : State) (bad : List (Nat × Nat) := []) : Host.Outcome State Fault Refusal :=
  .next (s.secAccess w fun s => s.advance w target.toNat bad flash straps.toNat failing)

end Sys2Proof.Machine
end

