-- ==== Sys2Proof/Machine/Jtag.lean ====
section
/-! DEFINITION. The test access port (R476, R477). -/
namespace Sys2Proof.Machine
open Sys2Proof

/-- An instruction is selected; the pins take part in modes 1 EXTEST, 2 HIGHZ, 3 CLAMP, and are the part's own in mode 0. -/
def State.select (s : State) (ir : Byte) (mode : Nat) : State :=
  { s with sec := { s.sec with ir := ir }, dev := s.dev.emit (.jtagPins mode s.sec.cells) }

/-- The TAP works from PWROK on (R451). -/
def State.tap (s : State) (f : State → State) : State := if s.dev.pwrok then f s else s

/-- EXTEST. -/
def execExtest (s : State) : Host.Outcome State Fault Refusal := .next (s.tap fun s => s.select 0x00 1)
/-- SAMPLE/PRELOAD: the boundary cells take what is shifted in. -/
def execSamplePreload (cells : Nat) (s : State) : Host.Outcome State Fault Refusal :=
  .next (s.tap fun s => { s with sec := { s.sec with cells := cells } }.select 0x01 0)
/-- HIGHZ. -/
def execHighz (s : State) : Host.Outcome State Fault Refusal := .next (s.tap fun s => s.select 0x02 2)
/-- CLAMP. -/
def execClamp (s : State) : Host.Outcome State Fault Refusal := .next (s.tap fun s => s.select 0x03 3)

/-- BOOT_STATUS. -/
def execBootStatus (s : State) : Host.Outcome State Fault Refusal :=
  .next (s.tap fun s => (s.select 0x10 0).onDevice fun d => d.emit (.jtag (d.regN (ra bootPg 0x100))))
/-- TOKEN_LOAD: 131,200 bits are submitted at Update-DR. -/
def execTokenLoad (token : Bytes) (s : State) : Host.Outcome State Fault Refusal :=
  .next (s.tap fun s =>
    let s1 := s.select 0x11 0
    if token.length = 16400 then s1.tokenSubmit .jtag token else s1)
/-- TOKEN_STATUS. -/
def execTokenStatus (s : State) : Host.Outcome State Fault Refusal :=
  .next (s.tap fun s => (s.select 0x12 0).onDevice fun d => d.emit (.jtag (s.secView .A 0x18C)))

/-- The TEST scope is open and no partition exists (R467, R477). -/
def State.testOpen (s : State) : Bool := (s.life != 2 || s.dev.scopes.getLsbD 0) && !s.dev.anyPart

/-- Scratchpads, instruction memories and every tier wiped, before the first TEST instruction of a start (R477). -/
def Dev.testWipe (s : Dev) : Dev :=
  let s1 := (upFrom 0 Config.cores).foldl (fun (s : Dev) n => (s.modCore n Core.wipeSp).evt (corePg n 1) 8) s
  (upFrom 0 8).foldl (fun (s : Dev) i => (s.clearTier (i / 2) (i % 2)).evt (vqPg (i / 2)) 9) s1

/-- TEST_INSTRUCTION; what a scan or self-test shows on TDO the spec does not give (log 36). -/
def execTestInstruction (code : Byte) (s : State) : Host.Outcome State Fault Refusal :=
  .next (s.tap fun s =>
    let s1 := (s.select code 0).onDevice fun d => d.critSeen (0 :: ptKeys)
    if 0x20 ≤ code.toNat ∧ code.toNat < 0x80 ∧ s.testOpen ∧ !s.sec.testWiped then
      { s1 with dev := s1.dev.testWipe, sec := { s1.sec with testWiped := true } }
    else s1)

/-- A DEBUG instruction's access (R476): as from the owning port, whatever the visibility; a misaligned one under R7. -/
def State.debugDo (s : State) (write : Bool) (a : Nat) (v : Word) : State :=
  if a % 4 ≠ 0 then s.onDevice fun d => d.misaligned .jtag a 4 write
  else if (pageKind (a / 4096)).isNone then
    (if write then s else s.onDevice fun d => d.emit (.jtag (2 ^ 32 - 1)))
  else
    let s1 := s.onDevice fun d => d.critSeen (d.gateKeys .jtag (a / 4096))
    if write then s1.writeReg .jtag a v else s1.readOut .jtag a

/-- DEBUG_ACCESS. -/
def execDebugAccess (code : Byte) (write : Bool) (addr : BitVec 24) (v : Word) (s : State) : Host.Outcome State Fault Refusal :=
  .next (s.tap fun s =>
    let s1 := s.select code 0
    if 0x80 ≤ code.toNat ∧ code.toNat < 0x90 ∧ s.dev.debugOpen ∧ !s.dev.tripped then s1.debugDo write addr.toNat v else s1)

/-- BYPASS, and every opcode that acts as it. -/
def execBypass (code : Byte) (s : State) : Host.Outcome State Fault Refusal := .next (s.tap fun s => s.select code 0)
/-- Test-Logic-Reset. -/
def execTapReset (s : State) : Host.Outcome State Fault Refusal := .next (s.tap fun s => s.select 0xFF 0)

end Sys2Proof.Machine
end

