-- ==== Sys2Proof/Machine/Training.lean ====
section
/-! DEFINITION. `vupd` (R245 to R260): its start, the update, the statistics, scaling, seals and the skiver. -/
namespace Sys2Proof.Machine
open Sys2Proof

/-! The header and records of a `vupd` (R245, R246). -/

/-- RACC of a `vupd`. -/
def uRacc (h : Nat) : Bool := tb h 31
/-- UNSCALE. -/
def uUnscale (h : Nat) : Bool := tb h 30
/-- WQ. -/
def uWq (h : Nat) : Bool := tb h 29
/-- MOM. -/
def uMom (h : Nat) : Bool := tb h 28
/-- FACT. -/
def uFact (h : Nat) : Bool := tb h 27
/-- GPHASE of a `vupd`. -/
def uGphase (h : Nat) : Bool := tb h 71
/-- SKM. -/
def uSkm (h : Nat) : Nat := fld h 72 3

/-- The records of a KIND as their roles, each with whether it is read: 0 element input, 1 element output,
2 parameter or momentum, 3 FP32 elements, 4 row vector, 5 column vector, 6 scalar, 7 working copy,
8 skiver records. -/
def uRoles (h : Nat) : List (Nat × Bool) :=
  match hdrKind h with
  | 0 => [(0, true), (2, true)] ++ (if uMom h then [(2, true)] else [])
      ++ (if uFact h then [(4, true), (5, true), (6, true)] else [(3, true)]) ++ (if uWq h then [(7, false)] else [])
  | 1 => [(0, true), (4, uRacc h), (5, uRacc h)]
  | 2 => [(4, true), (4, true), (5, true), (5, true), (6, false)]
  | 3 => [(0, true), (1, false)]
  | 5 => [(0, true), (3, true), (8, false)]
  | 6 => [(8, true), (3, uRacc h)]
  | _ => []

/-- Bytes of a skiver record (R256). -/
def skSize : Nat → Nat
  | 2 => 12
  | 3 => 24
  | _ => 8

/-- A format is accepted for a role (R246). -/
def roleFmt : Nat → Nat → Bool
  | 0, f | 1, f => elemFmt f
  | 2, f => decide (f ≤ 1)
  | 7, f => isMx f
  | 8, f => f == 13
  | _, f => f == 0

/-- The rows a KIND works on begin at ROWOFS, which FACTOR ignores (R246). -/
def uRowofs (h rowofs : Nat) : Nat := if hdrKind h = 2 then 0 else rowofs

/-- Byte ranges of a record in its role. -/
def roleRanges (h rowofs role : Nat) (v : VRec) : List (Int × Nat) :=
  let R0 := uRowofs h rowofs
  match role with
  | 4 => [(((v.base + 4 * R0 : Nat) : Int), 4 * hRows h)]
  | 5 => [((v.base : Int), 4 * hCols h)]
  | 6 => [((v.base : Int), 4)]
  | 8 => [(((v.base + R0 * hCb h * skSize (uSkm h) : Nat) : Int), hRows h * hCb h * skSize (uSkm h))]
  | _ => v.allRanges R0 (hRows h) (hCols h)

/-- A record fails its alignment. -/
def roleUnaligned (role : Nat) (v : VRec) : Bool :=
  if 4 ≤ role ∧ role ≠ 7 then v.base % 4 != 0 else v.unaligned

/-- The records of an entry with their roles. -/
def uRecs (desc : Nat) (d : List DWord) (h : Nat) : List ((Nat × Bool) × VRec) :=
  ((uRoles h).zip (upFrom 0 (uRoles h).length)).map fun q => (q.1, recAt desc d q.2)

/-- VEC_DESC of a `vupd` (R260). -/
def updBad (h : Nat) (recs : List VRec) : Bool :=
  tb h 23 || fld h 75 309 != 0 || hdrKind h == 7
    || ((hdrKind h == 5 || hdrKind h == 6) && decide (4 < uSkm h)) || recs.any recBad

/-- TSTEP is outside the window of R247. -/
def updStepBad (h n : Nat) : Bool :=
  let d := stepDiff (hdrStep h) n
  match hdrKind h with
  | 0 | 1 | 2 | 3 => decide (d < 0)
  | 4 => decide (d < 0) || decide (1 < d)
  | _ => false

/-- The faults of a `vupd` at start, the lowest code first (R232, R260). -/
def Dev.updFault (s : Dev) (n : Nat) (e : VecEntry) (h : Nat) (d : List DWord) : Option Nat :=
  let rs := uRecs e.desc d h
  let here := rs.filter fun r => !outSp r.2.at_ 32
  let len := 64 + 32 * rs.length
  let t := rs.flatMap fun r => roleRanges h e.rowofs r.1.1 r.2
  if outSp e.desc 64 then firstFault [(s.inCarve n e.desc 64, 0x2D), (true, 0x32)]
  else
    firstFault
      [(s.inCarve n e.desc len || t.any (fun p => s.inCarve n p.1.toNat p.2), 0x2D),
       (updBad h (here.map (·.2)), 0x30),
       (here.any (fun r => !roleFmt r.1.1 r.2.fmt), 0x31),
       (outSp e.desc len || t.any offSp || rs.any (fun r => roleUnaligned r.1.1 r.2), 0x32),
       (updStepBad h (s.core n).updStep.toNat, 0x33)]

/-- The head entry is abandoned while the execute stream drains to a stop (R221, R247). -/
def Dev.vecGiveUp (s : Dev) (n : Nat) : Dev :=
  let t := (s.core n).x
  if t.st = .draining ∧ t.target ≠ .halted then
    s.modStop n fun c => if t.target = .idle then (c.abandonVec 0).discardX else c.abandonVec 0
  else s

/-- A `vupd` at the head starts, waits for a verdict, or faults (R247, R260); it waits while what it touches is being
cleared (R133, R138). -/
def Dev.updBegin (s : Dev) (n : Nat) (e : VecEntry) : Dev :=
  let c := s.core n
  let h := c.vupdHdr e
  let len := 64 + 32 * (uRoles h).length
  let ws := descWords e.desc (uRoles h).length
  let d := ws.map fun i => (c.spPeek i).data
  let held := !outSp e.desc 64 && (c.spHeld e.desc len
    || (uRecs e.desc d h).any fun r => (roleRanges h e.rowofs r.1.1 r.2).any fun q => c.spHeld q.1.toNat q.2)
  if held then s
  else if c.vupdWaits e then s.vecGiveUp n
  else
    let s1 := s.spNote n ws
    match c.poisonIn ws, s.inCarve n e.desc len with
    | some i, false => s1.vecFault n 0x2E (8 * i) true
    | _, _ =>
      match s.updFault n e h d with
      | some f => s1.vecFault n f 0 false
      | none => s1.modCore n fun c => { c.setHead { e with started := true, d := d, conv := s.convNow n (some (hdrStep h)) } with vGovf := false }

/-- VEC_ENTRY_START: the head entry reads its descriptor again, and starts (R196, R226). An entry behind an abandoned one
does not start (R221). -/
def Dev.vecStart (s : Dev) (n : Nat) : Dev :=
  match (s.core n).vq with
  | [] => s
  | e :: _ =>
    if e.started ∨ (s.core n).spHeld e.desc 64 ∨ (s.core n).vAbandoned.any (·.work < e.work) then s
    else if e.opc = 2 then s.updBegin n e else s.chainBegin n e

/-- VEC_ENTRY_START. -/
def execVecEntryStart (core : Nat) (s : State) : Host.Outcome State Fault Refusal :=
  .next (s.onCore core fun d => d.vecStart core)

/-! The work of a KIND. -/

/-- What a `vupd` computes: its writes, their indications, and whether it raises gradient overflow. -/
abbrev UpdOut := List WWrite × List Stat × Bool

/-- Byte ranges a `vupd` reads: its records that are read, and the bucket exponents of its FX outputs. -/
def updReads (e : VecEntry) (h : Nat) : List (Int × Nat) :=
  (uRecs e.desc e.d h).flatMap fun r =>
    if r.1.2 then roleRanges h e.rowofs r.1.1 r.2
    else if isFx r.2.fmt then
      let p := e.rowofs * hCols h
      [(((r.2.sbase + p / 4096 : Nat) : Int), (p + hRows h * hCols h - 1) / 4096 - p / 4096 + 1)]
    else []

/-- The started `vupd` of KIND `k` at the head does its work (R259): it reads every record it reads, a poisoned
word is a fault, and its results are written. -/
def Dev.updDo (s : Dev) (n k : Nat) (f : Core → VecEntry → Nat → UpdOut) : Dev :=
  let c := s.core n
  match c.vq with
  | [] => s
  | e :: _ =>
    let h := wordsNat (e.d.take 8)
    if !e.started ∨ e.ended ∨ e.opc ≠ 2 ∨ hdrKind h ≠ k then s
    else
      if ((uRecs e.desc e.d h).flatMap fun r => roleRanges h e.rowofs r.1.1 r.2).any (fun q => c.spHeld q.1.toNat q.2) then s
      else
        let is := rangeWords (updReads e h)
        let s1 := s.spNote n is
        match c.poisonIn is with
        | some i => s1.vecFault n 0x2E (8 * i) true
        | none =>
          let o := f c e h
          let s2 := s1.vecWrite n { due := 0, ws := joinWrites o.1, sat := (o.2.1.filter (·.sat)).length, ovf := o.2.2 }
          s2.modCore n fun c => match c.vq with
            | g :: _ => c.setHead { g with ended := true }
            | [] => c

/-- The exponent of TSTEP: E_n or E_next (R247). -/
def Core.stepExp (c : Core) (h : Nat) : Int :=
  if stepDiff (hdrStep h) c.updStep.toNat = 0 then (fld c.updLs.toNat 0 6 : Nat) else (fld c.updLs.toNat 8 6 : Nat)
/-- V_n is APPLY. -/
def Core.applies (c : Core) : Bool := c.updLs.getLsbD 16
/-- Word `w` of the group entry of TSTEP (R264). -/
def Core.grp (c : Core) (h w : Nat) : Word := mget (fun _ => 0) c.groups (8 * fld h 64 6 + w)

/-- A `vupd`'s random bits for a record (R253). -/
def updSr (e : VecEntry) (v : VRec) : Sr := e.conv.for_ v.at_

/-- The gradient at (R, c), unscaled when UNSCALE is set, with one rounding (R248, R250). -/
def updGrad (c : Core) (e : VecEntry) (h : Nat) (v : VRec) (R col : Nat) : Word :=
  let g := v.inW c.spRd h (updSr e v) R col (R * hCols h + col)
  if uUnscale h then toF32 ((ofF32 g).scale (-(c.stepExp h))) else g

/-- An FP32 word of a vector record. -/
def vecW (c : Core) (v : VRec) (i : Nat) : Word := w32 (rdBytes c.spRd (v.base + 4 * i) 4)
/-- An FP32 or BF16 element as FP32. -/
def elemW (c : Core) (v : VRec) (R col : Nat) : Word := toF32 (decElem v.fmt ((v.row R).code c.spRd col))
/-- The sum over 32 lanes divided by 32 (R250, R256). -/
def mean32 (l : List Word) : Word := mulF (lget 0 (treeRed addF 5 l) 0) 0x3D000000#32
/-- a > b, false with a NaN. -/
def gtW (a b : Word) : Bool := !isNanW a && !isNanW b && ordW a b == 1

/-- A master or momentum element as it is stored: BF16 stochastically (R251). -/
def masterW (v : VRec) (g : Sr) (R col p : Nat) (w : Word) : List WWrite × Stat :=
  let r := if v.fmt = 0 then (w.toNat, {}) else encElem 1 2 (g.bits p) v.sat (ofF32 w)
  ((v.row R).put col r.1, r.2)

/-- One 32-element block of UPDATE (R250, R251). -/
def updBlock (c : Core) (e : VecEntry) (h R b : Nat) : List WWrite × List Stat :=
  let rec_ (i : Nat) : VRec := recAt e.desc e.d i
  let g := rec_ 0
  let w := rec_ 1
  let m := rec_ 2
  let k := 2 + b2n (uMom h)
  let cols := upFrom (32 * b) 32
  let one : Word := oneW
  let omb1 := subF one (c.grp h 2)
  let omb2 := subF one (c.grp h 3)
  let gs := cols.map fun col => updGrad c e h g R col
  let vs := (gs.zip cols).map fun q =>
    if uFact h then divF (mulF (vecW c (rec_ k) R) (vecW c (rec_ (k + 1)) q.2)) (vecW c (rec_ (k + 2)) 0)
    else fmaF (c.grp h 3) (elemW c (rec_ k) R q.2) (mulF omb2 (fmaF q.1 q.1 (c.grp h 4)))
  let us := (gs.zip vs).map fun q => divF q.1 (addF (sqrtF q.2) (c.grp h 5))
  let rms := sqrtF (mean32 (us.map fun u => mulF u u))
  let clip := c.grp h 6
  let us1 := if posW clip && gtW rms clip then us.map fun u => mulF u (divF clip rms) else us
  let ms := (us1.zip cols).map fun q =>
    if uMom h then fmaF (c.grp h 2) (elemW c m R q.2) (mulF omb1 q.1) else q.1
  let ws := (ms.zip cols).map fun q =>
    let w0 := elemW c w R q.2
    fmaF (negF (c.grp h 0)) (fmaF (c.grp h 1) w0 q.1) w0
  let p (col : Nat) : Nat := R * hCols h + col
  let wOut := (ws.zip cols).map fun q => masterW w (updSr e w) R q.2 (p q.2) q.1
  let mOut := if uMom h then (ms.zip cols).map fun q => masterW m (updSr e m) R q.2 (p q.2) q.1 else []
  let vOut := if uFact h then [] else (vs.zip cols).flatMap fun q => ((rec_ k).row R).put q.2 q.1.toNat
  let qr := rec_ (k + if uFact h then 3 else 1)
  let qk := encBlock qr.fmt 2 qr.sat qr.srule (ws.map ofF32) (cols.map fun col => (updSr e qr).bits (p col))
  let qOut := if uWq h then
      ((qk.2.zip cols).flatMap fun q => (qr.row R).put q.2 q.1.1) ++ wrBits ((rowOfs qr.sbase qr.ss R).toNat + b) 0 8 qk.1
    else []
  (wOut.flatMap (·.1) ++ mOut.flatMap (·.1) ++ vOut ++ qOut,
   wOut.map (·.2) ++ mOut.map (·.2) ++ if uWq h then qk.2.map (·.2) else [])

/-- Row and block numbers of an entry. -/
def updBlocks (e : VecEntry) (h : Nat) : List (Nat × Nat) :=
  (upFrom e.rowofs (hRows h)).flatMap fun R => (upFrom 0 (hCb h)).map fun b => (R, b)

/-- What UPDATE writes (R247, R250). -/
def Core.updateOut (c : Core) (e : VecEntry) (h : Nat) : UpdOut :=
  if c.applies then
    let l := (updBlocks e h).map fun q => updBlock c e h q.1 q.2
    (l.flatMap (·.1), l.flatMap (·.2), false)
  else ([], [], false)

/-- UPDATE (R247, R250). -/
def Dev.update (s : Dev) (n : Nat) : Dev := s.updDo n 0 Core.updateOut

/-- UPDATE. -/
def execUpdate (core : Nat) (s : State) : Host.Outcome State Fault Refusal :=
  .next (s.onCore core fun d => d.update core)

/-- Words written to a vector record. -/
def vecOut (v : VRec) (i : Nat) (ws : List Word) : List WWrite :=
  (ws.zip (upFrom 0 ws.length)).flatMap fun q => wrBits (v.base + 4 * (i + q.2)) 0 32 q.1.toNat

/-- What STATS writes (R248). -/
def Core.statsOut (c : Core) (e : VecEntry) (h : Nat) : UpdOut :=
  let g := recAt e.desc e.d 0
  let rv := recAt e.desc e.d 1
  let cv := recAt e.desc e.d 2
  let sq := (upFrom e.rowofs (hRows h)).map fun R =>
    (upFrom 0 (hCols h)).map fun col => let x := updGrad c e h g R col; mulF x x
  let rows := (sq.zip (upFrom e.rowofs (hRows h))).map fun q =>
    (chunksOf 64 64 q.1).foldl (fun acc grp => addF acc (groupRed 0 grp)) (if uRacc h then vecW c rv q.2 else 0)
  let cols := sq.foldl (fun acc row => (acc.zip row).map fun q => addF q.1 q.2)
    ((upFrom 0 (hCols h)).map fun j => if uRacc h then vecW c cv j else 0)
  (vecOut rv e.rowofs rows ++ vecOut cv 0 cols, [], false)

/-- STATS (R248). -/
def Dev.stats (s : Dev) (n : Nat) : Dev := s.updDo n 1 Core.statsOut

/-- STATS. -/
def execStats (core : Nat) (s : State) : Host.Outcome State Fault Refusal :=
  .next (s.onCore core fun d => d.stats core)

/-- What FACTOR writes (R249). -/
def Core.factorOut (c : Core) (e : VecEntry) (h : Nat) : UpdOut :=
  let rec_ (i : Nat) : VRec := recAt e.desc e.d i
  let nat (k : Nat) : Word := toF32 (Val.ofInt k 0)
  let omb2 := subF oneW (c.grp h 3)
  let upd (old sum : Word) (k : Nat) : Word :=
    fmaF (c.grp h 3) old (mulF omb2 (addF (divF sum (nat k)) (c.grp h 4)))
  if c.applies then
    let r := (upFrom 0 (hRows h)).map fun i => upd (vecW c (rec_ 1) i) (vecW c (rec_ 0) i) (hCols h)
    let q := (upFrom 0 (hCols h)).map fun j => upd (vecW c (rec_ 3) j) (vecW c (rec_ 2) j) (hRows h)
    (vecOut (rec_ 1) 0 r ++ vecOut (rec_ 3) 0 q ++ vecOut (rec_ 4) 0 [divF (r.foldl addF 0) (nat (hRows h))], [], false)
  else ([], [], false)

/-- FACTOR (R249). -/
def Dev.factor (s : Dev) (n : Nat) : Dev := s.updDo n 2 Core.factorOut

/-- FACTOR. -/
def execFactor (core : Nat) (s : State) : Host.Outcome State Fault Refusal :=
  .next (s.onCore core fun d => d.factor core)

/-- What SCALE writes (R252). -/
def Core.scaleOut (c : Core) (e : VecEntry) (h : Nat) : UpdOut :=
  let i := recAt e.desc e.d 0
  let o := recAt e.desc e.d 1
  let k : Int := if tb h 70 then -(c.stepExp h) else c.stepExp h
  let rows := (upFrom e.rowofs (hRows h)).map fun R =>
    let xs := (upFrom 0 (hCols h)).map fun col => ofF32 (i.inW c.spRd h (updSr e i) R col (R * hCols h + col))
    let w := o.outW c.spRd h (updSr e o) R 0 (R * hCols h) (xs.map fun x => (x.scale k, false, false))
    (w, xs.any fun x => !x.isFin)
  (rows.flatMap (·.1.1), rows.flatMap (·.1.2),
   uGphase h && rows.any fun r => r.2 || r.1.2.any (·.fxovf))

/-- SCALE (R252). -/
def Dev.scaleOp (s : Dev) (n : Nat) : Dev := s.updDo n 3 Core.scaleOut

/-- SCALE. -/
def execScale (core : Nat) (s : State) : Host.Outcome State Fault Refusal :=
  .next (s.onCore core fun d => d.scaleOp core)

/-- SEAL (R240, R247): the seal leaves the core; the entry ends when the verdict of its step is in the core's
copy. -/
def Dev.sealOp (s : Dev) (n : Nat) : Dev :=
  match (s.core n).vq with
  | [] => s
  | e :: _ =>
    let h := wordsNat (e.d.take 8)
    if !e.started ∨ e.ended ∨ e.opc ≠ 2 ∨ hdrKind h ≠ 4 then s
    else if stepDiff (hdrStep h) (s.core n).updStep.toNat ≤ 0 then s.modCore n fun c => c.setHead { e with ended := true }
    else if e.sealSent then s
    else
      ((s.modCore n fun c => { c.setHead { e with sealSent := true } with updLs := c.updLs ||| 0x20000#32 }).inject
        { cls := .seal, vc := 0, dst := epMgmt, src := n, epoch := (s.pod (podOf n)).epoch, info := [hdrStep h] }).vecGiveUp n

/-- SEAL. -/
def execSeal (core : Nat) (s : State) : Host.Outcome State Fault Refusal :=
  .next (s.onCore core fun d => d.sealOp core)

/-! The skiver (R256 to R258). -/

/-- Elements a top-k record carries. -/
def skTop : Nat → Nat
  | 0 => 1
  | 1 => 2
  | 2 => 4
  | _ => 8

/-- The indices of the `k` largest magnitudes, ascending; ties go to the lower index. -/
def topK (k : Nat) (es : List Word) : List Nat :=
  let mags := (es.map fun w => (absF w).toNat).zip (upFrom 0 es.length)
  (mags.filter fun q => decide ((mags.filter fun r => decide (q.1 < r.1) || (r.1 == q.1 && decide (r.2 < q.2))).length < k)).map (·.2)

/-- FP16 of a value, to nearest even, saturating; and back. -/
def toH (w : Word) : Nat := (encElem 2 0 0 true (ofF32 w)).1
/-- The FP32 value of an FP16 code. -/
def ofH (c : Nat) : Word := toF32 (decElem 2 c)

/-- The record of a block of error-fed gradients, as a number, and the block's new residuals; `none` where E is
left unchanged (R256, R257). -/
def skBlock (skm : Nat) (es : List Word) : Nat × Option (List Word) :=
  let bad := es.any fun w => !(ofF32 w).isFin
  if skm = 4 then
    if bad then (0x7E00 * 2 ^ 32, none)
    else
      let mu := toH (mean32 (es.map absF))
      let neg := es.map fun w => ordW w 0 == -1
      (packBits 1 (neg.map b2n) + mu * 2 ^ 32,
       some ((es.zip neg).map fun q => subF q.1 (if q.2 then negF (ofH mu) else ofH mu)))
  else
    let k := skTop skm
    let at_ := if skm = 3 then 64 else 32
    let ix := if bad then upFrom 0 k else topK k es
    let vs := if bad then ix.map fun _ => 0x7E00 else ix.map fun j => toH (lget 0 es j)
    (packBits 5 ix + packBits 16 vs * 2 ^ at_,
     if bad then none
     else some ((es.zip (upFrom 0 es.length)).map fun q =>
       if ix.elem q.2 then subF q.1 (ofH (toH q.1)) else q.1))

/-- FP32 elements of a block written to an element record. -/
def blockOut (v : VRec) (R : Nat) (cols : List Nat) (ws : List Word) : List WWrite :=
  (ws.zip cols).flatMap fun z => (v.row R).put z.2 z.1.toNat

/-- What COMPRESS writes (R256, R257). Its FP16 values are no output conversion of a record: their saturation is not gathered
(DESIGN CHOICE, log 54). -/
def Core.compressOut (c : Core) (e : VecEntry) (h : Nat) : UpdOut :=
  let g := recAt e.desc e.d 0
  let ev := recAt e.desc e.d 1
  let cp := recAt e.desc e.d 2
  let size := skSize (uSkm h)
  let l := (updBlocks e h).map fun q =>
    let cols := upFrom (32 * q.2) 32
    let es := cols.map fun col =>
      addF (g.inW c.spRd h (updSr e g) q.1 col (q.1 * hCols h + col)) (elemW c ev q.1 col)
    let r := skBlock (uSkm h) es
    let out := (bytesTo (cp.base + (q.1 * hCb h + q.2) * size) size r.1)
    match r.2 with
    | some ne => (out ++ blockOut ev q.1 cols ne, false)
    | none => (out, true)
  (l.flatMap (·.1), [], uGphase h && l.any (·.2))

/-- COMPRESS (R256, R257). -/
def Dev.compress (s : Dev) (n : Nat) : Dev := s.updDo n 5 Core.compressOut

/-- COMPRESS. -/
def execCompress (core : Nat) (s : State) : Host.Outcome State Fault Refusal :=
  .next (s.onCore core fun d => d.compress core)

/-- The 32 decoded values of a block record (R258). -/
def skDecode (skm v : Nat) : List Word :=
  if skm = 4 then
    (upFrom 0 32).map fun j => if tb v j then negF (ofH (fld v 32 16)) else ofH (fld v 32 16)
  else
    let at_ := if skm = 3 then 64 else 32
    (upFrom 0 32).map fun j =>
      match (upFrom 0 (skTop skm)).find? fun i => fld v (5 * i) 5 == j with
      | some i => ofH (fld v (at_ + 16 * i) 16)
      | none => 0

/-- The writes of one decoded block. -/
def expandOut (c : Core) (racc : Bool) (o : VRec) (R b : Nat) (ws : List Word) : List WWrite :=
  let cols := upFrom (32 * b) 32
  blockOut o R cols ((ws.zip cols).map fun z => if racc then addF (elemW c o R z.2) z.1 else z.1)

/-- What EXPAND writes (R258). -/
def Core.expandWrites (c : Core) (e : VecEntry) (h : Nat) : UpdOut :=
  let cp := recAt e.desc e.d 0
  let size := skSize (uSkm h)
  ((updBlocks e h).flatMap fun q => expandOut c (uRacc h) (recAt e.desc e.d 1) q.1 q.2
    (skDecode (uSkm h) (rdBytes c.spRd (cp.base + (q.1 * hCb h + q.2) * size) size)), [], false)

/-- EXPAND (R258). -/
def Dev.expand (s : Dev) (n : Nat) : Dev := s.updDo n 6 Core.expandWrites

/-- EXPAND. -/
def execExpand (core : Nat) (s : State) : Host.Outcome State Fault Refusal :=
  .next (s.onCore core fun d => d.expand core)

end Sys2Proof.Machine
end

