-- ==== Sys2Proof/Machine/Dispatch.lean ====
section
/-! DEFINITION. Dispatch: one arm per command (R145 to R532 as each meaning cites). -/
namespace Sys2Proof.Machine
open Sys2Proof

/-- The effect of a command on everything but the queue. -/
def exec (i : Instr) (s : State) : Host.Outcome State Fault Refusal :=
  match i with
  | .registerWrite w addr v => Sys2Proof.Machine.execRegisterWrite w addr v s
  | .misalignedAccess w addr width write => Sys2Proof.Machine.execMisalignedAccess w addr width write s
  | .counterLatch p addr => Sys2Proof.Machine.execCounterLatch p addr s
  | .cntClear w page => Sys2Proof.Machine.execCntClear w page s
  | .evtClear w page mask raised => Sys2Proof.Machine.execEvtClear w page mask raised s
  | .evtForce w page mask => Sys2Proof.Machine.execEvtForce w page mask s
  | .lock w page => Sys2Proof.Machine.execLock w page s
  | .vectorUnmask p v addr data mask => Sys2Proof.Machine.execVectorUnmask p v addr data mask s
  | .fetch core sid => Sys2Proof.Machine.execFetch core sid s
  | .nop core sid => Sys2Proof.Machine.execNop core sid s
  | .loopSet core sid => Sys2Proof.Machine.execLoopSet core sid s
  | .loopStep core sid => Sys2Proof.Machine.execLoopStep core sid s
  | .cmp core sid => Sys2Proof.Machine.execCmp core sid s
  | .br core sid => Sys2Proof.Machine.execBr core sid s
  | .fset core sid => Sys2Proof.Machine.execFset core sid s
  | .fclr core sid => Sys2Proof.Machine.execFclr core sid s
  | .seqOpRelease core sid => Sys2Proof.Machine.execSeqOpRelease core sid s
  | .fwait core sid => Sys2Proof.Machine.execFwait core sid s
  | .qpush core => Sys2Proof.Machine.execQpush core s
  | .qpop core => Sys2Proof.Machine.execQpop core s
  | .halt core sid => Sys2Proof.Machine.execHalt core sid s
  | .chainStart core => Sys2Proof.Machine.execChainStart core s
  | .wld core => Sys2Proof.Machine.execWld core s
  | .wldDone core arr => Sys2Proof.Machine.execWldDone core arr s
  | .wsw core => Sys2Proof.Machine.execWsw core s
  | .mm core => Sys2Proof.Machine.execMm core s
  | .mmalt core => Sys2Proof.Machine.execMmalt core s
  | .accUpdate core arr => Sys2Proof.Machine.execAccUpdate core arr s
  | .drn core => Sys2Proof.Machine.execDrn core s
  | .drainResume core count drain => Sys2Proof.Machine.execDrainResume core count s drain
  | .drainDone core drain => Sys2Proof.Machine.execDrainDone core s drain
  | .tcfg core => Sys2Proof.Machine.execTcfg core s
  | .trel core => Sys2Proof.Machine.execTrel core s
  | .tld core => Sys2Proof.Machine.execTld core s
  | .tst core => Sys2Proof.Machine.execTst core s
  | .tileStart core => Sys2Proof.Machine.execTileStart core s
  | .tileRetire core => Sys2Proof.Machine.execTileRetire core s
  | .vch core => Sys2Proof.Machine.execVch core s
  | .vred core => Sys2Proof.Machine.execVred core s
  | .vupd core => Sys2Proof.Machine.execVupd core s
  | .vecEntryStart core => Sys2Proof.Machine.execVecEntryStart core s
  | .chainGroup core wait => Sys2Proof.Machine.execChainGroup core s wait
  | .chainEnd core => Sys2Proof.Machine.execChainEnd core s
  | .update core => Sys2Proof.Machine.execUpdate core s
  | .stats core => Sys2Proof.Machine.execStats core s
  | .factor core => Sys2Proof.Machine.execFactor core s
  | .scale core => Sys2Proof.Machine.execScale core s
  | .seal core => Sys2Proof.Machine.execSeal core s
  | .compress core => Sys2Proof.Machine.execCompress core s
  | .expand core => Sys2Proof.Machine.execExpand core s
  | .overflowNotice k u => Sys2Proof.Machine.execOverflowNotice k s u
  | .sealReceived k u => Sys2Proof.Machine.execSealReceived k s u
  | .verdictRecord k core u => Sys2Proof.Machine.execVerdictRecord k s core u
  | .lsInit w part v => Sys2Proof.Machine.execLsInit w part v s
  | .lsPart w part idx v => Sys2Proof.Machine.execLsPart w part idx v s
  | .start w core x a => Sys2Proof.Machine.execStart w core x a s
  | .suspend w core x a => Sys2Proof.Machine.execSuspend w core x a s
  | .resume w core x a => Sys2Proof.Machine.execResume w core x a s
  | .abort w core x a => Sys2Proof.Machine.execAbort w core x a s
  | .streamDrainDone core sid => Sys2Proof.Machine.execStreamDrainDone core sid s
  | .stopAfter core sid => Sys2Proof.Machine.execStopAfter core sid s
  | .imemLoad w core v => Sys2Proof.Machine.execImemLoad w core v s
  | .imemLoadDone core => Sys2Proof.Machine.execImemLoadDone core s
  | .flagSet w core hi v => Sys2Proof.Machine.execFlagSet w core hi v s
  | .flagClr w core hi v => Sys2Proof.Machine.execFlagClr w core hi v s
  | .spWipe w core => Sys2Proof.Machine.execSpWipe w core s
  | .spWipeDone core => Sys2Proof.Machine.execSpWipeDone core s
  | .spScrub core => Sys2Proof.Machine.execSpScrub core s
  | .spWriteback core => Sys2Proof.Machine.execSpWriteback core s
  | .spBankBackground core bank => Sys2Proof.Machine.execSpBankBackground core bank s
  | .spFlipArm w core v => Sys2Proof.Machine.execSpFlipArm w core v s
  | .spCarveWrite w core v => Sys2Proof.Machine.execSpCarveWrite w core v s
  | .carveClearDone core => Sys2Proof.Machine.execCarveClearDone core s
  | .dma core => Sys2Proof.Machine.execDma core s
  | .dmat core => Sys2Proof.Machine.execDmat core s
  | .gat core => Sys2Proof.Machine.execGat core s
  | .sct core => Sys2Proof.Machine.execSct core s
  | .dmaDescStart core => Sys2Proof.Machine.execDmaDescStart core s
  | .dmaDescDone core => Sys2Proof.Machine.execDmaDescDone core s
  | .gatherStart core g => Sys2Proof.Machine.execGatherStart core g s
  | .gatherDone core g => Sys2Proof.Machine.execGatherDone core g s
  | .translationWalk who late => Sys2Proof.Machine.execTranslationWalk who late s
  | .runaheadFetch core glb addr late => Sys2Proof.Machine.execRunaheadFetch core glb addr late s
  | .frcInv w core => Sys2Proof.Machine.execFrcInv w core s
  | .botDataLo w v => Sys2Proof.Machine.execBotDataLo w v s
  | .botDataHi w v => Sys2Proof.Machine.execBotDataHi w v s
  | .shootdownDone => Sys2Proof.Machine.execShootdownDone s
  | .lookup k u => Sys2Proof.Machine.execLookup k s u
  | .rdReq k u => Sys2Proof.Machine.execRdReq k u s
  | .rdRsp k u => Sys2Proof.Machine.execRdRsp k s u
  | .wrReq k u => Sys2Proof.Machine.execWrReq k u s
  | .rwReq k u => Sys2Proof.Machine.execRwReq k s u
  | .combine pod idx j => Sys2Proof.Machine.execCombine pod idx j s
  | .flagOp k u => Sys2Proof.Machine.execFlagOp k s u
  | .flagAck k u => Sys2Proof.Machine.execFlagAck k s u
  | .wrAck k u => Sys2Proof.Machine.execWrAck k s u
  | .mcWr k core u => Sys2Proof.Machine.execMcWr k core s u
  | .mcAck k u => Sys2Proof.Machine.execMcAck k s u
  | .err k u => Sys2Proof.Machine.execErr k s u
  | .harnessRequestTimeout core tag => Sys2Proof.Machine.execHarnessRequestTimeout core tag s
  | .lendThreshold core sid => Sys2Proof.Machine.execLendThreshold core sid s
  | .reclaim core => Sys2Proof.Machine.execReclaim core s
  | .reclaimConfirm core => Sys2Proof.Machine.execReclaimConfirm core s
  | .epochHoldEnd pod => Sys2Proof.Machine.execEpochHoldEnd pod s
  | .vaultAccessDone core k noise => Sys2Proof.Machine.execVaultAccessDone core k noise s
  | .vaultWriteback core => Sys2Proof.Machine.execVaultWriteback core s
  | .vaultBankBackground core bank => Sys2Proof.Machine.execVaultBankBackground core bank s
  | .refreshCmd core bank => Sys2Proof.Machine.execRefreshCmd core bank s
  | .vaultScrub core noise => Sys2Proof.Machine.execVaultScrub core noise s
  | .retWindowEnd q => Sys2Proof.Machine.execRetWindowEnd q s
  | .wipe w q => Sys2Proof.Machine.execWipe w q s
  | .wipeDone core => Sys2Proof.Machine.execWipeDone core s
  | .retire w q pc => Sys2Proof.Machine.execRetire w q pc s
  | .tierClearDone q t => Sys2Proof.Machine.execTierClearDone q t s
  | .vcFlipArm w q v => Sys2Proof.Machine.execVcFlipArm w q v s
  | .critPatrol => Sys2Proof.Machine.execCritPatrol s
  | .critFlipArm w v => Sys2Proof.Machine.execCritFlipArm w v s
  | .modeChange w k v => Sys2Proof.Machine.execModeChange w k v s
  | .retrain k => Sys2Proof.Machine.execRetrain k s
  | .retrainDone k peer => Sys2Proof.Machine.execRetrainDone k s peer
  | .lossOfLock k lane => Sys2Proof.Machine.execLossOfLock k lane s
  | .nativeFlit k f => Sys2Proof.Machine.execNativeFlit k f s
  | .replayTimeout k => Sys2Proof.Machine.execReplayTimeout k s
  | .ethFrame k f => Sys2Proof.Machine.execEthFrame k f s
  | .remoteAccess k u => Sys2Proof.Machine.execRemoteAccess k s u
  | .transportRdReq k => Sys2Proof.Machine.execTransportRdReq k s
  | .transportRdRsp k => Sys2Proof.Machine.execTransportRdRsp k s
  | .transportWr k => Sys2Proof.Machine.execTransportWr k s
  | .transportRw k => Sys2Proof.Machine.execTransportRw k s
  | .done k => Sys2Proof.Machine.execDone k s
  | .tack k => Sys2Proof.Machine.execTack k s
  | .tnak k => Sys2Proof.Machine.execTnak k s
  | .tackTimer k peer part => Sys2Proof.Machine.execTackTimer k peer part s
  | .retransmit k peer part psn => Sys2Proof.Machine.execRetransmit k peer part s psn
  | .connectionFail k peer part => Sys2Proof.Machine.execConnectionFail k peer part s
  | .resync k => Sys2Proof.Machine.execResync k s
  | .lnkRetire w k v => Sys2Proof.Machine.execLnkRetire w k v s
  | .laneWindowEnd k syms lost => Sys2Proof.Machine.execLaneWindowEnd k s syms lost
  | .collCommit w part v => Sys2Proof.Machine.execCollCommit w part v s
  | .triggerPoll part entry => Sys2Proof.Machine.execTriggerPoll part entry s
  | .collData k slips => Sys2Proof.Machine.execCollData k s slips
  | .collCredit k => Sys2Proof.Machine.execCollCredit k s
  | .collProbe k => Sys2Proof.Machine.execCollProbe k s
  | .collState k => Sys2Proof.Machine.execCollState k s
  | .collFail k => Sys2Proof.Machine.execCollFail k s
  | .collWatchdog part entry => Sys2Proof.Machine.execCollWatchdog part entry s
  | .verdict k => Sys2Proof.Machine.execVerdict k s
  | .netConfigWrite w part reg v => Sys2Proof.Machine.execNetConfigWrite w part reg v s
  | .bar2Read p ofs len => Sys2Proof.Machine.execBar2Read p ofs len s
  | .bar2Write p ofs data ep => Sys2Proof.Machine.execBar2Write p ofs data ep s
  | .holeAccess p addr write => Sys2Proof.Machine.execHoleAccess p addr write s
  | .hostWindowRequest k u => Sys2Proof.Machine.execHostWindowRequest k s u
  | .hostCompletion p tag ok ep data => Sys2Proof.Machine.execHostCompletion p tag ok ep data s
  | .cplTimeout p tag => Sys2Proof.Machine.execCplTimeout p tag s
  | .create w v => Sys2Proof.Machine.execCreate w v s
  | .release w v => Sys2Proof.Machine.execRelease w v s
  | .portReset p cause => Sys2Proof.Machine.execPortReset p cause s
  | .xlInv w part v => Sys2Proof.Machine.execXlInv w part v s
  | .xlInvDone part => Sys2Proof.Machine.execXlInvDone part s
  | .ident pec => Sys2Proof.Machine.execIdent s pec
  | .lifecycle pec => Sys2Proof.Machine.execLifecycle s pec
  | .status pec => Sys2Proof.Machine.execStatus s pec
  | .pkgPower pec => Sys2Proof.Machine.execPkgPower s pec
  | .profile pec => Sys2Proof.Machine.execProfile s pec
  | .tempLogic pec => Sys2Proof.Machine.execTempLogic s pec
  | .tempT0 q pec => Sys2Proof.Machine.execTempT0 q s pec
  | .tempT1 q pec => Sys2Proof.Machine.execTempT1 q s pec
  | .parts pec => Sys2Proof.Machine.execParts s pec
  | .retired pec => Sys2Proof.Machine.execRetired s pec
  | .alertMaskRead pec => Sys2Proof.Machine.execAlertMaskRead s pec
  | .alertMaskWrite v pec => Sys2Proof.Machine.execAlertMaskWrite v s pec
  | .alertResponse pec => Sys2Proof.Machine.execAlertResponse s pec
  | .smbusOtherCommand code => Sys2Proof.Machine.execSmbusOtherCommand code s
  | .pwrokRise flash straps failing => Sys2Proof.Machine.execPwrokRise flash straps failing s
  | .pwrokFall => Sys2Proof.Machine.execPwrokFall s
  | .railDrop => Sys2Proof.Machine.execRailDrop s
  | .advance w target flash straps failing bad => Sys2Proof.Machine.execAdvance w target flash straps failing s bad
  | .progKey w slot => Sys2Proof.Machine.execProgKey w slot s
  | .revoke w slot => Sys2Proof.Machine.execRevoke w slot s
  | .svnBurn w count => Sys2Proof.Machine.execSvnBurn w count s
  | .fuseBurnDone => Sys2Proof.Machine.execFuseBurnDone s
  | .attCmd w => Sys2Proof.Machine.execAttCmd w s
  | .attReport => Sys2Proof.Machine.execAttReport s
  | .tokenData w v => Sys2Proof.Machine.execTokenData w v s
  | .tokenCmd w => Sys2Proof.Machine.execTokenCmd w s
  | .tokenDone => Sys2Proof.Machine.execTokenDone s
  | .extest => Sys2Proof.Machine.execExtest s
  | .samplePreload cells => Sys2Proof.Machine.execSamplePreload cells s
  | .highz => Sys2Proof.Machine.execHighz s
  | .clamp => Sys2Proof.Machine.execClamp s
  | .bootStatus => Sys2Proof.Machine.execBootStatus s
  | .tokenLoad token => Sys2Proof.Machine.execTokenLoad token s
  | .tokenStatus => Sys2Proof.Machine.execTokenStatus s
  | .testInstruction code => Sys2Proof.Machine.execTestInstruction code s
  | .debugAccess code write addr v => Sys2Proof.Machine.execDebugAccess code write addr v s
  | .bypass code => Sys2Proof.Machine.execBypass code s
  | .tapReset => Sys2Proof.Machine.execTapReset s
  | .streamWatchdog core sid => Sys2Proof.Machine.execStreamWatchdog core sid s
  | .hangRecovery part => Sys2Proof.Machine.execHangRecovery part s
  | .dumpReset w part => Sys2Proof.Machine.execDumpReset w part s
  | .reset w part => Sys2Proof.Machine.execReset w part s
  | .powerInterval temps pkg used => Sys2Proof.Machine.execPowerInterval temps pkg used s
  | .gateSpanEnd pod => Sys2Proof.Machine.execGateSpanEnd pod s
  | .pmProfile w v => Sys2Proof.Machine.execPmProfile w v s
  | .pwrCapN level => Sys2Proof.Machine.execPwrCapN level s
  | .domOn w v => Sys2Proof.Machine.execDomOn w v s
  | .domOff w v => Sys2Proof.Machine.execDomOff w v s
  | .pinFnEn w v => Sys2Proof.Machine.execPinFnEn w v s
  | .configurationRequest p bme dstate => Sys2Proof.Machine.execConfigurationRequest p bme dstate s
  | .pcieLinkUp p width speed => Sys2Proof.Machine.execPcieLinkUp p width speed s
  | .perstRelease p => Sys2Proof.Machine.execPerstRelease p s
  | .trainingDone k sub peer => Sys2Proof.Machine.execTrainingDone k sub s peer
  | .autoincRead p addr => Sys2Proof.Machine.execAutoincRead p addr s

end Sys2Proof.Machine
end

