-- ==== Sys2Proof/Safety.lean ====
section
/-! DEFINITION. What a safe step is, and the words the statements are said in: a slot that is next to issue, a slot that
has issued, and what stays as it was. -/
namespace Sys2Proof
open Sys2Proof.Machine

/-- The step ends in a next state whose queue is the rest of the old one. -/
def SafeStep (s : State) : Prop := ∃ t, step s = .next t ∧ t.pending = s.pending.tail

/-- The part is released and the clocks of core `n` run (R39, R453, R515). -/
def Running (s : State) (n : Nat) : Prop := s.dev.alive = true ∧ s.dev.clocked n = true

/-- Slot `k` of stream `i` of core `n` is next to issue and holds `o`, and the core's share is not lent (R116, R150,
R201). -/
def Ready (s : State) (n : Nat) (i : StreamId) (k : Nat) (o : Op) : Prop :=
  Running s n ∧ (s.dev.core n).nextSlot i = some (k, o) ∧ s.dev.shareLent n = false

/-- The slot at the head of the stream has issued (R116, R171): the next slot of its bundle stands at the head, or, after
the bundle's last, the bundle has counted and the stream stands at slot `next`. -/
def SlotIssued (s t : State) (n : Nat) (i : StreamId) (next : Nat) : Prop :=
  let a := (s.dev.core n).strm i
  let b := (t.dev.core n).strm i
  b.slots = a.slots.tail ∧
  (a.slots.tail = [] → b.fetched = false ∧ b.part = false ∧ b.pc = next ∧
    b.issued = satAdd (2 ^ 32 - 1) a.issued 1) ∧
  (a.slots.tail ≠ [] → b.fetched = true ∧ b.part = true ∧ b.pc = a.pc ∧ b.issued = a.issued ∧ b.st = .running)

/-- The stream goes on behind its next slot: no halt, suspension, abort or fault waits for it. -/
def Machine.Stream.goesOn (t : Stream) : Prop := t.ending = none ∧ t.halting = false

/-- Every core but `n`, every pod, partition and link, the critical words, the Block Owner Table, the packets in the
Harness, the power manager, the security block and the queue of commands are as they were. -/
def SameElsewhere (s t : State) (n : Nat) : Prop :=
  (∀ m, m ≠ n → t.dev.core m = s.dev.core m) ∧ t.dev.podz = s.dev.podz ∧ t.dev.partz = s.dev.partz ∧
  t.dev.links = s.dev.links ∧ t.dev.crit = s.dev.crit ∧ t.dev.locks = s.dev.locks ∧ t.dev.bot = s.dev.bot ∧
  t.dev.net = s.dev.net ∧ t.dev.power = s.dev.power ∧ t.dev.latch = s.dev.latch ∧
  t.sec = s.sec ∧ t.pending = s.pending

/-- The memories of core `n` are as they were: scratchpad, instruction memories, vault. -/
def SameMemories (s t : State) (n : Nat) : Prop :=
  (t.dev.core n).sp = (s.dev.core n).sp ∧ (t.dev.core n).imemX = (s.dev.core n).imemX ∧
  (t.dev.core n).imemA = (s.dev.core n).imemA ∧ (t.dev.core n).vault = (s.dev.core n).vault

/-- Nothing of the part has changed but stream `i` of core `n` and counters. -/
def OnlyStream (s t : State) (n : Nat) (i : StreamId) : Prop :=
  SameElsewhere s t n ∧ t.dev.regs = s.dev.regs ∧ t.dev.out = s.dev.out ∧ t.dev.portA = s.dev.portA ∧
  t.dev.portB = s.dev.portB ∧ (t.dev.core n).setStrm i {} = (s.dev.core n).setStrm i {}

/-- Slot by slot effect of a control operation: it issues, the stream's loop counters, loop limits and comparators are as
given, its halt code and the core's flags and memories stay, nothing changes elsewhere, and where the stream goes on
nothing but the stream and counters has changed. -/
def ControlIssued (s t : State) (n : Nat) (i : StreamId) (next : Nat) (lcnt llim : List Nat) (cmp : BitVec 4) : Prop :=
  SlotIssued s t n i next ∧ ((t.dev.core n).strm i).lcnt = lcnt ∧ ((t.dev.core n).strm i).llim = llim ∧
  ((t.dev.core n).strm i).cmp = cmp ∧ ((t.dev.core n).strm i).haltCode = ((s.dev.core n).strm i).haltCode ∧
  (t.dev.core n).flags = (s.dev.core n).flags ∧ SameElsewhere s t n ∧ SameMemories s t n ∧
  (((s.dev.core n).strm i).goesOn → OnlyStream s t n i)

/-- No read of these critical words finds copies that disagree (R362). -/
def CritAgree (s : Dev) (keys : List Nat) : Prop := ∀ k ∈ keys, (mget critDefault s.crit k).odd = none

/-- An access by `w` reaches a register page and acts: a host's port is up with no BAR2 write on its way and sees the page,
JTAG's debug scope is open and the page exists, and in both cases the page's block has power; a boot record is no command of
its own (R314, R422, R467, R476). The critical words the access reads stand with equal copies: where they do not, it repairs
them first (R362), which `Obligations.CriticalWordsAreVotedAndRepaired` states. -/
def Reaches (s : State) (w : Writer) (pg : Nat) : Prop :=
  s.dev.alive = true ∧ CritAgree s.dev (s.dev.gateKeys w pg) ∧
  match w with
  | .host p => (s.dev.port p).up = true ∧ (s.dev.port p).settled = true ∧ s.dev.visible p pg = true ∧ s.dev.pageDark pg = false
  | .jtag => s.dev.debugOpen = true ∧ (pageKind pg).isSome = true ∧ s.dev.pageDark pg = false
  | .record => False

/-- Packet `p`, at place `k` of the Harness, is taken or waits at endpoint `e` (R331, R342, R343): no router on its way loses its
header, and, a request, it stands behind no packet that waits at the head of the endpoint's intake. -/
def Lands (s : Dev) (u : Upset) (k e : Nat) (p : Packet) : Prop :=
  upsetLost u (p.way e) = none ∧ (p.isRequest = true → s.behind k e = false)

/-- Nothing happens in the routers' buffers on a packet's way (R331). -/
def NoUpset (u : Upset) : Prop := u.lost = none ∧ u.ces = [] ∧ u.ues = []

/-- Flag `f` of core `n` holds `b` afterwards, and its other flags what they held (R165). -/
def FlagBecomes (s t : State) (n f : Nat) (b : Bool) : Prop :=
  ∀ j, j < 64 → (t.dev.core n).flag j = if j = f then b else (s.dev.core n).flag j

/-- FLAG_LAST of flag `f` of core `n` (R168, R177). -/
def FlagLast (t : State) (n f kind src : Nat) : Prop :=
  t.dev.reg (ra (corePg n 0) (0x500 + 4 * f)) = w32 (kind * 1024 + src)

/-- No fault-injection flip of the scratchpad of core `n` is armed (R134). -/
def spUnarmed (s : Dev) (n : Nat) : Prop := tb (s.regN (ra (corePg n 1) 0x228)) 31 = false

/-- No fault-injection flip of the vault of core `n` is armed (R364). -/
def vUnarmed (s : Dev) (n : Nat) : Prop := tb (s.regN (vra n 0x138)) 31 = false

/-- Event bit `b` of a page stands in its BLK_EVT (R12). -/
def EvtUp (t : State) (pg b : Nat) : Prop := (t.dev.reg (ra pg 0x18)).getLsbD b = true

/-- The stream drains towards `g` (R150). -/
def DrainsTo (t : State) (n : Nat) (i : StreamId) (g : StreamState) : Prop :=
  ((t.dev.core n).strm i).st = .draining ∧ ((t.dev.core n).strm i).target = g

/-- Head `k` of engine `eng` of a core needs word `w` first, and nothing that it needs has been asked for: one access, of `len`
bytes at `a`, reads it all (R278, R283). -/
def NextAccess (c : Core) (eng : Nat) (k : Job) (w : Nat × Nat) (a len : Nat) : Prop :=
  c.headJob eng = some k ∧ k.active = true ∧ k.wait = .none ∧ k.res = 0 ∧ k.pos < k.total ∧
  (∀ x ∈ k.needs, c.asked eng x = false ∧ x.1 = w.1 ∧ a ≤ x.2 ∧ x.2 < a + len) ∧
  ∃ l, k.needs = w :: l ∧ readSpan (w :: l) w = (a, len)

/-- Engine `eng` of core `n`, in `u`, goes on by a read of `len` bytes from endpoint `m`, not the core itself, at `addr` there, for
which it has a slot and tag `tag` (R273, R278, R284, R310). -/
def ReadsFar (u : Dev) (n eng : Nat) (k : Job) (m addr len : Nat) (info : List Nat) (tag : Nat) : Prop :=
  ∃ w a, NextAccess (u.core n) eng k w a len ∧ m ≠ n ∧
    u.reachEp n (u.resolve n w.1 a false) = some (m, addr, info) ∧
    u.cacheable n w.1 (u.globalOf n a) k (u.resolve n w.1 a false) = false ∧
    (u.core n).slotHold n (bankKey m addr info) = none ∧ (u.core n).freeTag = some tag

/-- Engine `eng` of core `n` stands with head `k`, and its RD_REQ for `len` bytes at `addr` of endpoint `m` has entered the
Harness behind `net` under `tag` (R267, R278, R310). -/
def AsksFar (s t : State) (n eng : Nat) (k : Job) (net : List Packet) (m addr len : Nat) (info : List Nat) (tag : Nat) : Prop :=
  (t.dev.core n).headJob eng = some k ∧
  ∃ p, t.dev.net = net ++ [p] ∧ p.cls = .rdReq ∧ p.vc = 1 ∧ p.src = n ∧ p.dst = m ∧ p.addr = addr ∧ p.len = len ∧
    p.info = info ∧ p.tag = tag ∧ p.epoch = (s.dev.pod (podOf n)).epoch

/-- The requests of engine `eng` that are out when it abandons its work: their answers find nobody (R298). -/
def orphaned (eng : Nat) (l : List Req) : List Req := l.map fun r => if r.eng = eng then { r with eng := 6 } else r

/-- The scratchpad, the instruction memories and the vault's words of core `n` are as they were. -/
def SameWords (s t : State) (n : Nat) : Prop :=
  (t.dev.core n).sp = (s.dev.core n).sp ∧ (t.dev.core n).imemX = (s.dev.core n).imemX ∧
  (t.dev.core n).imemA = (s.dev.core n).imemA ∧ (t.dev.core n).vault.mem = (s.dev.core n).vault.mem

/-- The access stream of core `n` ends issue for a fault of an engine: it drains towards FAULTED, and the record it will fill
is the engine's where none was pending (R297, R298, R438). -/
def EngineFaults (s t : State) (n eng cause addr : Nat) (write : Bool) : Prop :=
  DrainsTo t n .A .faulted ∧ EvtUp t (corePg n 3) (if eng = 0 then 0 else 1) ∧
  ∃ r, (t.dev.core n).a.frec = some r ∧
    ((s.dev.core n).a.frec = none → r.cause = cause ∧ r.addr = addr % 2 ^ 48 ∧ r.write = write ∧ r.engine = eng + 1)

/-- Core `n` is reset (R71, R140, R174, R233, R300): its streams are IDLE at the slots and with the halt codes they had, and flags,
queues, arrays, tile registers and engines are empty. -/
def CoreReset (s t : State) (n : Nat) : Prop :=
  let c := s.dev.core n
  let d := t.dev.core n
  d.x.st = .idle ∧ d.x.pc = c.x.pc ∧ d.x.haltCode = c.x.haltCode ∧ d.a.st = .idle ∧ d.a.pc = c.a.pc ∧
  d.a.haltCode = c.a.haltCode ∧ d.flags = 0 ∧ d.queues = [[], [], [], []] ∧ d.arrs = [{}, {}, {}, {}] ∧ d.drains = [] ∧
  (∀ r, d.tile r = {}) ∧ d.tq = [] ∧ d.vq = [] ∧ d.dq = [] ∧ d.g0 = [] ∧ d.g1 = [] ∧ d.reqs = [] ∧ d.frc = [] ∧ d.chain = none

/-- No pod of partition `P` is held in reset, and none had an advance of its epoch within the last 1 ms (R328). -/
def PodsSettled (s : State) (P : Nat) : Prop :=
  ∀ p ∈ s.dev.podsOf P, (s.dev.pod p).held = false ∧ (s.dev.pod p).recent = false

/-- The reset epochs of the pods of partition `P`, as it stood in `s`, have advanced by one (R328). -/
def EpochsAdvanced (s t : State) (P : Nat) : Prop :=
  ∀ p ∈ s.dev.podsOf P, (t.dev.pod p).epoch = ((s.dev.pod p).epoch + 1) % 16 ∧ (t.dev.pod p).recent = true

/-- A native flit but for what its sending gives it: SEQ, ACK, the credits returned, the CRC (R375). -/
def Flit.bare (f : Flit) : Flit := { f with seq := 0, ack := 0, nak := false, cr0 := 0, cr1 := 0, crc := 0 }

/-- The flits of link channel `c` that port `k` has sent without an acknowledgement, and those that wait behind them (R377). -/
def channelFlits (t : State) (k : Nat) (c : BitVec 2) : List Flit :=
  (((t.dev.link k).retry ++ (t.dev.link k).txf.map (·.1)).filter fun f => f.lvc == c).map Flit.bare

/-- Port `k` holds message `m` to send, or has sent it and awaits its acknowledgement: in native mode as the last flits of its
channel, else with a connection, which numbers it as it leaves, or waiting for one (R375, R377, R384). -/
def Carries (t : State) (k : Nat) (m : Msg) : Prop :=
  if t.dev.linkMode k = 1 then m.cut <:+ channelFlits t k (if isControl m.ty.toNat then 0 else 1)
  else m ∈ (t.dev.link k).txq ∨
    ∃ c ∈ (t.dev.link k).conns, m ∈ c.queue ∨ ∃ u ∈ c.unacked, { u.2.2 with psn := m.psn } = m

/-- `x` is the oldest message that port `k` has received, and is for partition `P` of this part, which is READY (R381, R387,
R389). -/
def Heard (s : State) (k P : Nat) (x : RxMsg) (rest : List RxMsg) : Prop :=
  s.dev.alive = true ∧ (s.dev.link k).rx = x :: rest ∧ s.dev.rxPart x = some P ∧
  x.msg.drank.toNat = s.dev.rank P ∧ s.dev.ptState P = 2

/-- Link ports other than `k` are as they were. -/
def OtherLinks (s t : State) (k : Nat) : Prop := ∀ j, j ≠ k → t.dev.link j = s.dev.link j

/-- A collective instance of entry `e` of partition `P` has failed at this rank (R407): it runs no more, and COLL_FAIL holds its
entry, reason and rank. -/
def CollFailed (t : State) (P e reason rank : Nat) : Prop :=
  (t.dev.part P).inst e = none ∧ EvtUp t (netPg P) 0 ∧
  t.dev.reg (ra (netPg P) 0x138) = w32 (2 ^ 31 + e * 2 ^ 26 + reason * 2 ^ 22 + rank)

/-- Commands that act on a part that is not released: the SMBus target, the test port, start-up, the pins, configuration requests
and a port's link, and the end of a burn or of a judgement (R443, R451, R453, R470, R476, R479). -/
def actsUnreleased : Instr → Bool
  | .ident _ | .lifecycle _ | .status _ | .pkgPower _ | .profile _ | .tempLogic _ | .tempT0 _ _ | .tempT1 _ _ | .parts _
  | .retired _ | .alertMaskRead _ | .alertMaskWrite _ _ | .alertResponse _ | .smbusOtherCommand _ => true
  | .extest | .samplePreload _ | .highz | .clamp | .bootStatus | .tokenLoad _ | .tokenStatus | .testInstruction _
  | .debugAccess _ _ _ _ | .bypass _ | .tapReset => true
  | .pwrokRise _ _ _ | .pwrokFall | .railDrop | .pwrCapN _ | .portReset _ _ | .perstRelease _ | .configurationRequest _ _ _
  | .pcieLinkUp _ _ _ | .fuseBurnDone | .tokenDone => true
  | _ => false

/-- Commands that can change the fuse array: a burn ends, power is lost during one, the life cycle advances (R453, R469, R470). -/
def burnsFuses : Instr → Bool
  | .fuseBurnDone | .pwrokFall | .railDrop | .advance _ _ _ _ _ _ => true
  | _ => false

/-- Commands that can change the security block: its own, start-up's, the test port's, and a register write. -/
def touchesSecurity : Instr → Bool
  | .registerWrite _ _ _ | .advance _ _ _ _ _ _ | .progKey _ _ | .revoke _ _ | .svnBurn _ _ | .fuseBurnDone | .attCmd _
  | .attReport | .tokenData _ _ | .tokenCmd _ | .tokenDone => true
  | .pwrokRise _ _ _ | .pwrokFall | .railDrop => true
  | .extest | .samplePreload _ | .highz | .clamp | .bootStatus | .tokenLoad _ | .tokenStatus | .testInstruction _
  | .debugAccess _ _ _ _ | .bypass _ | .tapReset => true
  | _ => false

/-- Every fuse burnt in `a` is burnt in `b`, and what is set at manufacture is the same (R454). -/
def FusesWithin (a b : Fuses) : Prop :=
  a.svnMin ≤ b.svnMin ∧ a.life ≤ b.life ∧ (∀ i, i < 2 → a.revoke.getLsbD i = true → b.revoke.getLsbD i = true) ∧
  (∀ i, i < 256 → (a.key0.getLsbD i = true → b.key0.getLsbD i = true) ∧ (a.key1.getLsbD i = true → b.key1.getLsbD i = true)) ∧
  a.f4 = b.f4 ∧ a.modeSrc = b.modeSrc ∧ a.modeDefault = b.modeDefault

/-- What the last start sensed is burnt in the fuse array. -/
def FuseInv (s : State) : Prop := FusesWithin s.sec.sensed s.sec.fuses

end Sys2Proof
end

