-- ==== Sys2Proof/Certificates/Slice0/Obligations.lean ====
section
/-! DEFINITION. The statements about the model, each in terms of `exec` and `step` on any state. -/
open Sys2Proof Sys2Proof.Machine

/-! Streams (R145 to R187). -/

/-- R159, R160, R178, R180: the control slot's operations issue; `loop` SET loads a limit and clears its counter; STEP counts and
branches below the limit and otherwise stores the limit and falls through; `cmp` writes one comparator; `br` goes to its target
when its condition holds. Nothing else of the part changes. -/
def Obligations.ControlSlotOperationsIssue : Prop :=
  ∀ (s : State) (n k : Nat) (i : StreamId),
    let a := (s.dev.core n).strm i
    (Ready s n i k .nop →
      ∃ t, exec (.nop n i) s = .next t ∧ ControlIssued s t n i a.nextPc a.lcnt a.llim a.cmp) ∧
    (∀ l c, Ready s n i k (.loopSet l c) → 0 < c → c < 2 ^ 24 →
      ∃ t, exec (.loopSet n i) s = .next t ∧
        ControlIssued s t n i a.nextPc (lset a.lcnt l 0) (lset a.llim l c) a.cmp) ∧
    (∀ l target, Ready s n i k (.loopStep l target) →
      ∃ t, exec (.loopStep n i) s = .next t ∧
        if lget 0 a.lcnt l + 1 < lget 0 a.llim l then
          ControlIssued s t n i target (lset a.lcnt l (lget 0 a.lcnt l + 1)) a.llim a.cmp
        else ControlIssued s t n i a.nextPc (lset a.lcnt l (lget 0 a.llim l)) a.llim a.cmp) ∧
    (∀ c b, Ready s n i k (.cmp c b) → c < 4 →
      ∃ t m, exec (.cmp n i) s = .next t ∧ ControlIssued s t n i a.nextPc a.lcnt a.llim m ∧
        ∀ j, j < 4 → m.getLsbD j = if j = c then b else a.cmp.getLsbD j) ∧
    (∀ b target, Ready s n i k (.br b target) →
      ∃ t, exec (.br n i) s = .next t ∧
        ControlIssued s t n i (if b then target else a.nextPc) a.lcnt a.llim a.cmp) ∧
    (∀ f pol target, Ready s n i k (.brFlag f pol target) →
      ∃ t, exec (.br n i) s = .next t ∧
        ControlIssued s t n i (if (s.dev.core n).flag f = pol then target else a.nextPc) a.lcnt a.llim a.cmp)

/-- R165 to R168, R187: at issue, `fset` and `fclr` on the core's own flag change that flag alone, and a set is recorded as the
stream's; with SEQ they are held and change no flag; one on another core of the partition enters the Harness as a FLAG_OP.
`fwait` issues when its flag holds the value awaited, clearing it with AUTOCLR, and otherwise waits with one stall counted. -/
def Obligations.FlagOperationsIssue : Prop :=
  ∀ (s : State) (n k f : Nat) (i : StreamId), f < 64 →
    let a := (s.dev.core n).strm i
    (Ready s n i k (.flag false f false 0 0) →
      ∃ t, exec (.fset n i) s = .next t ∧ SlotIssued s t n i a.nextPc ∧ FlagBecomes s t n f true ∧
        FlagLast t n f 1 (sidN i) ∧ SameElsewhere s t n ∧ SameMemories s t n) ∧
    (Ready s n i k (.flag true f false 0 0) →
      ∃ t, exec (.fclr n i) s = .next t ∧ SlotIssued s t n i a.nextPc ∧ FlagBecomes s t n f false ∧
        SameElsewhere s t n ∧ SameMemories s t n) ∧
    (∀ clr seq, Ready s n i k (.flag clr f false 0 seq) → seq ≠ 0 → a.goesOn →
      ∃ t, exec (if clr then .fclr n i else .fset n i) s = .next t ∧ SlotIssued s t n i a.nextPc ∧
        (t.dev.core n).flags = (s.dev.core n).flags ∧
        ((t.dev.core n).strm i).held = a.held ++
          [{ clr := clr, flag := f, remote := false, core := 0, seq := seq, before := (s.dev.core n).work, pc := a.pc }] ∧
        SameElsewhere s t n ∧ SameMemories s t n) ∧
    (∀ clr dst tag, Ready s n i k (.flag clr f true dst 0) → dst < 672 → dst ≠ n → s.dev.corePart n < 12 →
      s.dev.corePart dst = s.dev.corePart n → (s.dev.core n).flagOps < 16 → (s.dev.core n).freeTag = some tag →
      ∃ t p, exec (if clr then .fclr n i else .fset n i) s = .next t ∧ SlotIssued s t n i a.nextPc ∧
        (t.dev.core n).flags = (s.dev.core n).flags ∧ t.dev.net = s.dev.net ++ [p] ∧ p.cls = .flagOp ∧ p.vc = 1 ∧
        p.src = n ∧ p.dst = dst ∧ p.addr = f ∧ p.op = b2n clr ∧ p.tag = tag ∧ SameMemories s t n) ∧
    (∀ e auto, Ready s n i k (.fwait f e auto) → (s.dev.core n).flag f = e →
      ∃ t, exec (.fwait n i) s = .next t ∧ SlotIssued s t n i a.nextPc ∧ FlagBecomes s t n f (e && !auto) ∧
        SameElsewhere s t n ∧ SameMemories s t n) ∧
    (∀ e auto, Ready s n i k (.fwait f e auto) → (s.dev.core n).flag f ≠ e →
      ∃ t, exec (.fwait n i) s = .next t ∧ ((t.dev.core n).strm i).slots = a.slots ∧
        ((t.dev.core n).strm i).waiting = true ∧ ((t.dev.core n).strm i).cause = 8 ∧
        ((t.dev.core n).strm i).wflag = f ∧ ((t.dev.core n).strm i).wexpect = e ∧ OnlyStream s t n i)

/-- R165, R168, R187: a held operation whose writes have ended applies to its flag as a completion set of the core, and a host's
1 bits of FLAG_SET and FLAG_CLR act on their flags as remote operations; no other flag changes. -/
def Obligations.HeldAndHostFlagOperationsApply : Prop :=
  ∀ (s : State) (n : Nat),
    (∀ i h rest, Running s n → ((s.dev.core n).strm i).held = h :: rest → h.remote = false → h.flag < 64 →
      (s.dev.core n).onAbandoned i h = false → (s.dev.core n).workOpen i h.seq h.before = false →
      ∃ t, exec (.seqOpRelease n i) s = .next t ∧ ((t.dev.core n).strm i).held = rest ∧
        FlagBecomes s t n h.flag (!h.clr) ∧ (h.clr = false → FlagLast t n h.flag 1 (sidN i)) ∧
        SameElsewhere s t n ∧ SameMemories s t n) ∧
    (∀ p hi v, Reaches s (.host p) (corePg n 0) →
      ∃ t, exec (.flagSet (.host p) n hi v) s = .next t ∧
        (∀ j, j < 64 → (t.dev.core n).flag j =
          ((s.dev.core n).flag j || (decide (j / 32 = b2n hi) && v.getLsbD (j % 32)))) ∧
        (∀ j, j < 32 → v.getLsbD j = true → FlagLast t n (32 * b2n hi + j) 3 p.toNat) ∧
        SameElsewhere s t n ∧ SameMemories s t n) ∧
    (∀ p hi v, Reaches s (.host p) (corePg n 0) →
      ∃ t, exec (.flagClr (.host p) n hi v) s = .next t ∧
        (∀ j, j < 64 → (t.dev.core n).flag j =
          ((s.dev.core n).flag j && !(decide (j / 32 = b2n hi) && v.getLsbD (j % 32)))) ∧
        t.dev.regs = s.dev.regs ∧ SameElsewhere s t n ∧ SameMemories s t n)

/-- R163, R164: a `qpush` appends the 256 B it reads to its queue, and waits where the queue holds 16 entries; a `qpop` takes the
oldest entry, sets the queue's current words from its first 32 B, and with D writes the 256 B to the scratchpad and nowhere
else. -/
def Obligations.QueueOperationsMoveEntries : Prop :=
  ∀ (s : State) (n k q : Nat), q < 4 → (s.dev.core n).queues.length = 4 → (s.dev.core n).cur.length = 4 →
    let c := s.dev.core n
    (∀ src, Ready s n .A k (.qpush q src) → (lget [] c.queues q).length < 16 → 0 ≤ src → src.toNat + 256 ≤ spSize →
      s.dev.inCarve n src.toNat 256 = false → c.spHeld src.toNat 256 = false →
      ∃ t, exec (.qpush n) s = .next t ∧ SlotIssued s t n .A c.a.nextPc ∧
        lget [] (t.dev.core n).queues q = lget [] c.queues q ++ [(wordsAt src.toNat 256).map c.spPeek] ∧
        (∀ r, r < 4 → r ≠ q → lget [] (t.dev.core n).queues r = lget [] c.queues r) ∧
        SameMemories s t n ∧ SameElsewhere s t n) ∧
    (∀ src, Ready s n .A k (.qpush q src) → 16 ≤ (lget [] c.queues q).length →
      ∃ t, exec (.qpush n) s = .next t ∧ (t.dev.core n).a.waiting = true ∧ (t.dev.core n).a.cause = 4 ∧
        (t.dev.core n).a.slots = c.a.slots ∧ OnlyStream s t n .A) ∧
    (∀ d dst e rest, Ready s n .X k (.qpop q d dst) → lget [] c.queues q = e :: rest → e.length = 32 →
      (e.take 4).all (fun w => !w.poison) = true →
      (d = true → dst % 8 = 0 ∧ dst + 256 ≤ s.dev.reserve n ∧ s.dev.inCarve n dst 256 = false ∧
        c.spHeld dst 256 = false ∧ spUnarmed s.dev n) →
      ∃ t, exec (.qpop n) s = .next t ∧ SlotIssued s t n .X c.x.nextPc ∧ lget [] (t.dev.core n).queues q = rest ∧
        (∀ r, r < 4 → r ≠ q → lget [] (t.dev.core n).queues r = lget [] c.queues r ∧
          lget [] (t.dev.core n).cur r = lget [] c.cur r) ∧
        (∀ j, j < 8 → lget 0 (lget [] (t.dev.core n).cur q) j = w32 ((lget {} e (j / 2)).data.toNat / 2 ^ (32 * (j % 2)))) ∧
        (t.dev.core n).curValid.getLsbD q = true ∧
        (d = false → SameMemories s t n) ∧
        (d = true → (∀ j, j < 32 → (t.dev.core n).spPeek (dst / 8 + j) = lget {} e j) ∧
          ∀ w, (w < dst / 8 ∨ dst / 8 + 32 ≤ w) → (t.dev.core n).spPeek w = c.spPeek w) ∧
        SameElsewhere s t n)

/-- R150, R152, R153, R155, R156, R158: a `halt` stores its code and, as its bundle's last slot, drains the stream towards HALTED,
naming a chain record where it has CHAIN; the record is read once the access stream is HALTED, whatever the execute stream does; a
chain whose programs are loaded starts both streams at the record's slots; a load
written through IMEM_LOAD enters the DMA engine behind its work, and one that has written its last slot leaves it and reports
OK. -/
def Obligations.HaltChainAndLoad : Prop :=
  ∀ (s : State) (n : Nat),
    let c := s.dev.core n
    (∀ i k code chain rcd, Ready s n i k (.halt code chain rcd) →
      (chain = true → rcd + 32 ≤ spSize ∧ s.dev.inCarve n rcd 32 = false) →
      ∃ t, exec (.halt n i) s = .next t ∧ SlotIssued s t n i (c.strm i).nextPc ∧
        ((t.dev.core n).strm i).haltCode = code ∧
        (((c.strm i).ending = none ∧ (c.strm i).slots.length = 1) → DrainsTo t n i .halted) ∧
        (t.dev.core n).chain = (if chain then some { record := rcd } else c.chain) ∧
        SameMemories s t n ∧ SameElsewhere s t n) ∧
    (∀ h, Running s n → c.chain = some h → h.phase = 0 → c.a.st = .halted → c.x.atRest = false →
      c.spHeld h.record 32 = false → s.dev.inCarve n h.record 32 = false →
      ((wordsAt h.record 32).map c.spPeek).all (fun w => !w.poison) = true →
      ∃ t, exec (.chainStart n) s = .next t ∧
        (t.dev.core n).chain = some { h with words := ((wordsAt h.record 32).map c.spPeek).map (·.data), phase := 4 } ∧
        SameMemories s t n ∧ SameElsewhere s t n) ∧
    (∀ h, Running s n → c.chain = some h → h.phase = 3 → c.a.st = .halted → c.x.atRest = true →
      tb (h.field 24 1) 0 = true → tb (h.field 24 1) 1 = true →
      ∃ t, exec (.chainStart n) s = .next t ∧ (t.dev.core n).chain = none ∧ (t.dev.core n).imemResult = 0 ∧
        (t.dev.core n).x.st = .running ∧ (t.dev.core n).x.pc = h.field 20 2 % 4096 ∧
        (t.dev.core n).a.st = .running ∧ (t.dev.core n).a.pc = h.field 22 2 % 4096 ∧
        (t.dev.core n).queues = [[], [], [], []] ∧ SameMemories s t n ∧ SameElsewhere s t n) ∧
    (∀ w v, Reaches s w (corePg n 0) → v.getLsbD 31 = true → s.dev.recovering n = false → c.chain = none →
      c.dq.all (fun j => j.kind != .imem) = true → (c.strm (if v.getLsbD 28 then .A else .X)).atRest = true →
      0 < fld v.toNat 0 13 → fld v.toNat 16 12 + fld v.toNat 0 13 ≤ 4096 →
      ∃ t j, exec (.imemLoad w n v) s = .next t ∧ (t.dev.core n).dq = c.dq ++ [j] ∧ j.kind = .imem ∧
        j.strm = (if v.getLsbD 28 then .A else .X) ∧ j.slot = fld v.toNat 16 12 ∧ j.count = fld v.toNat 0 13 ∧
        j.src = s.dev.regN (ra (corePg n 0) 0x400) + 2 ^ 32 * s.dev.regN (ra (corePg n 0) 0x404) ∧
        (t.dev.core n).imemResult = 0 ∧ (t.dev.core n).imemDone = 0 ∧ SameMemories s t n ∧ SameElsewhere s t n) ∧
    (∀ j rest, Running s n → c.dq = j :: rest → j.kind = .imem → j.pos = j.count → j.res = 0 → c.chain = none →
      ∃ t, exec (.imemLoadDone n) s = .next t ∧ (t.dev.core n).dq = rest ∧ (t.dev.core n).imemDone = j.count ∧
        (t.dev.core n).imemResult = 0 ∧ EvtUp t (corePg n 0) 8 ∧ SameMemories s t n ∧ SameElsewhere s t n)

/-- R145, R154, R173, R181: a stream that runs, and whose slot in instruction memory was written and reads clean or corrected,
stands after FETCH with the slots its words decode to, in order, and the slot behind it next; a stream past the last slot faults
with PC_RANGE and one whose slot was never written with IMEM_INVALID, before any slot issues. -/
def Obligations.FetchPreparesSlots : Prop :=
  ∀ (s : State) (n : Nat) (i : StreamId), Running s n →
    let c := s.dev.core n
    (c.strm i).st = .running → (c.strm i).fetched = false → s.dev.stopDue n i = false →
    (∀ l, (c.strm i).pc < 4096 →
      (imemWords c i (c.strm i).pc).all (fun w => w.valid && !w.value.poison) = true →
      numberSlots 0 (match i with
        | .X => decBundle c (imemNat (imemWords c i (c.strm i).pc))
        | .A => [decAccess c (imemNat (imemWords c i (c.strm i).pc))]) = .ok l →
      ∃ t, exec (.fetch n i) s = .next t ∧ ((t.dev.core n).strm i).fetched = true ∧
        ((t.dev.core n).strm i).slots = l ∧ ((t.dev.core n).strm i).nextPc = (c.strm i).pc + 1 ∧
        ((t.dev.core n).strm i).pc = (c.strm i).pc ∧ ((t.dev.core n).strm i).st = .running ∧
        (t.dev.core n).setStrm i {} = c.setStrm i {} ∧ SameElsewhere s t n) ∧
    (4096 ≤ (c.strm i).pc → ∃ t r, exec (.fetch n i) s = .next t ∧ DrainsTo t n i .faulted ∧
        ((t.dev.core n).strm i).pc = 0 ∧ ((t.dev.core n).strm i).frec = some r ∧
        ((c.strm i).frec = none → r.cause = 0x13) ∧ SameMemories s t n ∧ SameElsewhere s t n) ∧
    ((c.strm i).pc < 4096 → (imemWords c i (c.strm i).pc).any (fun w => !w.valid) = true →
      ∃ t r, exec (.fetch n i) s = .next t ∧ DrainsTo t n i .faulted ∧ ((t.dev.core n).strm i).pc = (c.strm i).pc ∧
        ((t.dev.core n).strm i).frec = some r ∧ ((c.strm i).frec = none → r.cause = 0x11) ∧
        SameMemories s t n ∧ SameElsewhere s t n)

/-- R151, R152: on a core of a good core, outside a recovery and with no chain pending, START on a stream at rest runs it from its
start slot, SUSPEND drains a running stream towards SUSPENDED at the bundle's end, RESUME runs a stream that stands STOPPED,
SUSPENDED or FAULTED from where it stood, ABORT drains any other than an IDLE stream towards IDLE; each leaves result 0 for its
stream and the other stream as it was. -/
def Obligations.StreamCommandsAct : Prop :=
  ∀ (s : State) (w : Writer) (n : Nat) (i : StreamId), Reaches s w (corePg n 0) →
    let c := s.dev.core n
    let t0 := c.strm i
    let ok (t : State) : Prop := fld (t.dev.regN (ra (corePg n 0) 0x104)) (4 * sidN i) 4 = 0 ∧
      (t.dev.core n).strm (otherSid i) = c.strm (otherSid i) ∧ SameMemories s t n
    c.retired = false → s.dev.recovering n = false → c.chain = none →
    (t0.atRest = true → c.loading i = false →
      ∃ t, exec (.start w n (i == .X) (i == .A)) s = .next t ∧ ((t.dev.core n).strm i).st = .running ∧
        ((t.dev.core n).strm i).pc = s.dev.regN (ra (corePg n 0) (0x144 + 0x60 * sidN i)) % 4096 ∧
        ((t.dev.core n).strm i).fetched = false ∧ ok t) ∧
    (t0.st = .running → t0.halting = false → t0.ending = none → (s.dev.stopDue n i = true → t0.part = true) →
      ∃ t, exec (.suspend w n (i == .X) (i == .A)) s = .next t ∧
        (if t0.part then ((t.dev.core n).strm i).ending = some .suspended ∧ ((t.dev.core n).strm i).st = .running
         else DrainsTo t n i .suspended) ∧ ok t) ∧
    (t0.st = .stopped ∨ t0.st = .suspended ∨ t0.st = .faulted →
      ∃ t, exec (.resume w n (i == .X) (i == .A)) s = .next t ∧ ((t.dev.core n).strm i).st = .running ∧
        ((t.dev.core n).strm i).pc = t0.pc ∧ ((t.dev.core n).strm i).slots = t0.slots ∧
        ((t.dev.core n).strm i).armed = false ∧ ok t) ∧
    (t0.st ≠ .idle →
      ∃ t, exec (.abort w n (i == .X) (i == .A)) s = .next t ∧
        (if t0.st = .running ∧ t0.part = true then ((t.dev.core n).strm i).ending = some .idle
         else DrainsTo t n i .idle) ∧ ok t)

/-- R150, R171, R175: a draining stream whose work has ended enters its target state, with the event of that state, once the vector
outputs still on their way are written (log 55), and a stream
whose armed STOP_AFTER count is reached at a boundary disarms it and drains towards STOPPED. -/
def Obligations.StreamsDrainAndStop : Prop :=
  ∀ (s : State) (n : Nat) (i : StreamId), Running s n →
    let c := s.dev.core n
    ((c.strm i).st = .draining → c.quiet i = true →
      ∃ t, exec (.streamDrainDone n i) s = .next t ∧ ((t.dev.core n).strm i).st = (c.strm i).target ∧
        (∀ b, enterBit i (c.strm i).target = some b → EvtUp t (corePg n 0) b) ∧
        ((t.dev.core n).strm i).pc = (c.strm i).pc ∧
        (t.dev.core n).strm (otherSid i) = c.strm (otherSid i) ∧
        (t.dev.core n).sp = (if i = .X then ((s.dev.vecFlush n none).core n).sp else c.sp) ∧
        (t.dev.core n).imemX = c.imemX ∧ (t.dev.core n).imemA = c.imemA ∧ (t.dev.core n).vault = c.vault) ∧
    ((c.strm i).st = .running → (c.strm i).part = false → (c.strm i).armed = true →
      s.dev.regN (ra (corePg n 0) (0x148 + 0x60 * sidN i)) ≤ (c.strm i).issued →
      ∃ t, exec (.stopAfter n i) s = .next t ∧ DrainsTo t n i .stopped ∧ ((t.dev.core n).strm i).armed = false ∧
        ((t.dev.core n).strm i).pc = (c.strm i).pc ∧ SameMemories s t n ∧ SameElsewhere s t n)

/-! Matrix arrays (R41 to R77). -/

/-- R49, R62, R63, R190: a `wld` puts 32 rows of a valid tile register into the shadow planes of the arrays named, which stay
LOADING until the load is done; `wsw` exchanges the planes of the arrays named. Active planes, accumulators and rows in flight
stay, and arrays not named are untouched. -/
def Obligations.WeightPlanesLoadAndSwap : Prop :=
  ∀ (s : State) (n k mask : Nat), (s.dev.core n).arrs.length = 4 → 0 < mask → mask < 16 →
    let c := s.dev.core n
    (∀ src row kh, Ready s n .X k (.wld mask src row kh) → (isSplit n = true ∨ mask = 15) →
      (∀ a, a < 4 → tb mask a = true → (c.arr a).loading = false) →
      (c.tile src).st = .valid → (arrClass (c.tile src).fmt).isSome = true →
      (kh = true → (c.tile src).fmt ≠ 1 ∧ (c.tile src).fmt ≠ 2) → row % 32 = 0 → row + 32 ≤ (c.tile src).rows →
      ∃ t, exec (.wld n) s = .next t ∧ SlotIssued s t n .X c.x.nextPc ∧
        (∀ a, a < 4 → tb mask a = false → (t.dev.core n).arr a = c.arr a) ∧
        (∀ a, a < 4 → tb mask a = true →
          ((t.dev.core n).arr a).loading = true ∧ ((t.dev.core n).arr a).active = (c.arr a).active ∧
          ((t.dev.core n).arr a).act = (c.arr a).act ∧ ((t.dev.core n).arr a).acc = (c.arr a).acc ∧
          ((t.dev.core n).arr a).rows = (c.arr a).rows ∧
          ((t.dev.core n).arr a).shadow = { fmt := some (c.tile src).fmt, kh := kh, rows := (upFrom row 32).map (c.tile src).row }) ∧
        SameMemories s t n ∧ SameElsewhere s t n) ∧
    (∀ a, Running s n → a < 4 → (c.arr a).loading = true →
      ∃ t, exec (.wldDone n a) s = .next t ∧ (t.dev.core n).arr a = { c.arr a with loading := false } ∧
        (∀ b, b ≠ a → (t.dev.core n).arr b = c.arr b) ∧ t.dev.regs = s.dev.regs ∧ SameMemories s t n ∧
        SameElsewhere s t n) ∧
    (Ready s n .X k (.wsw mask) → (∀ a, a < 4 → tb mask a = true → (c.arr a).loading = false) →
      ∃ t, exec (.wsw n) s = .next t ∧ SlotIssued s t n .X c.x.nextPc ∧
        (∀ a, a < 4 → (t.dev.core n).arr a =
          if tb mask a then { c.arr a with active := !(c.arr a).active } else c.arr a) ∧
        SameMemories s t n ∧ SameElsewhere s t n)

/-- R47, R65, R189, R190: an `mm` or `mmalt` over a valid tile register whose rows pair with the planes of the arrays named puts
`cnt` rows behind those in flight in each of them: row m meets the plane active after the exchange SWAP asks for, and updates
entry ACC + m, which `mmalt` raises by 128 where the active plane is P1. While the input of an array named still streams the rows of
an earlier one it waits (R50). -/
def Obligations.RowsEnterArrays : Prop :=
  ∀ (s : State) (n k mask src row cnt acc : Nat) (alt kh swap accum : Bool),
    (s.dev.core n).arrs.length = 4 → 0 < mask → mask < 16 →
    let c := s.dev.core n
    let after (a : Nat) : Arr := if swap then (c.arr a).swap else c.arr a
    let base (a : Nat) : Nat := if alt && (after a).active then acc + 128 else acc
    Ready s n .X k (.mm alt mask src row cnt kh swap accum acc) →
    ((∃ a, a < 4 ∧ tb mask a = true ∧ c.inputBusy a = true) →
      ∃ t, exec (if alt then .mmalt n else .mm n) s = .next t ∧ (t.dev.core n).x.waiting = true ∧
        (t.dev.core n).x.cause = 0 ∧ (t.dev.core n).x.slots = c.x.slots ∧ OnlyStream s t n .X) ∧
    ((∀ a, a < 4 → tb mask a = true → c.inputBusy a = false ∧ (swap = true → (c.arr a).loading = false) ∧ c.drainNeeds a (base a) cnt = false ∧
      ∃ f, (after a).act.fmt = some f ∧ (arrClass f).isSome = true ∧ arrClass f = arrClass (c.tile src).fmt) →
    (c.tile src).st = .valid → (kh = true → (c.tile src).fmt ≠ 1 ∧ (c.tile src).fmt ≠ 2) →
    row + cnt ≤ (c.tile src).rows → acc + cnt ≤ (if alt then 128 else 256) →
    ∃ t, exec (if alt then .mmalt n else .mm n) s = .next t ∧ SlotIssued s t n .X c.x.nextPc ∧
      (∀ a, a < 4 → tb mask a = false → (t.dev.core n).arr a = c.arr a) ∧
      (∀ a, a < 4 → tb mask a = true → (t.dev.core n).arr a =
        { after a with rows := (after a).rows ++ (upFrom 0 cnt).map fun m =>
            { fmt := (c.tile src).fmt, kh := kh, row := (c.tile src).row (row + m), plane := (after a).act,
              entry := base a + m, accum := accum } }) ∧
      SameMemories s t n ∧ SameElsewhere s t n)

/-- R52, R53, R56: the oldest row in flight of an array updates its entry in each of the 32 columns from the exact sum of the
products of that column, rounded once to FP32, added to the entry or replacing it; no other entry of the array changes. Two rows in
flight for one entry, listed in the order they issued, leave what the two updates carried out one after the other leave. -/
def Obligations.AccumulatorsUpdate : Prop :=
  ∀ (s : State) (n a : Nat) (j : RowJob) (rest : List RowJob), Running s n → a < 4 →
    (s.dev.core n).arrs.length = 4 → ((s.dev.core n).arr a).rows = j :: rest → j.entry < 256 →
    let old := ((s.dev.core n).arr a).acc
    let x (col : Nat) : Val := columnSum ((arrClass j.fmt).getD 0) (passVals j.fmt j.kh j.row)
      (passVals (j.plane.fmt.getD 0) j.plane.kh (lget {} j.plane.rows col))
    ∃ t, exec (.accUpdate n a) s = .next t ∧ ((t.dev.core n).arr a).rows = rest ∧
      (∀ col e, col < 32 → e < 256 → mget (fun _ => 0) ((t.dev.core n).arr a).acc (256 * col + e) =
        if e = j.entry then accNew j.accum (mget (fun _ => 0) old (256 * col + e)) (x col)
        else mget (fun _ => 0) old (256 * col + e)) ∧
      (∀ b, b ≠ a → (t.dev.core n).arr b = (s.dev.core n).arr b) ∧
      SameMemories s t n ∧ SameElsewhere s t n ∧
      (∀ j2 rest2, rest = j2 :: rest2 → j2.entry = j.entry →
        let x2 (col : Nat) : Val := columnSum ((arrClass j2.fmt).getD 0) (passVals j2.fmt j2.kh j2.row)
          (passVals (j2.plane.fmt.getD 0) j2.plane.kh (lget {} j2.plane.rows col))
        ∃ u, exec (.accUpdate n a) t = .next u ∧ ((u.dev.core n).arr a).rows = rest2 ∧
          ∀ col, col < 32 → mget (fun _ => 0) ((u.dev.core n).arr a).acc (256 * col + j.entry) =
            accNew j2.accum (accNew j.accum (mget (fun _ => 0) old (256 * col + j.entry)) (x col)) (x2 col))

/-- R59 to R61, R190 to R192, R219: a `drn` joins the drains of its core, matched under CHAIN with the oldest chain that still
expects rows; a drain reads its entries in order, so that it stands `count` entries on, and leaves when it has read its last; one
matched with a chain hands on the rows of its next entry where the chain takes them, and else pauses; one entry of one array goes as 32 words to the scratchpad at its destination and nowhere else, and is cleared unless KEEP is
set. -/
def Obligations.DrainsReadArrays : Prop :=
  ∀ (s : State) (n : Nat),
    let c := s.dev.core n
    (∀ k mask acc cnt keep dst rs as, Ready s n .X k (.drn mask acc cnt keep false dst rs as) → c.x.goesOn →
      0 < mask → mask < 16 → acc + cnt ≤ 256 →
      (∀ a, tb mask a = true → a < 4 → c.drains.all (fun d => !d.arrays.elem a) = true ∧
        (c.arr a).rows.all (fun j => decide (j.entry < acc) || decide (acc + cnt ≤ j.entry)) = true) →
      (drainDests cnt (arraysOf mask).length dst rs as).all (fun o => !outSp o 128 && !s.dev.inCarve n o 128) = true →
      ∃ t, exec (.drn n) s = .next t ∧ SlotIssued s t n .X c.x.nextPc ∧
        (t.dev.core n).drains = c.drains ++ [⟨arraysOf mask, acc, cnt, keep, none, dst, rs, as, c.work, 0⟩] ∧
        (t.dev.core n).work = c.work + 1 ∧ (t.dev.core n).arrs = c.arrs ∧ SameMemories s t n ∧ SameElsewhere s t n) ∧
    (∀ k mask acc cnt keep dst rs as w left, Ready s n .X k (.drn mask acc cnt keep true dst rs as) → c.x.goesOn →
      0 < mask → mask < 16 → acc + cnt ≤ 256 →
      (∀ a, tb mask a = true → a < 4 → c.drains.all (fun d => !d.arrays.elem a) = true ∧
        (c.arr a).rows.all (fun j => decide (j.entry < acc) || decide (acc + cnt ≤ j.entry)) = true) →
      c.openChain = some (w, left) → cnt * (arraysOf mask).length ≤ left →
      ∃ t, exec (.drn n) s = .next t ∧ SlotIssued s t n .X c.x.nextPc ∧
        (t.dev.core n).drains = c.drains ++ [⟨arraysOf mask, acc, cnt, keep, some w, dst, rs, as, c.work, 0⟩] ∧
        (t.dev.core n).vq = c.vq.map (fun e =>
          if e.work = w then { e with claimed := e.claimed + cnt * (arraysOf mask).length } else e) ∧
        (t.dev.core n).arrs = c.arrs ∧ SameMemories s t n ∧ SameElsewhere s t n) ∧
    (∀ i d, Running s n → c.drains[i]? = some d → c.spWiping = false → c.carveClear = [] →
      (∀ count, d.chain = none → d.next + count < d.cnt →
        ∃ t, exec (.drainResume n count i) s = .next t ∧
          (t.dev.core n).drains = lset c.drains i { d with next := d.next + count } ∧
          (t.dev.core n).vault = c.vault ∧ SameElsewhere s t n) ∧
      (d.chain = none → d.next < d.cnt → d.cnt ≤ d.next + 256 →
        ∃ t, exec (.drainDone n i) s = .next t ∧ (t.dev.core n).drains = ldel c.drains i ∧
          (t.dev.core n).vDrains = c.vDrains ∧ (t.dev.core n).vault = c.vault ∧ SameElsewhere s t n) ∧
      (∀ w, d.chain = some w → d.next < d.cnt →
        let rows := d.arrays.map fun a => (c.arr a).entryRow (d.acc + d.next)
        let d1 : Drain := { d with next := d.next + 1 }
        (c.chainTakes d w = true →
          ∃ t, exec (.drainResume n 1 i) s = .next t ∧
            (t.dev.core n).drains = (if d1.next < d.cnt then lset c.drains i d1 else ldel c.drains i) ∧
            (t.dev.core n).vDrains = (if d1.next < d.cnt then c.vDrains else c.vDrains ++ [d1]) ∧
            (t.dev.core n).vq = c.vq.map (fun e => if e.work = w then { e with inbox := e.inbox ++ rows } else e) ∧
            (t.dev.core n).arrs = c.arrs ∧ SameMemories s t n ∧ SameElsewhere s t n) ∧
        (c.chainTakes d w = false →
          exec (.drainResume n 1 i) s = .next s ∧ exec (.drainDone n i) s = .next s)) ∧
      (∀ a, d.arrays = [a] → a < 4 → c.arrs.length = 4 → d.chain = none → d.next + 1 < d.cnt →
        d.dst % 8 = 0 → d.rstride % 8 = 0 → spUnarmed s.dev n →
        let o := d.dst + d.next * d.rstride
        ∃ t, exec (.drainResume n 1 i) s = .next t ∧
          (∀ j, j < 16 → (t.dev.core n).spPeek (o / 8 + j) =
            ⟨mget (fun _ => 0) (c.arr a).acc (256 * (2 * j + 1) + (d.acc + d.next)) ++
              mget (fun _ => 0) (c.arr a).acc (256 * (2 * j) + (d.acc + d.next)), false⟩) ∧
          (∀ w, (w < o / 8 ∨ o / 8 + 16 ≤ w) → (t.dev.core n).spPeek w = c.spPeek w) ∧
          (∀ col e, e < 256 → d.acc + d.next < 256 → mget (fun _ => 0) ((t.dev.core n).arr a).acc (256 * col + e) =
            if e = d.acc + d.next ∧ d.keep = false then 0 else mget (fun _ => 0) (c.arr a).acc (256 * col + e))))

/-! Tile registers (R111 to R126). -/

/-- R113 to R115, R122, R194: `tcfg` gives the registers of its mask their rows and format, EMPTY, or takes them away; `trel` empties
the configured registers of its mask, and `tcfg` waits while an instruction before it still names or reads one (R51); a `tld` or `tst` whose rows exist enters the tile queue, a `tld` setting its register
LOADING. No other register, and no memory, changes. -/
def Obligations.TileRegisterOperationsIssue : Prop :=
  ∀ (s : State) (n k : Nat), (s.dev.core n).x.goesOn →
    let c := s.dev.core n
    let done (t : State) : Prop := SlotIssued s t n .X c.x.nextPc ∧ SameMemories s t n ∧ SameElsewhere s t n ∧
      (t.dev.core n).arrs = c.arrs ∧ (t.dev.core n).flags = c.flags
    (∀ mask rows fmt use, Ready s n .X k (.tcfg mask rows fmt use) → c.tileBusy mask = false →
      c.poolAfter mask rows ≤ 1024 → mask ≠ 0 → rows ≤ 128 → (1 ≤ rows → 1 ≤ fmt ∧ fmt ≤ 10) →
      (use = true → rows % 32 = 0) →
      ∃ t, exec (.tcfg n) s = .next t ∧ done t ∧ (t.dev.core n).tq = c.tq ∧
        ∀ r, r < 16 → (t.dev.core n).tile r =
          if tb mask r then
            (if rows = 0 then {} else { st := .empty, rows := rows, fmt := fmt, use := use, data := [] })
          else c.tile r) ∧
    (∀ mask rows fmt use, Ready s n .X k (.tcfg mask rows fmt use) → c.tileBusy mask = true →
      ∃ t, exec (.tcfg n) s = .next t ∧ c.x.slots = (t.dev.core n).x.slots ∧ (t.dev.core n).x.cause = 3 ∧
        (t.dev.core n).tiles = c.tiles ∧ OnlyStream s t n .X) ∧
    (∀ mask, Ready s n .X k (.trel mask) → c.tileBusy mask = false →
      ∃ t, exec (.trel n) s = .next t ∧ done t ∧ (t.dev.core n).tq = c.tq ∧
        ∀ r, r < 16 → (t.dev.core n).tile r =
          if tb mask r = true ∧ (c.tile r).st ≠ .unconfigured then { c.tile r with st := .empty } else c.tile r) ∧
    (∀ reg row cnt desc cfe cf, Ready s n .X k (.tmove false reg row cnt desc cfe cf) → c.tiles.length = 16 → reg < 16 →
      c.tq.length < 4 → row + cnt ≤ (c.tile reg).rows → desc + 32 ≤ spSize →
      ∃ t, exec (.tld n) s = .next t ∧ done t ∧ (t.dev.core n).work = c.work + 1 ∧
        (t.dev.core n).tq = c.tq ++ [{ store := false, reg := reg, row := row, cnt := cnt, desc := desc, cfe := cfe,
                                       cf := cf, work := c.work, pc := c.x.pc }] ∧
        (t.dev.core n).tile reg = { c.tile reg with st := .loading } ∧
        ∀ r, r ≠ reg → (t.dev.core n).tile r = c.tile r) ∧
    (∀ reg row cnt desc cfe cf, Ready s n .X k (.tmove true reg row cnt desc cfe cf) → c.tq.length < 4 →
      row + cnt ≤ (c.tile reg).rows → (c.tile reg).st ≠ .empty → desc + 32 ≤ spSize →
      ∃ t, exec (.tst n) s = .next t ∧ done t ∧ (t.dev.core n).work = c.work + 1 ∧
        (t.dev.core n).tq = c.tq ++ [{ store := true, reg := reg, row := row, cnt := cnt, desc := desc, cfe := cfe,
                                       cf := cf, work := c.work, pc := c.x.pc }] ∧
        (t.dev.core n).tiles = c.tiles)

/-- R117 to R124: the tile instruction at the head of the queue, its descriptor good and its words clean, starts with the rows or
writes its descriptor gives and no memory changed; a started `tld` retires by putting its rows into its register, which is VALID
unless a later load waits for it, and a started `tst` by writing the scratchpad at its words alone; each sets its completion
flag. -/
def Obligations.TileTransfersStartAndRetire : Prop :=
  ∀ (s : State) (n : Nat) (j : TileJob) (rest : List TileJob), Running s n → (s.dev.core n).tq = j :: rest →
    (s.dev.core n).spWiping = false →
    let c := s.dev.core n
    let f := (c.tile j.reg).fmt
    let d := tileDesc (rdBytes c.spRd j.desc 32)
    let read := rangeWords (d.touched j.cnt (rowElems f))
    (j.started = false → j.desc + 32 ≤ spSize → c.spPoison j.desc 32 = false → s.dev.tileFault n j d (c.tile j.reg) = none →
      c.carveClear = [] → c.x.frec = none →
      (j.store = false → (∀ i ∈ read, (c.spPeek i).poison = false) ∧ (c.x.reading.all fun r => r.reg != j.reg) = true) →
      ∃ t k, exec (.tileStart n) s = .next t ∧ (t.dev.core n).tq = k :: rest ∧ k.started = true ∧ k.reg = j.reg ∧
        k.work = j.work ∧
        (if j.store then k.writes = storeWrites d (c.tile j.reg) j.row j.cnt ((s.dev.convNow n none).for_ j.desc)
         else k.staged = (upFrom 0 j.cnt).map (loadRow d c.spRd f ((s.dev.convNow n none).for_ j.desc))) ∧
        (t.dev.core n).tiles = c.tiles ∧ SameMemories s t n ∧ SameElsewhere s t n) ∧
    (j.started = true → j.cf < 64 → j.store = false → j.staged.length = j.cnt →
      ∃ t, exec (.tileRetire n) s = .next t ∧ (t.dev.core n).tq = rest ∧
        (j.reg < 16 →
          (∀ i, ((t.dev.core n).tile j.reg).row i =
            if j.row ≤ i ∧ i < j.row + j.cnt then lget {} j.staged (i - j.row) else (c.tile j.reg).row i) ∧
          ((t.dev.core n).tile j.reg).st =
            (if rest.any (fun k => !k.store && k.reg == j.reg) then .loading else .valid)) ∧
        (∀ r, r < 16 → r ≠ j.reg → (t.dev.core n).tile r = c.tile r) ∧
        (if j.cfe then FlagBecomes s t n j.cf true ∧ FlagLast t n j.cf 1 2 else (t.dev.core n).flags = c.flags) ∧
        SameMemories s t n ∧ SameElsewhere s t n) ∧
    (j.started = true → j.cf < 64 → j.store = true → c.carveClear = [] →
      ∃ t, exec (.tileRetire n) s = .next t ∧ (t.dev.core n).tq = rest ∧ (t.dev.core n).tiles = c.tiles ∧
        (∀ i, (∀ w ∈ j.writes, w.addr / 8 ≠ i) → (t.dev.core n).spPeek i = c.spPeek i) ∧
        (∀ w, j.writes = [w] → w.mask = BitVec.allOnes 64 → spUnarmed s.dev n →
          (t.dev.core n).spPeek (w.addr / 8) = ⟨w.data, w.poison⟩) ∧
        (if j.cfe then FlagBecomes s t n j.cf true ∧ FlagLast t n j.cf 1 2 else (t.dev.core n).flags = c.flags) ∧
        (t.dev.core n).vault = c.vault ∧ SameElsewhere s t n)

/-! The vector engine and training (R195 to R266). -/

/-- R195, R196, R221: `vch`, `vupd` and `vred` enter a vector queue that holds fewer than two entries, naming the descriptor, the row
offset and the completion flag, a chain that takes drains expecting its 32-value groups; a third waits. -/
def Obligations.VectorOperationsEnterTheQueue : Prop :=
  ∀ (s : State) (n k desc rowofs cf opc : Nat) (cfe : Bool), Ready s n .X k (.vec opc desc rowofs cfe cf) →
    opc = 1 ∨ opc = 2 ∨ opc = 3 →
    let c := s.dev.core n
    let cmd : Instr := if opc = 1 then .vch n else if opc = 2 then .vupd n else .vred n
    let dr := opc != 2 && hDrain (c.spBytes desc 8)
    (c.x.goesOn → c.vq.length < 2 → (opc ≠ 2 → c.spHeld desc 8 = false) →
      ∃ t e, exec cmd s = .next t ∧ SlotIssued s t n .X c.x.nextPc ∧ (t.dev.core n).vq = c.vq ++ [e] ∧ e.opc = opc ∧
        e.desc = desc ∧ e.rowofs = rowofs ∧ e.cfe = cfe ∧ e.cf = cf ∧ e.work = c.work ∧ e.started = false ∧
        e.drain = dr ∧ e.expect = (if dr then hRows (c.spBytes desc 8) * hCb (c.spBytes desc 8) else 0) ∧
        (t.dev.core n).work = c.work + 1 ∧ SameMemories s t n ∧ SameElsewhere s t n) ∧
    (2 ≤ c.vq.length →
      ∃ t, exec cmd s = .next t ∧ (t.dev.core n).x.waiting = true ∧ (t.dev.core n).x.cause = 0 ∧
        (t.dev.core n).x.slots = c.x.slots ∧ OnlyStream s t n .X)

/-- R204, R219, R220, R222, R226, R228, R247, R253, R260: the entry at the head of the vector queue starts over the descriptor it reads again,
when its checks hold and nothing it reads is poisoned, a `vupd` when its step's verdict is in, and takes the conversion settings
as they stand; a chain's next group of up to 64 elements enters, the last one ending the entry, after the outputs due before it are
written and with no other write to the scratchpad; one that lacks drain rows does not; an ended chain leaves the queue with its
outputs written, sets its completion flag and commits the drains matched with it. -/
def Obligations.VectorEntriesStartProceedAndEnd : Prop :=
  ∀ (s : State) (n : Nat) (e : VecEntry) (rest : List VecEntry), Running s n → (s.dev.core n).vq = e :: rest →
    (s.dev.core n).spWiping = false → (s.dev.core n).carveClear = [] →
    (s.dev.core n).vAbandoned.all (fun a => e.work ≤ a.work) = true →
    let c := s.dev.core n
    (e.started = false → e.opc ≠ 2 →
      let h := c.spBytes e.desc 64
      let ws := descWords e.desc (hNrec h)
      c.poisonIn ws = none → s.dev.chainFault n e h (ws.map fun i => (c.spPeek i).data) = none →
      c.poisonIn (rangeWords (startReads h (recAt e.desc (ws.map fun i => (c.spPeek i).data)))) = none →
      ∃ t k, exec (.vecEntryStart n) s = .next t ∧ (t.dev.core n).vq = k :: rest ∧ k.started = true ∧
        k.d = ws.map (fun i => (c.spPeek i).data) ∧ k.groups = e.groups ∧ k.work = e.work ∧ k.inbox = e.inbox ∧
        k.conv = s.dev.convNow n none ∧ SameMemories s t n ∧ SameElsewhere s t n) ∧
    (e.started = false → e.opc = 2 →
      let h := c.vupdHdr e
      let ws := descWords e.desc (uRoles h).length
      c.vupdWaits e = false → c.poisonIn ws = none →
      s.dev.updFault n e h (ws.map fun i => (c.spPeek i).data) = none →
      ∃ t, exec (.vecEntryStart n) s = .next t ∧
        (t.dev.core n).vq = { e with started := true, d := ws.map fun i => (c.spPeek i).data,
                                     conv := s.dev.convNow n (some (hdrStep h)) } :: rest ∧
        SameMemories s t n ∧ SameElsewhere s t n) ∧
    (e.started = false → e.opc = 2 → c.vupdWaits e = true → c.x.st ≠ .draining →
      exec (.vecEntryStart n) s = .next s) ∧
    (let h := wordsNat (e.d.take 8)
      let g := e.nextGroup
      let p := g.1 * hCols h + g.2.1
      e.started = true → e.opc ≠ 2 → e.ended = false → e.groups < hGroups h →
      (e.lacksRows = true → ∀ wait,
        ∃ t, exec (.chainGroup n wait) s = .next t ∧ (t.dev.core n).vq = { e with clock := e.clock + 1 } :: rest ∧
          SameMemories s t n ∧ SameElsewhere s t n) ∧
      (∀ wait, e.lacksRows = false →
        let u := s.dev.vecFlush n (some (e.roomAt h g.2.1 (e.clock + wait)))
        (u.core n).poisonIn (rangeWords (groupReads h e g.1 g.2.1 g.2.2 p)) = none →
        ∃ t k, exec (.chainGroup n wait) s = .next t ∧ (t.dev.core n).vq = k :: rest ∧ k.groups = e.groups + 1 ∧
          k.ended = (e.groups + 1 == hGroups h) ∧ k.started = true ∧ k.work = e.work ∧
          k.inbox = (if hDrain h then e.inbox.drop e.groupRows else e.inbox) ∧ (t.dev.core n).sp = (u.core n).sp ∧
          (t.dev.core n).vault = c.vault ∧ (t.dev.core n).arrs = c.arrs ∧ (t.dev.core n).flags = c.flags ∧
          ∀ m, m ≠ n → t.dev.core m = s.dev.core m)) ∧
    (e.started = true → e.ended = true → e.cf < 64 →
      ∃ t, exec (.chainEnd n) s = .next t ∧ (t.dev.core n).vq = rest ∧
        (t.dev.core n).vDrains = c.vDrains.filter (fun d => d.chain != some e.work) ∧
        (if e.cfe then FlagBecomes s t n e.cf true ∧ FlagLast t n e.cf 1 5 else (t.dev.core n).flags = c.flags) ∧
        ((c.vDrains.all fun d => d.chain != some e.work) = true → (t.dev.core n).arrs = c.arrs) ∧
        (t.dev.core n).sp = ((s.dev.vecFlush n none).core n).sp ∧ (t.dev.core n).vault = c.vault ∧
        ((c.vOuts.all fun o => !o.ovf) = true → SameElsewhere s t n) ∧ ∀ m, m ≠ n → t.dev.core m = s.dev.core m)

/-- R247 to R252, R256 to R258: the started `vupd` at the head does the work of its KIND in one step: the scratchpad changes by the
writes its KIND computes and nowhere else, and the entry ends; UPDATE and FACTOR of a step whose verdict is SKIP write
nothing.
Model choices it rests on: log 18. -/
def Obligations.UpdateKindsDoTheirWork : Prop :=
  ∀ (s : State) (n kind : Nat) (e : VecEntry) (rest : List VecEntry), Running s n → (s.dev.core n).vq = e :: rest →
    (s.dev.core n).spWiping = false → (s.dev.core n).carveClear = [] →
    let c := s.dev.core n
    let h := wordsNat (e.d.take 8)
    let out : UpdOut := match kind with
      | 0 => c.updateOut e h
      | 1 => c.statsOut e h
      | 2 => c.factorOut e h
      | 3 => c.scaleOut e h
      | 5 => c.compressOut e h
      | _ => c.expandWrites e h
    let cmd : Instr := match kind with
      | 0 => .update n | 1 => .stats n | 2 => .factor n | 3 => .scale n | 5 => .compress n | _ => .expand n
    e.started = true → e.ended = false → e.opc = 2 → hdrKind h = kind → kind < 7 → kind ≠ 4 →
    c.poisonIn (rangeWords (updReads e h)) = none →
    ∃ t k, exec cmd s = .next t ∧ (t.dev.core n).vq = k :: rest ∧ k.ended = true ∧ k.work = e.work ∧
      (∀ i, (∀ w ∈ joinWrites out.1, w.addr / 8 ≠ i) → (t.dev.core n).spPeek i = c.spPeek i) ∧
      ((kind = 0 ∨ kind = 2) → c.applies = false → (t.dev.core n).sp = c.sp) ∧
      (t.dev.core n).vault = c.vault ∧ (t.dev.core n).arrs = c.arrs ∧ (t.dev.core n).flags = c.flags ∧
      ∀ m, m ≠ n → t.dev.core m = s.dev.core m

/-- R240, R243, R247: a started SEAL of an open step sends the core's seal once and marks it sent, one whose verdict is in ends; a
verdict record's copy that reaches a core of a powered pod whose clocks run becomes the core's copy of the step, the verdict, the
exponents and the group table, and the last copy is acknowledged.
Model choices it rests on: log 16. -/
def Obligations.SealsLeaveAndRecordsArrive : Prop :=
  ∀ (s : State),
    (∀ n e rest, Running s n → (s.dev.core n).vq = e :: rest → e.started = true → e.ended = false → e.opc = 2 →
      hdrKind (wordsNat (e.d.take 8)) = 4 → (s.dev.core n).x.st ≠ .draining →
      let d := stepDiff (hdrStep (wordsNat (e.d.take 8))) (s.dev.core n).updStep.toNat
      (d ≤ 0 → ∃ t, exec (.seal n) s = .next t ∧ (t.dev.core n).vq = { e with ended := true } :: rest ∧
        t.dev.net = s.dev.net ∧ SameMemories s t n ∧ SameElsewhere s t n) ∧
      (0 < d → e.sealSent = false →
        ∃ t p, exec (.seal n) s = .next t ∧ (t.dev.core n).vq = { e with sealSent := true } :: rest ∧
          t.dev.net = s.dev.net ++ [p] ∧ p.cls = .seal ∧ p.src = n ∧ p.dst = epMgmt ∧ p.vc = 0 ∧
          p.info = [hdrStep (wordsNat (e.d.take 8))] ∧ SameMemories s t n)) ∧
    (∀ k p n u, s.dev.alive = true → s.dev.arrivedAt k .verdictRec n = some p → s.dev.mcWaits k n p = false →
      Lands s.dev u k n p → (s.dev.pod (podOf n)).off = false → (s.dev.pod (podOf n)).gated = false →
      ∃ t q, exec (.verdictRecord k n u) s = .next t ∧
        (if p.targets.all (· == n) = true ∧ p.lost = false then t.dev.net = ldel s.dev.net k ++ [q] ∧ q.cls = .mcAck ∧ q.dst = p.src
         else t.dev.net = lset s.dev.net k q ∧ q.targets = p.targets.filter (· != n) ∧ q.info = p.info) ∧
        (t.dev.core n).updStep = w32 (lget 0 p.info 0) ∧
        (t.dev.core n).applies = (lget 0 p.info 1 % 2 == 1) ∧
        fld (t.dev.core n).updLs.toNat 0 6 = lget 0 p.info 2 % 64 ∧
        fld (t.dev.core n).updLs.toNat 8 6 = lget 0 p.info 3 % 64 ∧
        (t.dev.core n).updLs.getLsbD 17 = false ∧
        (t.dev.core n).groups = groupsOf (p.info.drop 4) ∧
        (∀ m, m ≠ n → t.dev.core m = s.dev.core m) ∧ (NoUpset u → t.dev.regs = s.dev.regs) ∧ t.sec = s.sec)

/-- R239 to R241, R243, R244: a notice for the open step, which is not sealing, marks it overflowed, one for another step raises
LATE and is recorded; a seal of a participant for the open step is kept once, and the last one decides the step; LS_INIT before
any seal sets the exponent, the step and a clean count of 0, and LS_PART a participant word.
Model choices it rests on: logs 16 and 40. -/
def Obligations.LossScaleStateFollowsItsMessages : Prop :=
  ∀ (s : State), s.dev.alive = true →
    (∀ k p u, s.dev.arrived k .notice = some p → Lands s.dev u k p.dst p → s.dev.corePart p.src < 12 →
      CritAgree s.dev (lsKeys (s.dev.corePart p.src)) →
      let P := s.dev.corePart p.src
      (lget 0 p.info 0 % 2 ^ 32 = s.dev.lsOpen P → (s.dev.part P).sealing = false →
        ∃ t, exec (.overflowNotice k u) s = .next t ∧ (t.dev.part P).ovf = true ∧ t.dev.net = ldel s.dev.net k ∧
          t.dev.crit = s.dev.crit ∧ t.dev.cores = s.dev.cores) ∧
      (lget 0 p.info 0 % 2 ^ 32 ≠ s.dev.lsOpen P →
        ∃ t, exec (.overflowNotice k u) s = .next t ∧ t.dev.partz = s.dev.partz ∧
          t.dev.reg (ra (lsPg P) 0x120) = w32 (lget 0 p.info 0) ∧
          t.dev.reg (ra (lsPg P) 0x124) = w32 (2 ^ 31 + p.src) ∧ EvtUp t (lsPg P) 1)) ∧
    (∀ k p u, s.dev.arrived k .seal = some p → Lands s.dev u k p.dst p → s.dev.corePart p.src < 12 →
      CritAgree s.dev (lsKeys (s.dev.corePart p.src)) →
      let P := s.dev.corePart p.src
      s.dev.isParticipant P p.src = true → lget 0 p.info 0 % 2 ^ 32 = s.dev.lsOpen P →
      (s.dev.part P).seals.elem p.src = false →
      (((s.dev.coresOf P).any fun m => s.dev.isParticipant P m && m != p.src && !(s.dev.part P).seals.elem m) = true →
        ∃ t, exec (.sealReceived k u) s = .next t ∧ (t.dev.part P).seals = (s.dev.part P).seals ++ [p.src] ∧
          s.dev.lsOpen P = t.dev.lsOpen P ∧ t.dev.net = ldel s.dev.net k) ∧
      (((s.dev.coresOf P).all fun m => !s.dev.isParticipant P m || m == p.src || (s.dev.part P).seals.elem m) = true →
        tb (s.dev.regN (ra (lsPg P) 0x100)) 17 = false →
        ∃ t, exec (.sealReceived k u) s = .next t ∧ (t.dev.part P).seals = [] ∧ (t.dev.part P).ovf = false ∧
          t.dev.lsSealed P = s.dev.lsOpen P)) ∧
    (∀ w P v, P < 12 → Reaches s w (lsPg P) → v.getLsbD 31 = true → s.dev.partRuns P = false →
      s.dev.sealSeen P = false → v.toNat % 64 ≤ 32 →
      ∃ t, exec (.lsInit w P v) s = .next t ∧ t.dev.lsExp P = v.toNat % 64 ∧ t.dev.lsClean P = 0 ∧
        t.dev.lsSealed P = s.dev.regN (ra (lsPg P) 0x114) ∧ (t.dev.part P).ovf = false ∧
        t.dev.regN (ra (lsPg P) 0x11C) = 0 ∧ t.dev.cores = s.dev.cores) ∧
    (∀ w P i v, P < 12 → i < 21 → Reaches s w (lsPg P) → s.dev.sealSeen P = false →
      ∃ t, exec (.lsPart w P i v) s = .next t ∧ t.dev.reg (ra (lsPg P) (0x140 + 4 * i)) = v ∧
        t.dev.regN (ra (lsPg P) 0x11C) = 0 ∧ t.dev.cores = s.dev.cores ∧ t.dev.crit = s.dev.crit)

/-! The scratchpad's own work (R128 to R139). -/

/-- R128, R130 to R134: a wipe of a core with no running stream begins, and its end leaves every word of the scratchpad and of the
instruction memories empty, with WIPE_DONE; a scrub step passes to the next word and changes no memory; a write-back puts the
corrected word it holds into its place and nowhere else, a bank's own likewise; arming SP_FLIP_CHK sets its masks and keeps an
ARM that is set. -/
def Obligations.ScratchpadMaintainsItself : Prop :=
  ∀ (s : State) (n : Nat),
    let c := s.dev.core n
    (∀ w, Reaches s w (corePg n 1) →
      ∃ t, exec (.spWipe w n) s = .next t ∧
        t.dev.core n = (if c.running then c else { c with spWiping := true }) ∧
        t.dev.regs = s.dev.regs ∧ SameElsewhere s t n) ∧
    (Running s n → c.spWiping = true →
      ∃ t, exec (.spWipeDone n) s = .next t ∧ (t.dev.core n).spWiping = false ∧
        (∀ i, (t.dev.core n).spPeek i = ⟨0, false⟩) ∧ (t.dev.core n).imemX = [] ∧ (t.dev.core n).imemA = [] ∧
        (t.dev.core n).vault = c.vault ∧ EvtUp t (corePg n 1) 8 ∧ SameElsewhere s t n) ∧
    (Running s n → tb (s.dev.regN (ra (corePg n 1) 0x210)) 16 = true →
      ∃ t, exec (.spScrub n) s = .next t ∧ (t.dev.core n).spScrubPos = (c.spScrubPos + 1) % 98304 ∧
        SameMemories s t n ∧ SameElsewhere s t n) ∧
    (∀ i r rest, Running s n → c.spWb = (i, r) :: rest →
      ∃ t, exec (.spWriteback n) s = .next t ∧ (t.dev.core n).spPeek i = r.value ∧
        (∀ j, j ≠ i → (t.dev.core n).spPeek j = c.spPeek j) ∧
        (∀ q, q ∈ (t.dev.core n).spWb ↔ q ∈ rest ∧ q.1 ≠ i) ∧
        t.dev.regs = s.dev.regs ∧ (t.dev.core n).vault = c.vault ∧ SameElsewhere s t n) ∧
    (∀ b i r, Running s n → c.spWb.find? (fun q => spBank q.1 == b) = some (i, r) →
      ∃ t, exec (.spBankBackground n b) s = .next t ∧ (t.dev.core n).spPeek i = r.value ∧
        (∀ j, j ≠ i → (t.dev.core n).spPeek j = c.spPeek j) ∧
        t.dev.regs = s.dev.regs ∧ (t.dev.core n).vault = c.vault ∧ SameElsewhere s t n) ∧
    (∀ w v, Reaches s w (corePg n 1) →
      ∃ t, exec (.spFlipArm w n v) s = .next t ∧
        (∀ b, b < 32 → (t.dev.reg (ra (corePg n 1) 0x228)).getLsbD b =
          if b = 31 then v.getLsbD 31 || (s.dev.reg (ra (corePg n 1) 0x228)).getLsbD 31
          else decide (b < 16) && v.getLsbD b) ∧
        (∀ key, key ≠ ra (corePg n 1) 0x228 → t.dev.reg key = s.dev.reg key) ∧
        t.dev.cores = s.dev.cores ∧ SameElsewhere s t n)

/-- R137, R138: a write of SP_CARVE with no clear in progress is judged at once: INVALID before RUNNING before CONFLICT (the
model's order, log 14), and with none of them it takes effect and the words that enter or leave the carve-out begin to be
cleared; refused, it changes no field and raises CARVE_REFUSED; a write during a clear waits. The end of a clear leaves those
words empty and every other word as it was. -/
def Obligations.CarveWritesAreJudged : Prop :=
  ∀ (s : State) (n : Nat),
    let c := s.dev.core n
    let pg := corePg n 1
    (∀ w v, Reaches s w pg → s.dev.locked pg = false → c.carveClear = [] → carveJudge c v.toNat = 0 →
      ∃ t, exec (.spCarveWrite w n v) s = .next t ∧ t.dev.regN (ra pg 0x204) = 0 ∧
        t.dev.reg (ra pg 0x200) = (v &&& 0x331F1F#32) ∧
        (t.dev.core n).carveClear = rangesXor (s.dev.carve n) (carveOf v.toNat) ∧
        SameMemories s t n ∧ SameElsewhere s t n) ∧
    (∀ w v, Reaches s w pg → s.dev.locked pg = false → c.carveClear = [] → carveJudge c v.toNat ≠ 0 →
      ∃ t, exec (.spCarveWrite w n v) s = .next t ∧ t.dev.regN (ra pg 0x204) = carveJudge c v.toNat ∧
        t.dev.reg (ra pg 0x200) = s.dev.reg (ra pg 0x200) ∧ t.dev.cores = s.dev.cores ∧ EvtUp t pg 7 ∧
        SameElsewhere s t n) ∧
    (∀ w v, Reaches s w pg → s.dev.locked pg = false → c.carveClear ≠ [] →
      ∃ t, exec (.spCarveWrite w n v) s = .next t ∧ t.dev.core n = { c with carveWait := c.carveWait ++ [v] } ∧
        t.dev.regs = s.dev.regs ∧ SameElsewhere s t n) ∧
    (∀ w v, Reaches s w pg → s.dev.locked pg = true →
      ∃ t, exec (.spCarveWrite w n v) s = .next t ∧ t.dev.regs = s.dev.regs ∧ t.dev.cores = s.dev.cores) ∧
    (Running s n → c.carveClear ≠ [] → c.carveWait = [] →
      ∃ t, exec (.carveClearDone n) s = .next t ∧ (t.dev.core n).carveClear = [] ∧
        (∀ i, (t.dev.core n).spPeek i =
          if c.carveClear.any (fun p => decide (p.1 / 8 ≤ i) && decide (i < p.2 / 8)) then ⟨0, false⟩ else c.spPeek i) ∧
        t.dev.regs = s.dev.regs ∧ (t.dev.core n).vault = c.vault ∧ SameElsewhere s t n)

/-! Movement (R198 to R200, R270 to R303). -/

/-- R198, R200, R286: `dma`, `dmat`, `gat` and `sct` whose descriptor lies in the scratchpad outside the carve-out enter their
engine's queue where it has a place (eight, shared by `dma` and `dmat`; two for each gather engine), with their addends and
completion flag; an instruction that finds the queue full waits. No memory changes.
Model choices it rests on: log 17. -/
def Obligations.MovementInstructionsEnterTheirQueue : Prop :=
  ∀ (s : State) (n k desc cf : Nat) (cfe : Bool),
    let c := s.dev.core n
    (∀ glb sadd dadd, Ready s n .A k (.dma glb desc sadd dadd cfe cf) →
      let cmd : Instr := if glb then .dmat n else .dma n
      ((c.dq.filter fun j => j.kind != .imem).length < 8 → desc + 64 ≤ spSize → s.dev.inCarve n desc 64 = false →
        ∃ t j, exec cmd s = .next t ∧ SlotIssued s t n .A c.a.nextPc ∧ (t.dev.core n).dq = c.dq ++ [j] ∧
          j.kind = (if glb then .dmat else .dma) ∧ j.desc = desc ∧ j.sadd = sadd ∧ j.dadd = dadd ∧ j.cfe = cfe ∧
          j.cf = cf ∧ j.work = c.work ∧ j.active = false ∧ (t.dev.core n).work = c.work + 1 ∧
          (t.dev.core n).g0 = c.g0 ∧ (t.dev.core n).g1 = c.g1 ∧ SameMemories s t n ∧ SameElsewhere s t n) ∧
      (8 ≤ (c.dq.filter fun j => j.kind != .imem).length →
        ∃ t, exec cmd s = .next t ∧ (t.dev.core n).a.waiting = true ∧ (t.dev.core n).a.cause = s.dev.fullCause n 0 ∧
          (t.dev.core n).a.slots = c.a.slots ∧ OnlyStream s t n .A)) ∧
    (∀ sct g ladd, Ready s n .A k (.gather sct g desc ladd cfe cf) → g < 2 →
      let cmd : Instr := if sct then .sct n else .gat n
      let q (c : Core) : List Job := if g = 0 then c.g0 else c.g1
      ((q c).length < 2 → desc + 64 ≤ spSize → s.dev.inCarve n desc 64 = false →
        ∃ t j, exec cmd s = .next t ∧ SlotIssued s t n .A c.a.nextPc ∧ q (t.dev.core n) = q c ++ [j] ∧
          j.kind = (if sct then .sct else .gat) ∧ j.desc = desc ∧ j.sadd = ladd ∧ j.cfe = cfe ∧ j.cf = cf ∧
          j.work = c.work ∧ j.active = false ∧ (t.dev.core n).work = c.work + 1 ∧ (t.dev.core n).dq = c.dq ∧
          SameMemories s t n ∧ SameElsewhere s t n) ∧
      (2 ≤ (q c).length →
        ∃ t, exec cmd s = .next t ∧ (t.dev.core n).a.waiting = true ∧ (t.dev.core n).a.cause = s.dev.fullCause n (g + 1) ∧
          (t.dev.core n).a.slots = c.a.slots ∧ OnlyStream s t n .A))

/-- R253, R267, R270, R278, R284 to R286, R310: an instruction at an engine's head whose descriptor reads without error starts: it
holds the descriptor it read, with its extension where EXT is set, and the conversion settings as they stand, a gather or scatter
its count and the first index of its list too. What its first unit needs, where one access reads it, is then asked for: at another
endpoint by an RD_REQ under the core's lowest free tag; in the core's own vault it is accepted there; at a virtual address the
core has no page for it waits for a walk.
Model choices it rests on: log 17. -/
def Obligations.MoversStartTheirHead : Prop :=
  ∀ (s : State) (n eng : Nat) (j : Job), Running s n → eng < 3 → (s.dev.core n).headJob eng = some j →
    j.active = false → j.pos = 0 → j.wdone = 0 → j.staged = [] → j.wait = .none → j.res = 0 →
    let c := s.dev.core n
    let rd (a l : Nat) : List DWord := (wordsAt a l).map fun i => (c.spPeek i).data
    let clean (a l : Nat) : Prop := ∀ i ∈ wordsAt a l, (mget noWord c.sp i).find = .clean
    let v := wordsNat (rd j.desc 64)
    let cmd : Instr := if eng = 0 then .dmaDescStart n else .gatherStart n (eng - 1)
    let ready (a : Nat) : Prop := c.spHeld a 64 = false ∧ s.dev.descFault n a 64 = none ∧ clean a 64
    let good : Prop := ready j.desc ∧
      if eng = 0 then (j.kind = .dma ∨ j.kind = .dmat) ∧ (tb v 505 = true → ready (j.desc + 64))
      else (j.kind = .gat ∨ j.kind = .sct) ∧ tb v 37 = false ∧ fld (s.dev.regN (ra (corePg n 1) 0x200)) 16 2 ≠ 0
    let d := rd j.desc 64 ++ (if eng = 0 ∧ tb v 505 = true then rd (j.desc + 64) 64 else [])
    let k0 : Job := { j with active := true, d := d, count := if eng = 0 then j.count else fld v 20 17,
                             conv := s.dev.convNow n none }
    let frc := if eng = 0 ∧ tb v 506 = true then [] else c.frc
    let at_ (w : Nat × Nat) : Nat := w.2 / 64 * 64 % 2 ^ 48 % spSize + w.2 % 64
    good →
    (eng ≠ 0 → fld v 20 17 = 0 →
      ∃ t, exec cmd s = .next t ∧ (t.dev.core n).headJob eng = some k0 ∧ SameMemories s t n ∧ SameElsewhere s t n) ∧
    ((eng ≠ 0 → ∀ w ∈ k0.needs, s.dev.inCarve n (at_ w) 8 = false ∧ c.spHeld (at_ w) 8 = false ∧
        (mget noWord c.sp (at_ w / 8)).find = .clean) →
      let k : Job := { k0 with staged := if eng = 0 then [] else k0.needs.map fun w => (w.1, w.2, c.spPeek (at_ w / 8)) }
      let u := s.dev.modJob n eng fun _ => k
      (∀ m addr len info tag, ReadsFar u n eng k m addr len info tag →
        ∃ t, exec cmd s = .next t ∧ AsksFar s t n eng k s.dev.net m addr len info tag ∧ (t.dev.core n).frc = frc ∧
          SameMemories s t n) ∧
      ∀ w a len, NextAccess (u.core n) eng k w a len →
        (∀ o, u.resolve n w.1 a false = .at_ (.vault n o) → s.dev.vaultGate n o = .ok →
          c.slotHold n (some (n, bankOf o)) = none →
          ∃ t x, exec cmd s = .next t ∧ (t.dev.core n).headJob eng = some k ∧
            (t.dev.core n).vault.pend = c.vault.pend ++ [x] ∧ x.who = .local eng ∧ x.off = o ∧
            x.raw = (wordsAt o len).map (mget noWord c.vault.mem) ∧
            (t.dev.core n).vault.mem = c.vault.mem ∧ (t.dev.core n).sp = c.sp ∧ SameElsewhere s t n) ∧
        (∀ va, u.resolve n w.1 a false = .walk va →
          ∃ t, exec cmd s = .next t ∧ (t.dev.core n).headJob eng = some { k with wait := .walk w.2 false } ∧
            SameMemories s t n ∧ SameElsewhere s t n))

/-- R200, R278, R279, R288, R294: an active instruction through all its units leaves its engine's queue and sets its completion
flag, and changes no memory; a write of FRC_INV empties the far-read cache of its core alone.
Model choices it rests on: log 17. -/
def Obligations.MoversEndTheirHead : Prop :=
  ∀ (s : State) (n : Nat),
    let c := s.dev.core n
    (∀ j rest, Running s n → c.dq = j :: rest → j.active = true → j.kind ≠ .imem → j.wait = .none →
      j.total ≤ j.pos → j.cf < 64 →
      ∃ t, exec (.dmaDescDone n) s = .next t ∧ (t.dev.core n).dq = rest ∧
        (if j.cfe then FlagBecomes s t n j.cf true ∧ FlagLast t n j.cf 1 3 else (t.dev.core n).flags = c.flags) ∧
        SameMemories s t n ∧ SameElsewhere s t n) ∧
    (∀ g j rest, Running s n → g < 2 → (if g = 0 then c.g0 else c.g1) = j :: rest → j.active = true → j.kind ≠ .imem →
      j.wait = .none → j.total ≤ j.pos → j.cf < 64 →
      ∃ t, exec (.gatherDone n g) s = .next t ∧ (if g = 0 then (t.dev.core n).g0 else (t.dev.core n).g1) = rest ∧
        (if j.cfe then FlagBecomes s t n j.cf true ∧ FlagLast t n j.cf 1 4 else (t.dev.core n).flags = c.flags) ∧
        SameMemories s t n ∧ SameElsewhere s t n) ∧
    (∀ w, Reaches s w (corePg n 3) →
      ∃ t, exec (.frcInv w n) s = .next t ∧ t.dev.core n = c.frcInv ∧ (t.dev.core n).frc = [] ∧ t.dev.regs = s.dev.regs ∧
        SameElsewhere s t n)

/-- R268, R295, R297, R434 to R436: a core's walk that finds a page caches it and lets its engine go on at the page's place, here by a
read from another endpoint; one that meets an unmapped entry faults the access with XLATE_UNMAPPED; a port's walk sends the waiting
BAR2 read on as requests, or ends it Unsupported Request.
Model choices it rests on: log 21. -/
def Obligations.WalksAnswerWhoWaits : Prop :=
  ∀ (s : State) (late : Option Nat), s.dev.alive = true →
    (∀ n eng a write j, s.dev.clocked n = true → (s.dev.core n).walker = some (eng, a, write) →
      (s.dev.core n).headJob eng = some j →
      let P := s.dev.corePart n
      (∀ e s1 m addr len info tag, s.dev.walk P (a % 2 ^ 48 % s.dev.window P) late = (.page e, s1) →
        let k : Job := { j with wait := .none }
        ReadsFar ((s1.modCore n fun c => { c with xl := xlPut c.xl e }).modJob n eng fun _ => k) n eng k m addr len info tag →
        ∃ t, exec (.translationWalk (.core n) late) s = .next t ∧ AsksFar s t n eng k s.dev.net m addr len info tag ∧
          e ∈ (t.dev.core n).xl ∧ (t.dev.core n).sp = (s.dev.core n).sp) ∧
      (∀ lvl poison s1, s.dev.walk P (a % 2 ^ 48 % s.dev.window P) late = (.unmapped lvl poison, s1) →
        j.kind ≠ .imem → (s.dev.core n).a.st = .running → (s.dev.core n).a.part = false →
        ∃ t, exec (.translationWalk (.core n) late) s = .next t ∧ EngineFaults s t n eng 0x38 a write ∧
          (t.dev.core n).headJob eng ≠ some j ∧ (t.dev.core n).sp = (s.dev.core n).sp ∧ t.dev.net = s.dev.net)) ∧
    (∀ p w rest, (s.dev.port p).walks = w :: rest → w.write = false →
      let P := fld (s.dev.aperture p w.ofs) 24 4
      (∀ e s1 n o sp ts, s.dev.walk P w.va late = (.page e, s1) →
        s.dev.physTarget P (e.addr + (w.va - e.base)) w.len = some (n, o, sp) →
        lowTags (s.dev.port p).tags (pieces256 o w.len).length = some ts →
        ∃ t ps, exec (.translationWalk (.port p) late) s = .next t ∧ (t.dev.port p).walks = rest ∧
          (t.dev.port p).tags = (s.dev.port p).tags ++ ts ∧
          t.dev.net = s.dev.net ++ ps ∧ ps.map (·.tag) = ts ∧
          (∀ q ∈ ps, q.cls = .rdReq ∧ q.dst = n ∧ q.src = epPort p) ∧
          ps.map (fun q => (q.addr, q.len)) = (pieces256 o w.len).map (fun x =>
            ((if sp then spadAddr n 0 else vaultAddr n 0) + (span64 x.1 (x.1 + x.2)).1, (span64 x.1 (x.1 + x.2)).2))) ∧
      (∀ lvl poison s1, s.dev.walk P w.va late = (.unmapped lvl poison, s1) →
        ∃ t, exec (.translationWalk (.port p) late) s = .next t ∧ (t.dev.port p).walks = rest ∧
          t.dev.net = s.dev.net ∧ t.dev.out.getLast? = some (.bar2Ur p w.ofs) ∧ EvtUp t (pciePg p) 3))

/-- R268, R292, R294, R295: a run-ahead walk of one of the next pages along the address stream of an engine that works, which the core
has not cached, caches the page it finds, and meets anything else without a fault, raising RUNAHEAD_DROP; a run-ahead lookup of
one of the next blocks sends a LOOKUP under the core's lowest free tag; the line behind one that missed is fetched whole. An
address elsewhere is not fetched ahead. The streams and the engines stay as they are.
Model choices it rests on: log 57. -/
def Obligations.RunAheadFetchesNeverFault : Prop :=
  ∀ (s : State) (n : Nat) (addr : BitVec 48) (late : Option Nat), Running s n →
    let c := s.dev.core n
    let P := s.dev.corePart n
    let va := addr.toNat % s.dev.window P
    let g := s.dev.globalOf n addr.toNat
    let kept (t : State) : Prop := (t.dev.core n).x = c.x ∧ (t.dev.core n).a = c.a ∧ (t.dev.core n).dq = c.dq ∧
      (t.dev.core n).g0 = c.g0 ∧ (t.dev.core n).g1 = c.g1 ∧ SameWords s t n
    P < 12 →
    (s.dev.onStream n false va = false → exec (.runaheadFetch n false addr late) s = .next s) ∧
    (∀ e s1, s.dev.onStream n false va = true → xlFind c.xl false va = none → s.dev.walk P va late = (.page e, s1) →
      ∃ t, exec (.runaheadFetch n false addr late) s = .next t ∧ (t.dev.core n).xl = xlPut c.xl e ∧ kept t ∧
        t.dev.net = s.dev.net) ∧
    (∀ r s1, s.dev.onStream n false va = true → xlFind c.xl false va = none → s.dev.walk P va late = (r, s1) →
      r ≠ .hold → (∀ e, r ≠ .page e) →
      ∃ t, exec (.runaheadFetch n false addr late) s = .next t ∧ (t.dev.core n).xl = c.xl ∧ kept t ∧
        EvtUp t (corePg n 3) 5 ∧ t.dev.net = s.dev.net) ∧
    ((s.dev.botRange P).2 ≠ 0 → xlFind c.xl true g = none → s.dev.onStream n true g = false →
      exec (.runaheadFetch n true addr late) s = .next s) ∧
    (∀ tag, (s.dev.botRange P).2 ≠ 0 → xlFind c.xl true g = none → s.dev.onStream n true g = true →
      let e := (s.dev.botRange P).1 + g / 2 ^ 21
      c.reqs.all (fun r => !(r.cls == .lookup && r.addr == e && !r.stale)) = true → c.freeTag = some tag →
      ∃ t p, exec (.runaheadFetch n true addr late) s = .next t ∧ t.dev.net = s.dev.net ++ [p] ∧ p.cls = .lookup ∧
        p.src = n ∧ p.dst = epBot (if e < 65536 then 0 else 1) ∧ p.addr = e ∧ p.tag = tag ∧ kept t ∧
        (t.dev.core n).xl = c.xl) ∧
    (∀ x m a info tag, (s.dev.botRange P).2 ≠ 0 → xlFind c.xl true g = some x → c.frcNext.elem (g / 256) = true →
      s.dev.frcLines n ≠ 0 → x.entry.getLsbD 0 = true → x.entry.getLsbD 2 = false → x.entry.getLsbD 3 = false →
      s.dev.reachEp n (s.dev.resolve n 3 (256 * (g / 256)) false) = some (m, a, info) → m ≠ n →
      c.askHold n m a info = none → c.freeTag = some tag →
      ∃ t p, exec (.runaheadFetch n true addr late) s = .next t ∧ t.dev.net = s.dev.net ++ [p] ∧ p.cls = .rdReq ∧
        p.src = n ∧ p.dst = m ∧ p.addr = a ∧ p.len = 256 ∧ p.tag = tag ∧ kept t ∧
        (t.dev.core n).frcNext = c.frcNext.filter (· != g / 256))

/-- R289, R292, R293, R304: a LOOKUP at a powered segment is answered with the entry; a write of BOT_DATA_LO is held for its port,
and one of BOT_DATA_HI with its port's selection in range and its partition the port's commits the entry at once, alone, and
sends the shoot-down to the partition's cores; otherwise the table stays and RESULT says why; BUSY falls when no copy of the
shoot-down is on its way.
Model choices it rests on: logs 16 and 23. -/
def Obligations.BlockOwnerTableAnswersAndCommits : Prop :=
  ∀ (s : State), s.dev.alive = true →
    (∀ k p h u, s.dev.arrived k .lookup = some p → Lands s.dev u k p.dst p → h < 2 → p.dst = epBot h → s.dev.power.spineOff.getLsbD (1 + h) = false →
      ∃ t r, exec (.lookup k u) s = .next t ∧ t.dev.net = ldel s.dev.net k ++ [r] ∧ r.cls = .rdRsp ∧ r.dst = p.src ∧
        r.tag = p.tag ∧ r.epoch = p.epoch ∧ r.data = [⟨w64 (s.dev.botEntry p.addr), false⟩] ∧
        t.dev.bot = s.dev.bot ∧ t.dev.cores = s.dev.cores) ∧
    (∀ w v, Reaches s w botPg →
      let p := writerPort w
      let sel := s.dev.regN (pra p botPg 0x100)
      let inc (t : State) : Prop := t.dev.regN (pra p botPg 0x100) % 2 ^ 17 =
        (if tb sel 27 then (sel + 1) % 2 ^ 17 else sel % 2 ^ 17)
      (∃ t, exec (.botDataLo w v) s = .next t ∧ t.dev.bot = s.dev.bot ∧
        t.dev.reg (pra p botPg 0x104) = (if s.dev.shoot.isSome then s.dev.reg (pra p botPg 0x104) else v) ∧
        t.dev.regN (pra p botPg 0x10C) = (if s.dev.shoot.isSome then 3 else 0)) ∧
      (∀ e, s.dev.botTarget p = .ok e →
        ∃ t q, exec (.botDataHi w v) s = .next t ∧ t.dev.botEntry e = (v ++ s.dev.reg (pra p botPg 0x104)).toNat ∧
          (∀ i, i ≠ e → t.dev.botEntry i = s.dev.botEntry i) ∧ t.dev.shoot = some (fld sel 28 4, [sel % 2 ^ 17]) ∧
          t.dev.net = s.dev.net ++ [q] ∧ q.cls = .mcWr ∧ q.src = epBot 0 ∧ q.targets = s.dev.coresOf (fld sel 28 4) ∧
          t.dev.regN (pra p botPg 0x10C) = 0 ∧ inc t) ∧
      (∀ r, s.dev.botTarget p = .error r →
        ∃ t, exec (.botDataHi w v) s = .next t ∧ t.dev.bot = s.dev.bot ∧ t.dev.shoot = s.dev.shoot ∧
          t.dev.net = s.dev.net ∧ t.dev.regN (pra p botPg 0x10C) = r ∧ inc t)) ∧
    ((s.dev.net.all fun p => !((p.cls == .mcWr && p.src == epBot 0) || (p.cls == .mcAck && p.dst == epBot 0))) = true →
      ∃ t, exec .shootdownDone s = .next t ∧ t.dev = { s.dev with shoot := none }) ∧
    ((s.dev.net.any fun p => (p.cls == .mcWr && p.src == epBot 0) || (p.cls == .mcAck && p.dst == epBot 0)) = true →
      exec .shootdownDone s = .next s)

/-! The Harness (R308 to R331, R488). -/

/-- R308 to R313, R327, R331, R342, R343: an RD_REQ at a core whose scratchpad serves it is answered RD_RSP with the words as they
read, to the source's epoch and tag, and no memory changes; one the vault serves is accepted there while it has room, and
otherwise waits at the head of the core's intake; a place that does not exist is answered ABSENT and one in the carve-out
REFUSED; a router that cannot correct the header discards the packet.
Model choices it rests on: log 16. -/
def Obligations.ReadRequestsAreServed : Prop :=
  ∀ (s : State) (k : Nat) (u : Upset) (p : Packet), s.dev.alive = true → s.dev.arrived k .rdReq = some p →
    let n := p.dst
    let c := s.dev.core n
    (n < 672 → Lands s.dev u k n p → s.dev.podGone (podOf n) = false →
      (∀ o, s.dev.door n p.addr p.len none = .spad o →
        ∃ t r, exec (.rdReq k u) s = .next t ∧ t.dev.net = ldel s.dev.net k ++ [r] ∧ r.cls = .rdRsp ∧ r.vc = 2 ∧
          r.dst = p.src ∧ r.src = n ∧ r.epoch = p.epoch ∧ r.tag = p.tag ∧ r.data = (wordsAt o p.len).map c.spPeek ∧
          SameMemories s t n ∧ ∀ m, m ≠ n → t.dev.core m = s.dev.core m) ∧
      (∀ o, s.dev.door n p.addr p.len none = .vault o → c.intakeRoom o = true →
        ∃ t x, exec (.rdReq k u) s = .next t ∧ t.dev.net = ldel s.dev.net k ∧
          (t.dev.core n).vault.pend = c.vault.pend ++ [x] ∧ x.who = .remote p.src p.epoch p.tag ∧ x.off = o ∧
          x.raw = (wordsAt o p.len).map (mget noWord c.vault.mem) ∧ SameWords s t n ∧
          ∀ m, m ≠ n → t.dev.core m = s.dev.core m) ∧
      (∀ o, s.dev.door n p.addr p.len none = .vault o → c.intakeRoom o = false →
        ∃ t, exec (.rdReq k u) s = .next t ∧ t.dev.net = lset s.dev.net k { p with stuck := [n] } ∧
          t.dev.cores = s.dev.cores ∧ t.dev.regs = s.dev.regs) ∧
      (s.dev.door n p.addr p.len none = .absent →
        ∃ t, exec (.rdReq k u) s = .next t ∧ t.dev.net = ldel s.dev.net k ++ answers p .err 1 ∧
          t.dev.cores = s.dev.cores) ∧
      (∀ b, s.dev.door n p.addr p.len none = .refused b →
        ∃ t, exec (.rdReq k u) s = .next t ∧ t.dev.net = ldel s.dev.net k ++ answers p .err 2 ∧
          t.dev.cores = s.dev.cores) ∧
      (s.dev.door n p.addr p.len none = .wait → exec (.rdReq k u) s = .next s)) ∧
    (n < 672 → Lands s.dev u k n p → s.dev.podGone (podOf n) = true →
      ∃ t, exec (.rdReq k u) s = .next t ∧ t.dev.net = ldel s.dev.net k ++ answers p .err 1 ∧
        t.dev.cores = s.dev.cores ∧ EvtUp t (podPg (podOf n)) 1) ∧
    (∀ r, upsetLost u (p.way n) = some r →
      ∃ t, exec (.rdReq k u) s = .next t ∧ t.dev.net = ldel s.dev.net k ∧ t.dev.cores = s.dev.cores ∧
        EvtUp t (podPg r) 5)

/-- R129, R275, R276, R308, R313, R324, R327, R331, R343, R345: a WR_REQ or RW_REQ that its core's memory serves changes the words its
payload names and no other, a lone word to the payload's value or, reducing, to the combination; words that a router on the way
could not correct are poisoned; it is acknowledged to its source and every contributor, behind a notice where it is marked; where
it is refused or finds no place, memory stays and ERR says so.
Model choices it rests on: log 16. -/
def Obligations.WriteRequestsAreServed : Prop :=
  ∀ (s : State) (rw : Bool) (k : Nat) (u : Upset) (p : Packet), s.dev.alive = true →
    s.dev.arrived k (if rw then .rwReq else .wrReq) = some p →
    let n := p.dst
    let c := s.dev.core n
    let cmd : Instr := if rw then .rwReq k u else .wrReq k u
    let ws := localWrites (upsetMark u (p.way n) p).writes
    let door := s.dev.door n p.addr p.len (some ws)
    let newWord (o : PWord) (w : WWrite) : PWord :=
      if p.op = 0 then ⟨w.data, w.poison⟩ else ⟨(rwWord p.op o.data w.data w.mask).1, o.poison || w.poison⟩
    let acked (t : State) : Prop := ∃ ns, t.dev.net = ldel s.dev.net k ++ ns ++ answers p .wrAck 0 ∧
      (∀ q ∈ ns, q.cls = .notice ∧ q.src = n) ∧ (p.mark = true → ns ≠ [])
    n < 672 → Lands s.dev u k n p →
    (s.dev.podGone (podOf n) = false →
      (∀ o, door = .spad o →
        ∃ t, exec cmd s = .next t ∧ acked t ∧
          (∀ i, (∀ w ∈ ws, w.addr / 8 ≠ i) → (t.dev.core n).spPeek i = c.spPeek i) ∧
          (∀ w, ws = [w] → (p.op = 0 → w.mask = BitVec.allOnes 64) → spUnarmed s.dev n →
            (t.dev.core n).spPeek (w.addr / 8) = newWord (c.spPeek (w.addr / 8)) w) ∧
          (t.dev.core n).vault = c.vault ∧ ∀ m, m ≠ n → t.dev.core m = s.dev.core m) ∧
      (∀ o, door = .vault o → c.intakeRoom o = true →
        ∃ t, exec cmd s = .next t ∧ acked t ∧
          (∀ i, (∀ w ∈ ws, w.addr / 8 ≠ i) → (t.dev.core n).vPeek i = c.vPeek i) ∧
          (∀ w, ws = [w] → (p.op = 0 → w.mask = BitVec.allOnes 64) → vUnarmed s.dev n →
            (t.dev.core n).vPeek (w.addr / 8) = newWord (c.vPeek (w.addr / 8)) w) ∧
          (t.dev.core n).sp = c.sp ∧ ∀ m, m ≠ n → t.dev.core m = s.dev.core m) ∧
      (∀ o, door = .vault o → c.intakeRoom o = false →
        ∃ t, exec cmd s = .next t ∧ t.dev.net = lset s.dev.net k { p with stuck := [n] } ∧ t.dev.cores = s.dev.cores) ∧
      (door = .absent →
        ∃ t, exec cmd s = .next t ∧ t.dev.net = ldel s.dev.net k ++ answers p .err 1 ∧ t.dev.cores = s.dev.cores) ∧
      (∀ b, door = .refused b →
        ∃ t, exec cmd s = .next t ∧ t.dev.net = ldel s.dev.net k ++ answers p .err 2 ∧ t.dev.cores = s.dev.cores)) ∧
    (s.dev.podGone (podOf n) = true →
      ∃ t, exec cmd s = .next t ∧ t.dev.net = ldel s.dev.net k ++ answers p .err 1 ∧ t.dev.cores = s.dev.cores)

/-- R166, R168, R293, R315, R319 to R323, R327: a router that two reduce-writes of one place and operation pass combines the arriving
one into the other, the absorbed source becoming a contributor, where that overtakes no packet of the sources; a FLAG_OP sets or
clears its flag alone and is acknowledged; a copy of a multicast acts at its core, a shoot-down dropping the core's copies of the
block and marking what is still on its way, and after the last copy the source gets MC_ACK with the codes of all.
Model choices it rests on: logs 16 and 58. -/
def Obligations.CombiningFlagsAndMulticast : Prop :=
  ∀ (s : State), s.dev.alive = true →
    (∀ pod i j p q, i ≠ j → s.dev.net[i]? = some p → s.dev.net[j]? = some q →
      let apart : Bool := ((s.dev.net.take (max i j)).drop (min i j + 1)).all fun x => !x.ahead q q.dst
      (s.dev.mayCombine pod p q = true → apart = true →
        ∃ t r, exec (.combine pod i j) s = .next t ∧ t.dev.net = ldel (lset s.dev.net i r) j ∧
          r.con = p.con ++ (q.src, q.epoch, q.tag) :: q.con ∧ r.con.length ≤ 7 ∧ r.dst = p.dst ∧ r.src = p.src ∧
          r.tag = p.tag ∧ r.op = p.op ∧ r.addr = q.addr ∧ r.len = q.len ∧ ((p.mark = true ∨ q.mark = true) → r.mark = true) ∧
          t.dev.cores = s.dev.cores ∧ t.dev.regs = s.dev.regs) ∧
      (s.dev.mayCombine pod p q = false ∨ apart = false → exec (.combine pod i j) s = .next s)) ∧
    (∀ k u p, s.dev.arrived k .flagOp = some p → Lands s.dev u k p.dst p → p.dst < 672 →
      s.dev.podGone (podOf p.dst) = false → (s.dev.pod (podOf p.dst)).gated = false →
      ∃ t r, exec (.flagOp k u) s = .next t ∧ FlagBecomes s t p.dst (p.addr % 64) (p.op != 1) ∧
        (p.op ≠ 1 → p.src < 672 → FlagLast t p.dst (p.addr % 64) 2 p.src) ∧
        t.dev.net = ldel s.dev.net k ++ [r] ∧ r.cls = .flagAck ∧ r.dst = p.src ∧ r.tag = p.tag ∧
        SameMemories s t p.dst ∧ ∀ m, m ≠ p.dst → t.dev.core m = s.dev.core m) ∧
    (∀ k u p n, s.dev.arrivedAt k .mcWr n = some p → s.dev.mcWaits k n p = false → Lands s.dev u k n p →
      let left := p.targets.filter (· != n)
      let ws := localWrites (upsetMark u (p.way n) p).writes
      let door := s.dev.door n p.addr p.len (some ws)
      let answered (t : State) (code : Nat) : Prop :=
        if left = [] ∧ p.lost = false then
          ∃ r, t.dev.net = ldel s.dev.net k ++ [r] ∧ r.cls = .mcAck ∧ r.dst = p.src ∧ r.tag = p.tag ∧
            r.code = (p.code ||| code) ∧ r.info = [p.gone + b2n (code == 1)]
        else t.dev.net = lset s.dev.net k { p with
          targets := left, stuck := p.stuck.filter (· != n), gone := p.gone + b2n (code == 1), code := p.code ||| code }
      (s.dev.podGone (podOf n) = true → ∃ t, exec (.mcWr k n u) s = .next t ∧ answered t 1 ∧ t.dev.cores = s.dev.cores ∧
        EvtUp t (podPg (podOf n)) 1) ∧
      (p.op = 1 → s.dev.podGone (podOf n) = false → (s.dev.pod (podOf n)).gated = false →
        let b := lget 0 p.info 0
        ∃ t, exec (.mcWr k n u) s = .next t ∧ t.dev.core n = (s.dev.core n).shootDown b ∧
          (t.dev.core n).xl = ((s.dev.core n).xl.filter fun e => !(e.glb && e.base == b * 2 ^ 21)) ∧
          (t.dev.core n).frc = ((s.dev.core n).frc.filter fun q => q.1 / 8192 != b) ∧
          (∀ m, m ≠ n → t.dev.core m = s.dev.core m) ∧ (NoUpset u → t.dev.regs = s.dev.regs) ∧ answered t 0) ∧
      (p.op ≠ 1 → s.dev.podGone (podOf n) = false →
        (∀ o, door = .spad o →
          ∃ t, exec (.mcWr k n u) s = .next t ∧ (p.mark = false → answered t 0) ∧
            (∀ i, (∀ w ∈ ws, w.addr / 8 ≠ i) → (t.dev.core n).spPeek i = (s.dev.core n).spPeek i) ∧
            (∀ w, ws = [w] → w.mask = BitVec.allOnes 64 → spUnarmed s.dev n →
              (t.dev.core n).spPeek (w.addr / 8) = ⟨w.data, w.poison⟩) ∧
            (∀ m, m ≠ n → t.dev.core m = s.dev.core m)) ∧
        (∀ o, door = .vault o → (s.dev.core n).intakeRoom o = true →
          ∃ t, exec (.mcWr k n u) s = .next t ∧ (p.mark = false → answered t 0) ∧
            (∀ i, (∀ w ∈ ws, w.addr / 8 ≠ i) → (t.dev.core n).vPeek i = (s.dev.core n).vPeek i) ∧
            (t.dev.core n).sp = (s.dev.core n).sp ∧ (∀ m, m ≠ n → t.dev.core m = s.dev.core m)) ∧
        (∀ b, door = .refused b →
          ∃ t, exec (.mcWr k n u) s = .next t ∧ answered t 2 ∧ t.dev.cores = s.dev.cores)))

/-- R279, R292, R297, R310, R315, R318, R328, R330: a response under the current epoch ends the request of its tag. RD_RSP brings its
words to the engine that asked, which goes on (here to a read from another endpoint), or, of a LOOKUP, caches a valid entry;
WR_ACK of an instruction's last write ends its last unit; FLAG_ACK and MC_ACK need nothing more; ERR faults the access stream of
the engine that asked, or the stream of the flag operation it answers. One of an old epoch is discarded and changes no core.
Model choices it rests on: log 16. -/
def Obligations.ResponsesEndTheirRequests : Prop :=
  ∀ (s : State) (k n : Nat) (cls : PCls) (u : Upset) (p : Packet), s.dev.alive = true → n < 672 →
    s.dev.arrived k cls = some p → p.dst = n → Lands s.dev u k n p → (s.dev.pod (podOf n)).gated = false →
    s.dev.fillHeld n p = false →
    let c := s.dev.core n
    let left : List Req := c.reqs.filter fun q => q.tag != p.tag
    let data := (upsetMark u (p.way n) p).data
    let cmd : Instr := match cls with
      | .rdRsp => .rdRsp k u | .wrAck => .wrAck k u | .flagAck => .flagAck k u | .mcAck => .mcAck k u | _ => .err k u
    (cls = .rdRsp ∨ cls = .wrAck ∨ cls = .flagAck ∨ cls = .mcAck ∨ cls = .err) →
    (p.epoch ≠ (s.dev.pod (podOf n)).epoch →
      ∃ t, exec cmd s = .next t ∧ t.dev.net = ldel s.dev.net k ∧ t.dev.cores = s.dev.cores ∧ EvtUp t (podPg (podOf n)) 2) ∧
    (∀ r, p.epoch = (s.dev.pod (podOf n)).epoch → c.reqs.find? (fun q => q.tag == p.tag) = some r →
      (∀ j m addr len info tag, cls = .rdRsp → r.cls ≠ .lookup → r.eng < 3 → r.line = none → c.headJob r.eng = some j →
        let h : Job := { j with
          staged := j.staged ++ (data.zip (upFrom 0 data.length)).map fun q => (r.kind, r.gaddr + 8 * q.2, q.1) }
        ReadsFar ((s.dev.closeReq n r.tag).modJob n r.eng fun _ => h) n r.eng h m addr len info tag →
        ∃ t, exec cmd s = .next t ∧ AsksFar s t n r.eng h (ldel s.dev.net k) m addr len info tag ∧ SameMemories s t n) ∧
      (cls = .rdRsp → r.cls = .lookup → r.eng = 5 → r.stale = false →
        let e := (lget {} p.data 0).data
        e.getLsbD 0 = true → fld e.toNat 38 6 ≤ 47 →
        ∃ t, exec cmd s = .next t ∧ t.dev.core n = { c with reqs := left, xl := xlPut c.xl (botXl r.gaddr e) } ∧
          t.dev.net = ldel s.dev.net k ∧ SameMemories s t n) ∧
      (cls = .rdRsp → r.cls = .lookup → r.eng = 5 → r.stale = true →
        ∃ t, exec cmd s = .next t ∧ t.dev.core n = { c with reqs := left } ∧ t.dev.net = ldel s.dev.net k) ∧
      (∀ j it, cls = .wrAck → r.eng < 3 → c.headJob r.eng = some j → j.wait = .rsp r.tag → j.active = true → j.res = 0 →
        j.kind ≠ .imem → j.needs = [] → j.items[j.wdone]? = some it → j.items[j.wdone + 1]? = none → j.total = j.pos + 1 →
        ∃ t, exec cmd s = .next t ∧
          (t.dev.core n).headJob r.eng = some { j with wait := .none, pos := j.pos + 1, wdone := 0, staged := [] } ∧
          (t.dev.core n).reqs = left ∧ t.dev.net = ldel s.dev.net k ∧ SameMemories s t n) ∧
      (cls = .flagAck ∨ cls = .mcAck →
        ∃ t, exec cmd s = .next t ∧ t.dev.core n = { c with reqs := left } ∧ t.dev.net = ldel s.dev.net k ∧
          (NoUpset u → t.dev.regs = s.dev.regs)) ∧
      (∀ j, cls = .err → r.cls ≠ .flagOp → r.eng < 3 → c.headJob r.eng = some j → r.cls = .rdReq ∨ c.awaits r = true →
        j.kind ≠ .imem → c.a.st = .running → c.a.part = false →
        ∃ t a write, exec cmd s = .next t ∧ EngineFaults s t n r.eng (if p.code = 2 then 0x3C else 0x3B) a write ∧
          (t.dev.core n).reqs = orphaned r.eng left ∧ t.dev.net = ldel s.dev.net k ∧ SameWords s t n) ∧
      (∀ i, cls = .err → r.cls = .flagOp → r.eng = 3 + sidN i → (c.strm i).st = .running → (c.strm i).part = false →
        ∃ t, exec cmd s = .next t ∧ DrainsTo t n i .faulted ∧ (t.dev.core n).flags = c.flags ∧
          (t.dev.core n).reqs = left ∧ t.dev.net = ldel s.dev.net k ∧ SameMemories s t n))

/-- R284, R310, R330, R488, R489: a request whose timer expires leaves itself, with its tag and its vault request slot, in quarantine. A
read of an engine, the first time and where REISSUE is set, is sent again under the core's next free tag where a slot is free, and
a lookup's engine waits for that one; any other faults the access stream with HARNESS_TIMEOUT.
Model choices it rests on: log 16. -/
def Obligations.RequestTimersExpire : Prop :=
  ∀ (s : State) (n tag : Nat) (r : Req), s.dev.alive = true → n < 672 →
    let c := s.dev.core n
    let left : List Req := c.reqs.filter fun q => q.tag != tag
    let can : Bool := (r.cls == .rdReq || r.cls == .lookup) && decide (r.eng < 3) && !r.reissued &&
      tb (s.dev.regN (ra (pctlPg (s.dev.corePart n)) 0x208)) 2
    c.reqs.find? (fun q => q.tag == tag) = some r →
    (∀ j u, can = true → c.freeTag = some u → c.slotHold n r.bank = none → c.headJob r.eng = some j →
      c.awaits r = (r.cls == .lookup) →
      ∃ t q p, exec (.harnessRequestTimeout n tag) s = .next t ∧ (t.dev.core n).quarantine = c.quarantine ++ [r] ∧
        (t.dev.core n).reqs = left ++ [q] ∧ q.tag = u ∧ q.cls = r.cls ∧ q.eng = r.eng ∧ q.addr = r.addr ∧ q.line = r.line ∧
        q.reissued = true ∧ t.dev.net = s.dev.net ++ [p] ∧ p.cls = r.cls ∧ p.dst = r.dst ∧ p.addr = r.addr ∧
        p.len = r.len ∧ p.tag = u ∧ p.src = n ∧
        (t.dev.core n).headJob r.eng = some (if r.cls = .lookup then { j with wait := .lookup u } else j) ∧
        SameMemories s t n) ∧
    (∀ j, can = false → r.cls ≠ .flagOp → r.eng < 3 → c.headJob r.eng = some j →
      r.cls = .rdReq ∨ c.awaits r = true → j.kind ≠ .imem → c.a.st = .running → c.a.part = false →
      ∃ t a write, exec (.harnessRequestTimeout n tag) s = .next t ∧ EngineFaults s t n r.eng 0x3D a write ∧
        (t.dev.core n).quarantine = c.quarantine ++ [r] ∧ (t.dev.core n).reqs = orphaned r.eng left ∧ t.dev.net = s.dev.net ∧
        SameWords s t n)

/-! The vaults and the critical words (R338 to R365). -/

/-- R340, R342, R344, R346, R350: a read a vault accepted that its bank may serve next completes with the words as they stood at
acceptance, here without an error, answering a remote requester RD_RSP, and letting a local engine go on; its row is open then, and
one that the bank may not serve yet waits; a write-back, in its bank's own cycle or in a free one, puts the corrected word into its
place and nowhere else; a refresh closes its bank's row where the tier has power. The scratchpad stays.
Model choices it rests on: logs 6 and 21. -/
def Obligations.VaultsCompleteTheirAccesses : Prop :=
  ∀ (s : State) (n : Nat), s.dev.alive = true → (s.dev.pod (podOf n)).gated = false → (s.dev.pod (podOf n)).off = false →
    let v := (s.dev.core n).vault
    let c := s.dev.core n
    (∀ k a noise, v.pend[k]? = some a → v.serves k a = false → exec (.vaultAccessDone n k noise) s = .next s) ∧
    (∀ k a, v.pend[k]? = some a → v.serves k a = true → (∀ w ∈ a.raw, w.find = .clean) →
      (∀ src epoch tag, a.who = .remote src epoch tag →
        ∃ t r, exec (.vaultAccessDone n k []) s = .next t ∧ t.dev.net = s.dev.net ++ [r] ∧ r.cls = .rdRsp ∧ r.dst = src ∧
          r.src = n ∧ r.epoch = epoch ∧ r.tag = tag ∧ r.data = a.raw.map MWord.value ∧
          (t.dev.core n).vault = v.served k a ∧ (t.dev.core n).sp = c.sp ∧
          ∀ m, m ≠ n → t.dev.core m = s.dev.core m) ∧
      (∀ eng j m addr len info tag, a.who = .local eng → eng < 3 → c.headJob eng = some j →
        let h : Job := { j with
          staged := j.staged ++ ((a.raw.map MWord.value).zip (upFrom 0 a.raw.length)).map fun q =>
            (a.kind, a.gaddr + 8 * q.2, q.1) }
        ReadsFar ((s.dev.modVault n fun v => v.served k a).modJob n eng fun _ => h) n eng h m addr len info tag →
        ∃ t, exec (.vaultAccessDone n k []) s = .next t ∧ AsksFar s t n eng h s.dev.net m addr len info tag ∧
          (t.dev.core n).vault = v.served k a ∧ (t.dev.core n).sp = c.sp)) ∧
    (∀ i r rest, v.wb = (i, r) :: rest →
      ∃ t, exec (.vaultWriteback n) s = .next t ∧ (t.dev.core n).vPeek i = r.value ∧
        (∀ j, j ≠ i → (t.dev.core n).vPeek j = c.vPeek j) ∧ (∀ q, q ∈ (t.dev.core n).vault.wb ↔ q ∈ rest ∧ q.1 ≠ i) ∧
        (t.dev.core n).sp = c.sp ∧ t.dev.regs = s.dev.regs ∧ SameElsewhere s t n) ∧
    (∀ b i r, v.wb.find? (fun q => bankOf (8 * q.1) == b) = some (i, r) →
      ∃ t, exec (.vaultBankBackground n b) s = .next t ∧ (t.dev.core n).vPeek i = r.value ∧
        (∀ j, j ≠ i → (t.dev.core n).vPeek j = c.vPeek j) ∧
        (t.dev.core n).sp = c.sp ∧ t.dev.regs = s.dev.regs ∧ SameElsewhere s t n) ∧
    (∀ b, n < 672 → b < 64 → s.dev.power.tierOff.getLsbD (2 * quarterOf n + b / 32) = false →
      ∃ t, exec (.refreshCmd n b) s = .next t ∧ mget (fun _ => 0) (t.dev.core n).vault.openRow b = 0 ∧
        (t.dev.core n).vault.mem = v.mem ∧ (t.dev.core n).sp = c.sp ∧ t.dev.regs = s.dev.regs ∧ SameElsewhere s t n) ∧
    (∀ b, s.dev.power.tierOff.getLsbD (2 * quarterOf n + b / 32) = true → exec (.refreshCmd n b) s = .next s)

/-- R353, R357, R364: the scrubber of a vault, enabled, reads its next 256 B unit, and with clean words passes to the unit behind
it and changes nothing else; the end of a retirement window clears the error counts of its quarter's vaults alone; arming
VC_FLIP_CHK of a vault the writer may touch sets its masks and keeps an ARM that is set, and is refused where the vault's core
belongs to the other port's partition. -/
def Obligations.VaultsAreScrubbedAndCounted : Prop :=
  ∀ (s : State), s.dev.alive = true →
    (∀ n noise, (s.dev.pod (podOf n)).gated = false → (s.dev.pod (podOf n)).off = false →
      let v := (s.dev.core n).vault
      let i := v.scrubPos
      tb (s.dev.regN (ra (vqPg (quarterOf n)) 0x180)) 31 = true → v.wiping = false → v.selfRefresh = false →
      v.scrubAt i = i → i + 1 < vaultUnits → s.dev.power.tierOff.getLsbD (qtOf n (256 * i)) = false →
      s.dev.power.clearing.getLsbD (qtOf n (256 * i)) = false →
      (∀ w ∈ upFrom (32 * i) 32, (mget noWord v.mem w).find = .clean) → noise = [] →
      ∃ t, exec (.vaultScrub n noise) s = .next t ∧ (t.dev.core n).vault.scrubPos = i + 1 ∧
        (t.dev.core n).vault.mem = v.mem ∧ (t.dev.core n).vault.wb = v.wb ∧ (t.dev.core n).sp = (s.dev.core n).sp ∧
        t.dev.regs = s.dev.regs ∧ SameElsewhere s t n) ∧
    (∀ q, q < 4 → ∃ t, exec (.retWindowEnd q) s = .next t ∧
      (∀ n, quarterOf n = q → t.dev.core n =
        { s.dev.core n with vault := { (s.dev.core n).vault with ue := [0, 0, 0, 0], ce := [0, 0, 0, 0] } }) ∧
      (∀ n, quarterOf n ≠ q → t.dev.core n = s.dev.core n) ∧ t.dev.regs = s.dev.regs ∧ t.dev.net = s.dev.net) ∧
    (∀ w q v, q < 4 → Reaches s w (vqPg q) →
      let n := s.dev.windowCore w q
      (s.dev.windowDenied w n = false →
        ∃ t, exec (.vcFlipArm w q v) s = .next t ∧
          (∀ b, b < 32 → (t.dev.reg (vra n 0x138)).getLsbD b =
            if b = 31 then v.getLsbD 31 || (s.dev.reg (vra n 0x138)).getLsbD 31 else decide (b < 16) && v.getLsbD b) ∧
          (∀ key, key ≠ vra n 0x138 → t.dev.reg key = s.dev.reg key) ∧ t.dev.cores = s.dev.cores) ∧
      (s.dev.windowDenied w n = true →
        ∃ t, exec (.vcFlipArm w q v) s = .next t ∧ t.dev.reg (vra n 0x138) = s.dev.reg (vra n 0x138) ∧
          t.dev.cores = s.dev.cores ∧ EvtUp t (vqPg q) 6))

/-- R354, R355, R359, R360, R368: WIPE of a vault whose partition runs no stream begins, and its end leaves every word outside
retired pseudo-channels empty and the others as they stood; RETIRE retires a pseudo-channel, which stays retired; a tier that is
cleared reads zero in its quarter and nowhere else. A window write for a vault of the other port's partition is DENIED. -/
def Obligations.VaultsAreWipedRetiredAndCleared : Prop :=
  ∀ (s : State), s.dev.alive = true →
    (∀ w q, q < 4 → Reaches s w (vqPg q) →
      let n := s.dev.windowCore w q
      let res (t : State) : Nat := t.dev.regN (pra (writerPort w) (vqPg q) 0x10C)
      (s.dev.windowDenied w n = false → s.dev.partRuns (s.dev.corePart n) = false →
        (s.dev.core n).vault.wiping = false → (s.dev.core n).vault.selfRefresh = false →
        ∃ t, exec (.wipe w q) s = .next t ∧ res t = 0 ∧
          t.dev.core n = { s.dev.core n with vault := { (s.dev.core n).vault with wiping := true } } ∧ SameElsewhere s t n) ∧
      (∀ pc, pc < 4 → s.dev.windowDenied w n = false →
        ∃ t, exec (.retire w q pc) s = .next t ∧ res t = 0 ∧
          (∀ j, j < 4 → (t.dev.core n).vault.retired.getLsbD j =
            (decide (j = pc) || (s.dev.core n).vault.retired.getLsbD j)) ∧
          (t.dev.core n).vault.mem = (s.dev.core n).vault.mem ∧ (t.dev.core n).sp = (s.dev.core n).sp ∧
          ((s.dev.core n).vault.retired.getLsbD pc = false → EvtUp t (vqPg (quarterOf n)) 4) ∧ SameElsewhere s t n) ∧
      (∀ pc, s.dev.windowDenied w n = true →
        (∃ t, exec (.wipe w q) s = .next t ∧ res t = 1 ∧ t.dev.cores = s.dev.cores) ∧
        ∃ t, exec (.retire w q pc) s = .next t ∧ res t = 1 ∧ t.dev.cores = s.dev.cores)) ∧
    (∀ n, (s.dev.pod (podOf n)).gated = false → (s.dev.pod (podOf n)).off = false →
      (s.dev.core n).vault.wiping = true → (s.dev.core n).vault.pend = [] →
      ∃ t, exec (.wipeDone n) s = .next t ∧ (t.dev.core n).vault.wiping = false ∧
        (∀ i, (t.dev.core n).vPeek i =
          if (s.dev.core n).vault.retired.getLsbD (pcOf (8 * i)) then (s.dev.core n).vPeek i else ⟨0, false⟩) ∧
        (t.dev.core n).sp = (s.dev.core n).sp ∧ EvtUp t (vqPg (quarterOf n)) 7 ∧ SameElsewhere s t n) ∧
    (∀ q k, q < 4 → k < 2 → s.dev.power.clearing.getLsbD (2 * q + k) = true →
      ∃ t, exec (.tierClearDone q k) s = .next t ∧ EvtUp t (vqPg q) 9 ∧
        (∀ j, j < 8 → t.dev.power.clearing.getLsbD j = (s.dev.power.clearing.getLsbD j && j != 2 * q + k)) ∧
        (∀ n i, quarterOf n = q → (t.dev.core n).vPeek i =
          if i / 0x600000 = k then ⟨0, false⟩ else (s.dev.core n).vPeek i) ∧
        (∀ n, quarterOf n ≠ q → t.dev.core n = s.dev.core n) ∧ t.dev.net = s.dev.net)

/-- R361 to R363, R365: reads of a critical word go by the majority of its copies. A register read that reads words whose copies
disagree leaves the three copies of each equal to what their majority was, and records a repair, and so does the patrol, when on,
with every word; a flip armed with NOW inverts its mask's bits in one copy and disarms; without NOW it waits, and the next write of
that word stores one copy inverted.
Model choices it rests on: log 27. -/
def Obligations.CriticalWordsAreVotedAndRepaired : Prop :=
  ∀ (s : State), s.dev.alive = true → mwf critDefault s.dev.crit = true → (∀ p ∈ s.dev.crit, p.1 < 4 * 65536) →
    (tb (s.dev.regN (ra critPg 0x10C)) 31 = true →
      ∃ t, exec .critPatrol s = .next t ∧ (∀ c w, c < 4 → w < 65536 → t.dev.critR c w = s.dev.critR c w ∧
        (s.dev.crit.any (fun p => p.1 == c * 65536 + w) = true →
          (t.dev.tri c w).a = (t.dev.tri c w).b ∧ (t.dev.tri c w).b = (t.dev.tri c w).c)) ∧
        ((s.dev.crit.any fun p => p.2.odd.isSome) = true → EvtUp t critPg 0 ∧ tb (t.dev.regN (ra critPg 0x100)) 31 = true) ∧
        t.dev.cores = s.dev.cores ∧ t.dev.net = s.dev.net) ∧
    (∀ p (a : BitVec 24), a.toNat % 4 = 0 → isCounter a.toNat = false → (s.dev.port p).up = true →
      (s.dev.port p).settled = true → s.dev.visible p (a.toNat / 4096) = true →
      let keys := s.dev.gateKeys (.host p) (a.toNat / 4096)
      (keys.any fun k => (mget critDefault s.dev.crit k).odd.isSome) = true →
      ∃ t, exec (.autoincRead p a) s = .next t ∧
        (∀ k ∈ keys, let m := majority (mget critDefault s.dev.crit k); mget critDefault t.dev.crit k = ⟨m, m, m⟩) ∧
        EvtUp t critPg 0 ∧ tb (t.dev.regN (ra critPg 0x100)) 31 = true ∧ t.dev.cores = s.dev.cores) ∧
    (∀ w v, Reaches s w critPg →
      let x : Word := (v &&& 0xFF00FFFF#32) ||| (s.dev.reg (ra critPg 0x104) &&& 0x80000000#32)
      let c := if fld x.toNat 24 4 < 4 then fld x.toNat 24 4 else 0
      let i := fld x.toNat 0 16
      let m := s.dev.reg (ra critPg 0x108)
      let o := s.dev.tri c i
      (x.getLsbD 31 = true → x.getLsbD 30 = true → i < critWords c →
        ∃ t, exec (.critFlipArm w v) s = .next t ∧
          t.dev.tri c i = (match fld x.toNat 28 2 with
            | 1 => { o with b := o.b ^^^ m } | 2 => { o with c := o.c ^^^ m } | _ => { o with a := o.a ^^^ m }) ∧
          (t.dev.reg (ra critPg 0x104)).getLsbD 31 = false ∧ EvtUp t critPg 1 ∧ t.dev.cores = s.dev.cores ∧
          (∀ c' i', c' < 4 → i' < 65536 → (c' ≠ c ∨ i' ≠ i) → t.dev.tri c' i' = s.dev.tri c' i')) ∧
      (x.getLsbD 30 = false →
        ∃ t, exec (.critFlipArm w v) s = .next t ∧ t.dev.reg (ra critPg 0x104) = x ∧ t.dev.crit = s.dev.crit ∧
          t.dev.cores = s.dev.cores)) ∧
    (∀ c i v, c < 4 → i < 65536 →
      s.dev.regN (ra critPg 0x104) / 2 ^ 30 = 2 → fld (s.dev.regN (ra critPg 0x104)) 24 4 = c →
      fld (s.dev.regN (ra critPg 0x104)) 28 2 = 2 → fld (s.dev.regN (ra critPg 0x104)) 0 16 = i →
      (s.dev.critW c i v).tri c i = ⟨w32 v, w32 v, w32 v ^^^ s.dev.reg (ra critPg 0x108)⟩ ∧
      (s.dev.critW c i v).critR c i = (w32 v).toNat)

/-! Partitions, epochs and translations (R328, R428 to R437). -/

/-- R428 to R431: a PT_CMD that is refused changes nothing but its result, and raises REFUSED. A CREATE that is judged OK, over
pods that are on and settled and tiers that are on, leaves its entry READY for its port and columns, its cores owned by it and
reset with empty scratchpads, its table range allotted, its root 0 and its window 2^WBITS, no vault word changed, every other entry
as it was. A RELEASE judged OK leaves its entry FREE, its cores unowned, their scratchpads and their vaults outside retired
pseudo-channels empty.
Model choices it rests on: logs 31 and 41. -/
def Obligations.PartitionsAreCreatedAndReleased : Prop :=
  ∀ (s : State) (w : Writer) (v : Word), Reaches s w ptPg →
    let p := writerPort w
    let P := fld v.toNat 24 4
    let cmd : Instr := if fld v.toNat 28 4 = 1 then .create w v else .release w v
    ((s.dev.ptJudge p v.toNat).1 ≠ 0 →
      ∃ t, exec cmd s = .next t ∧ t.dev.regN (pra p ptPg 0x108) = (s.dev.ptJudge p v.toNat).1 ∧
        t.dev.crit = s.dev.crit ∧ t.dev.cores = s.dev.cores ∧ t.dev.bot = s.dev.bot ∧ t.dev.proc = s.dev.proc ∧
        EvtUp t ptPg 0) ∧
    (let col := fld v.toNat 20 4
      let k := fld v.toNat 16 4
      let arg := s.dev.regN (pra p ptPg 0x104)
      ∀ b, fld v.toNat 28 4 = 1 → s.dev.ptJudge p v.toNat = (0, b) → s.dev.power.tierOff = 0 →
      (∀ q, 7 * col ≤ q → q < 7 * (col + k) →
        (s.dev.pod q).off = false ∧ (s.dev.pod q).held = false ∧ (s.dev.pod q).recent = false) →
      ∃ t, exec cmd s = .next t ∧ t.dev.regN (pra p ptPg 0x108) = 0 ∧ t.dev.ptState P = 2 ∧ t.dev.ptPort P = p ∧
        t.dev.ptCols P = (col, k) ∧ t.dev.botRange P = (b, fld arg 0 18) ∧ t.dev.xlRoot P = 0 ∧
        t.dev.window P = 2 ^ fld arg 18 6 ∧ t.dev.proc = none ∧ EvtUp t ptPg 2 ∧
        (∀ i, b ≤ i → i < b + fld arg 0 18 → t.dev.botEntry i = 0) ∧
        (∀ n ∈ t.dev.coresOf P, t.dev.corePart n = P ∧ CoreReset s t n ∧ (∀ i, (t.dev.core n).spPeek i = ⟨0, false⟩) ∧
          (t.dev.core n).vault.mem = (s.dev.core n).vault.mem) ∧
        (∀ Q, Q < 12 → Q ≠ P → t.dev.ptEntry Q = s.dev.ptEntry Q)) ∧
    (∀ b, fld v.toNat 28 4 = 2 → s.dev.ptJudge p v.toNat = (0, b) → (s.dev.part P).hang = none →
      ∃ t, exec cmd s = .next t ∧ t.dev.regN (pra p ptPg 0x108) = 0 ∧ t.dev.ptState P = 0 ∧ t.dev.proc = none ∧
        EvtUp t ptPg 1 ∧ t.dev.botRange P = (0, 0) ∧
        (∀ n ∈ s.dev.coresOf P, t.dev.corePart n = 15 ∧ (t.dev.core n).x.st = .idle ∧ (t.dev.core n).a.st = .idle ∧
          (∀ i, (t.dev.core n).spPeek i = ⟨0, false⟩) ∧
          (∀ i, (t.dev.core n).vault.retired.getLsbD (pcOf (8 * i)) = false → (t.dev.core n).vPeek i = ⟨0, false⟩)) ∧
        (∀ Q, Q < 12 → Q ≠ P → t.dev.ptEntry Q = s.dev.ptEntry Q))

/-- R328, R432, R437: a port reset, with no procedure running and no hang recovery of the port's partitions, disables the port's
apertures and window, takes its link down but for an FLR, and leaves every READY partition of the port FREE, the other port's as
they were. The end of a pod's hold advances its epoch and releases it, and lets a waiting creation become READY. An XL_INV with GO
drops every cached page that overlaps its range from the cores of its partition, and XL_INV_DONE reports it.
Model choices it rests on: logs 31 and 41. -/
def Obligations.PortsResetEpochsAndInvalidations : Prop :=
  ∀ (s : State), s.dev.alive = true →
    (∀ p cause, s.dev.proc = none → s.dev.releaseQ = [] →
      (∀ P, P < 12 → s.dev.ptPort P = p → (s.dev.part P).hang = none) →
      ∃ t, exec (.portReset p cause) s = .next t ∧
        (t.dev.port p).up = ((s.dev.port p).up && decide (cause = 0)) ∧
        (∀ i, i < 16 → tb (t.dev.regN (ra (pciePg p) (0x110 + 4 * i))) 31 = false) ∧
        tb (t.dev.regN (ra (pciePg p) 0x104)) 0 = false ∧
        (∀ P, P < 12 → s.dev.ptPort P = p → s.dev.ptState P = 2 → t.dev.ptState P = 0) ∧
        (∀ P, P < 12 → s.dev.ptPort P ≠ p → t.dev.ptEntry P = s.dev.ptEntry P)) ∧
    (∀ pod, (s.dev.pod pod).held = false →
      ∃ t, exec (.epochHoldEnd pod) s = .next t ∧ t.dev.pod pod = { s.dev.pod pod with recent := false } ∧
        (∀ q, q ≠ pod → t.dev.pod q = s.dev.pod q) ∧ t.dev.cores = s.dev.cores ∧ t.dev.regs = s.dev.regs) ∧
    (∀ pod, (s.dev.pod pod).held = true → s.dev.proc = none → s.dev.releaseQ = [] →
      ∃ t, exec (.epochHoldEnd pod) s = .next t ∧ (t.dev.pod pod).held = false ∧
        (t.dev.pod pod).epoch = ((s.dev.pod pod).epoch + 1) % 16 ∧ (∀ q, q ≠ pod → t.dev.pod q = s.dev.pod q) ∧
        t.dev.cores = s.dev.cores) ∧
    (∀ pod pr, (s.dev.pod pod).held = true → s.dev.proc = some pr → pr.op = 1 → pr.part < 12 → s.dev.releaseQ = [] →
      (∀ q ∈ s.dev.podsOf pr.part, q ≠ pod → (s.dev.pod q).held = false) →
      ∃ t, exec (.epochHoldEnd pod) s = .next t ∧ t.dev.ptState pr.part = 2 ∧ t.dev.proc = none ∧ EvtUp t ptPg 2) ∧
    (∀ w P v, P < 12 → Reaches s w (pctlPg P) → v.getLsbD 31 = true → (s.dev.part P).invRange = none →
      let r := s.dev.invSpan P v
      ∃ t, exec (.xlInv w P v) s = .next t ∧ (t.dev.part P).invRange = some r ∧
        (∀ n ∈ s.dev.coresOf P, (t.dev.core n).xl = (s.dev.core n).xl.filter fun e =>
          e.glb || !(decide (e.base < r.2) && decide (r.1 < e.base + e.size))) ∧
        (∀ n, n ∉ s.dev.coresOf P → t.dev.core n = s.dev.core n) ∧ t.dev.net = s.dev.net) ∧
    (∀ P r, P < 12 → (s.dev.part P).invRange = some r →
      ∃ t, exec (.xlInvDone P) s = .next t ∧ (t.dev.part P).invRange = none ∧ EvtUp t (pctlPg P) 1 ∧
        t.dev.cores = s.dev.cores)

/-! Power (R37 to R39, R332, R333, R507 to R520, R527). -/

/-- R332 to R334, R515, R516: a running stream that waited past the threshold becomes lendable, unless what it waited for is there; a
stream of a lent core that is able to issue asks for its share back, and none else; its confirmation ends the loan; the end of a
gating span lets the pod's clocks run.
Model choices it rests on: logs 30 and 31. -/
def Obligations.SharesAreLentAndReturned : Prop :=
  ∀ (s : State), s.dev.alive = true →
    (∀ n i, ((s.dev.core n).strm i).st = .running → ((s.dev.core n).strm i).waiting = true →
      ((s.dev.core n).waitOver i = false →
        ∃ t, exec (.lendThreshold n i) s = .next t ∧ ((t.dev.core n).strm i).lendable = true ∧ OnlyStream s t n i) ∧
      ((s.dev.core n).waitOver i = true → exec (.lendThreshold n i) s = .next s)) ∧
    (∀ n, n < 672 → (∀ i, (s.dev.core n).ableToIssue i = false) → exec (.reclaim n) s = .next s) ∧
    (∀ n i, n < 672 → s.dev.shareLent n = true → (s.dev.core n).ableToIssue i = true →
      ∃ t, exec (.reclaim n) s = .next t ∧ (t.dev.pod (podOf n)).reclaiming.getLsbD (n % 8) = true ∧
        (∀ k, k < 8 → k ≠ n % 8 → (t.dev.pod (podOf n)).reclaiming.getLsbD k = (s.dev.pod (podOf n)).reclaiming.getLsbD k) ∧
        (∀ q, q ≠ podOf n → t.dev.pod q = s.dev.pod q) ∧ t.dev.cores = s.dev.cores ∧ t.dev.regs = s.dev.regs) ∧
    (∀ n, n < 672 → (s.dev.pod (podOf n)).reclaiming.getLsbD (n % 8) = true →
      ∃ t, exec (.reclaimConfirm n) s = .next t ∧ t.dev.shareLent n = false ∧
        (t.dev.pod (podOf n)).reclaiming.getLsbD (n % 8) = false ∧ EvtUp t (podPg (podOf n)) 0 ∧ t.dev.cores = s.dev.cores) ∧
    (∀ p, ∃ t, exec (.gateSpanEnd p) s = .next t ∧ t.dev.pod p = { s.dev.pod p with gated := false } ∧
      (∀ q, q ≠ p → t.dev.pod q = s.dev.pod q) ∧ t.dev.cores = s.dev.cores ∧ t.dev.regs = s.dev.regs)

/-- R507, R509, R511, R513, R519, R520: a power interval stores its readings; a reading at its sensor's trip point stops the part
with THERMTRIP; otherwise a hot pod's thermal step rises by one, to 8 at most, the correction follows the package reading, the
target is 97 % of the profile less the correction, and every powered pod runs at a step from its thermal step to 8, gated only at
step 8.
Model choices it rests on: logs 30 and 31. -/
def Obligations.PowerIntervalsHoldTheBudget : Prop :=
  ∀ (s : State) (temps : List (Nat × BitVec 16)) (pkg : BitVec 16) (used : List (Nat × Nat)), s.dev.alive = true →
    (temps.map (·.1)).Nodup →
    ∃ t, exec (.powerInterval temps pkg used) s = .next t ∧
      (∀ r ∈ temps, r.1 < 96 → t.dev.reg (sensorKey r.1) = w32 r.2.toNat) ∧
      ((∃ r ∈ temps, r.1 < 96 ∧ (if r.1 < 88 then 115 * 64 else 105 * 64 : Int) ≤ sfld r.2.toNat 0 16) →
        t.dev.tripped = true ∧ t.dev.out.getLast? = some .thermtrip) ∧
      (t.dev.tripped = false →
        let prof := profileNw s.dev.profileAsked
        t.dev.power.pkg = pkg.toNat ∧ t.dev.power.profile = s.dev.profileAsked ∧
        t.dev.power.corr = (if prof < 125000000 * pkg.toNat then min (s.dev.power.corr + 1000000000) 100000000000
          else s.dev.power.corr - 100000000) ∧
        t.dev.power.target = 97 * prof / 100 - t.dev.power.corr ∧
        ∀ p, p < 84 →
          (t.dev.podHot p = true → (t.dev.pod p).therm = min 8 ((s.dev.pod p).therm + 1)) ∧
          (t.dev.podHot p = false → t.dev.podCool p = false → (t.dev.pod p).therm = (s.dev.pod p).therm) ∧
          ((t.dev.pod p).off = false → min 8 (t.dev.pod p).therm ≤ (t.dev.pod p).step ∧ (t.dev.pod p).step ≤ 8 ∧
            (0 < (t.dev.pod p).gate → (t.dev.pod p).step = 8)))

/-- R37, R39, R507, R517, R527: a PM_PROFILE write asks for its profile, but on a part with fuse F4 one for 600 W is refused and asks
for 450 W; PWR_CAP_N low, where its function is enabled, asks for 300 W; PIN_FN_EN takes its bits; a PM_DOM_CMD switches a valid
domain on, switches an idle one off, leaves a busy one on with STATE, and refuses an invalid one, changing no other domain.
Model choices it rests on: logs 30 and 31. -/
def Obligations.PowerCommandsAct : Prop :=
  ∀ (s : State), s.dev.alive = true →
    (∀ w v, Reaches s w mgmtPg → s.dev.locked mgmtPg = false →
      let refused : Bool := s.sec.sensed.f4 && v.toNat % 4 == 0
      (∃ t, exec (.pmProfile w v) s = .next t ∧ t.dev.regN (ra mgmtPg 0x100) % 4 = (if refused then 1 else v.toNat % 4) ∧
        t.dev.regN (pra (writerPort w) mgmtPg 0x104) = (if refused then 4 else 0) ∧ (refused = true → EvtUp t mgmtPg 0) ∧
        t.dev.cores = s.dev.cores ∧ t.sec = s.sec) ∧
      (∃ t, exec (.pinFnEn w v) s = .next t ∧ t.dev.reg (ra mgmtPg 0x600) = (v &&& 0x7E#32) ∧ t.dev.cores = s.dev.cores)) ∧
    (∀ level, ∃ t, exec (.pwrCapN level) s = .next t ∧ t.dev.power = { s.dev.power with capLow := !level } ∧
      (s.dev.pinEn 1 = true → level = false → t.dev.profileAsked = 2 ∧ (s.dev.power.capLow = false → EvtUp t mgmtPg 6)) ∧
      (level = true → t.dev.profileAsked = min 2 (s.dev.regN (ra mgmtPg 0x100) % 4)) ∧ t.dev.cores = s.dev.cores) ∧
    (∀ w v, Reaches s w mgmtPg →
      let kind := fld v.toNat 24 4
      let i := fld v.toNat 0 8
      let res (t : State) : Nat := t.dev.regN (pra (writerPort w) mgmtPg 0x104)
      let others (t : State) : Prop := ∀ a b, domValid a b = true → (a ≠ kind ∨ b ≠ i) → t.dev.domIsOn a b = s.dev.domIsOn a b
      (fld v.toNat 28 4 = 1 → domValid kind i = true → s.dev.domDenied w kind i = false →
        ∃ t, exec (.domOn w v) s = .next t ∧ t.dev.domIsOn kind i = true ∧ res t = 0 ∧ others t) ∧
      (fld v.toNat 28 4 = 2 → domValid kind i = true → s.dev.domDenied w kind i = false → s.dev.domIdle kind i = true →
        ∃ t, exec (.domOff w v) s = .next t ∧ t.dev.domIsOn kind i = false ∧ res t = 0 ∧ others t) ∧
      (fld v.toNat 28 4 = 2 → domValid kind i = true → s.dev.domDenied w kind i = false → s.dev.domIsOn kind i = true →
        s.dev.domIdle kind i = false →
        ∃ t, exec (.domOff w v) s = .next t ∧ t.dev.domIsOn kind i = true ∧ res t = 3 ∧ EvtUp t mgmtPg 1 ∧ others t ∧
          t.dev.cores = s.dev.cores) ∧
      (domValid kind i = false →
        ∃ t, exec (.domOff w v) s = .next t ∧ res t = 2 ∧ t.dev.cores = s.dev.cores ∧ t.dev.podz = s.dev.podz ∧
          t.dev.power = s.dev.power))

/-! Hangs and resets (R490 to R500). -/

/-- R167, R492 to R500, R505: a stream watchdog that may count and expires either faults its stream at once with cause WDOG or, with
AUTO, asks for a hang recovery of the partition, but does neither once what the stream waits for is there; a recovery, here over settled pods with no procedure running, resets every core of the
partition, advances its epochs, keeps its memories where it writes no dump, and counts in HANG_SEQ; a dump's first word stands at
the dump area of each vault that can take it; HANG_CMD commands report their result, and a reset of a READY partition does the
same.
Model choices it rests on: log 32. -/
def Obligations.HangsAreRecovered : Prop :=
  ∀ (s : State), s.dev.alive = true →
    (∀ n i, n < 672 → s.dev.wdCounts n i = true → (s.dev.core n).waitOver i = true →
      exec (.streamWatchdog n i) s = .next s) ∧
    (∀ n i, n < 672 → s.dev.wdCounts n i = true → (s.dev.core n).waitOver i = false →
      let P := s.dev.corePart n
      let c := s.dev.core n
      (tb (s.dev.regN (ra (pctlPg P) 0x208)) 0 = true →
        ∃ t, exec (.streamWatchdog n i) s = .next t ∧ (t.dev.part P).hang = some { trigger := 1, core := n, strm := i } ∧
          EvtUp t (corePg n 0) (13 + sidN i) ∧ t.dev.cores = s.dev.cores) ∧
      (tb (s.dev.regN (ra (pctlPg P) 0x208)) 0 = false →
        ∃ t, exec (.streamWatchdog n i) s = .next t ∧ ((t.dev.core n).strm i).st = .faulted ∧
          EvtUp t (corePg n 0) (6 + sidN i) ∧ (t.dev.core n).strm (otherSid i) = (s.dev.core n).strm (otherSid i) ∧
          (((s.dev.core n).strm i).frec = none → tb (s.dev.regN (ra (corePg n 0) (0x600 + 0x20 * sidN i))) 31 = false →
            fld (t.dev.regN (ra (corePg n 0) (0x600 + 0x20 * sidN i))) 16 8 = 0x40 ∧
            tb (t.dev.regN (ra (corePg n 0) (0x600 + 0x20 * sidN i))) 31 = true) ∧
          (t.dev.core n).sp = (if i = .X then ((s.dev.vecFlush n none).core n).sp else c.sp) ∧
          (t.dev.core n).imemX = c.imemX ∧ (t.dev.core n).imemA = c.imemA ∧ (t.dev.core n).vault = c.vault)) ∧
    (∀ P h, P < 12 → (s.dev.part P).hang = some h → h.reset = false → PodsSettled s P → s.dev.proc = none →
      s.dev.releaseQ = [] →
      let after (t : State) : Prop := (t.dev.part P).hang = none ∧ EpochsAdvanced s t P ∧
        t.dev.regN (ra (pctlPg P) 0x230) = (s.dev.regN (ra (pctlPg P) 0x230) + 1) % 2 ^ 32 ∧
        ∀ n ∈ s.dev.coresOf P, CoreReset s t n ∧ (t.dev.core n).sp = (s.dev.core n).sp
      (s.dev.dumps P h.trigger = false →
        ∃ t, exec (.hangRecovery P) s = .next t ∧ after t ∧
          ∀ n ∈ s.dev.coresOf P, (t.dev.core n).vault.mem = (s.dev.core n).vault.mem) ∧
      (s.dev.dumps P h.trigger = true → s.dev.dumpWaits P = false →
        ∃ t, exec (.hangRecovery P) s = .next t ∧ after t ∧
          (s.dev.power.tierOff = 0 → s.dev.power.clearing = 0 → s.dev.power.ovwActive = 0 →
            ∀ n ∈ s.dev.coresOf P, s.dev.podGone (podOf n) = false → (s.dev.core n).vault.retired = 0 →
              (s.dev.core n).vault.wiping = false → (s.dev.core n).vault.selfRefresh = false → vUnarmed s.dev n →
              (t.dev.core n).vPeek (s.dev.dumpOfs P / 8) =
                ⟨w64 (0x504D5544 + 2 ^ 32 * ((s.dev.regN (ra (pctlPg P) 0x230) + 1) % 2 ^ 32)), false⟩))) ∧
    (∀ w P, P < 12 → Reaches s w (pctlPg P) →
      (∀ op, op = 1 ∨ op = 2 → s.dev.hangJudge P op ≠ 0 →
        ∃ t, exec (if op = 1 then .dumpReset w P else .reset w P) s = .next t ∧
          t.dev.regN (ra (pctlPg P) 0x224) = s.dev.hangJudge P op ∧ t.dev.cores = s.dev.cores ∧ t.dev.partz = s.dev.partz) ∧
      (∀ op, op = 1 ∨ op = 2 → s.dev.hangJudge P op = 0 → s.dev.dumps P (op + 1) = false → PodsSettled s P →
        s.dev.proc = none → s.dev.releaseQ = [] →
        ∃ t, exec (if op = 1 then .dumpReset w P else .reset w P) s = .next t ∧
          t.dev.regN (ra (pctlPg P) 0x224) = 0 ∧ EpochsAdvanced s t P ∧
          ∀ n ∈ s.dev.coresOf P, CoreReset s t n ∧ (t.dev.core n).sp = (s.dev.core n).sp ∧
            (t.dev.core n).vault.mem = (s.dev.core n).vault.mem))

/-! Link ports (R373 to R396). -/

/-- R373, R374, R377, R378, R394, R395, R414: a write of LNK_CTL with a new MODE puts a port no partition names into training, or
off, with no message and no connection left, and is refused where one names it; a training or retrain that ends brings the port
up on the widest aligned set of lanes that holds no lane retired here or at the peer, or leaves it down, and then what the retrain
held back leaves; a loss of lock counts for its lane, retires it at the threshold with AUTO, and retrains; LNK_RETIRE retires the
lanes named; a lane window's end clears its counts, and a lane over the symbol threshold is retired with AUTO, told without; a
replay sends the unacknowledged flits again, the sixteenth without progress retraining.
Model choices it rests on: logs 37 and 38. -/
def Obligations.LinkPortsTrainAndRetrain : Prop :=
  ∀ (s : State) (k : Nat), k < 8 → s.dev.alive = true →
    let l := s.dev.link k
    let pg := linkPg k
    let z := s.dev.lanesUp k
    let again := l.retry.map fun f => Out.flit k ({ f with ack := BitVec.ofNat 12 l.rxSeq } : Flit).seal
    (∀ w v, Reaches s w pg → s.dev.locked pg = false → v.toNat % 4 ≠ s.dev.linkMode k →
      (s.dev.portNamed k = false →
        ∃ t, exec (.modeChange w k v) s = .next t ∧ t.dev.linkMode k = v.toNat % 4 ∧
          (t.dev.link k).st = (if v.toNat % 4 = 0 then .down else .training) ∧ (t.dev.link k).conns = [] ∧
          (t.dev.link k).txq = [] ∧ (t.dev.link k).txf = [] ∧ (t.dev.link k).retry = [] ∧ (t.dev.link k).rx = [] ∧
          (t.dev.link k).retired = l.retired ∧
          (l.st = .up ∨ l.st = .retraining → EvtUp t pg 1) ∧ OtherLinks s t k) ∧
      (s.dev.portNamed k = true →
        ∃ t, exec (.modeChange w k v) s = .next t ∧ t.dev.link k = l ∧ t.dev.linkMode k = s.dev.linkMode k ∧
          EvtUp t pg 8 ∧ OtherLinks s t k)) ∧
    (l.st = .up → ∃ t, exec (.retrain k) s = .next t ∧ t.dev.link k = { l with st := .retraining, replays := 0 } ∧
      EvtUp t pg 2 ∧ OtherLinks s t k) ∧
    (∀ peer, l.st = .retraining →
      ∃ t, exec (.retrainDone k peer) s = .next t ∧ (t.dev.link k).st = (if (z peer).2 = 0 then .down else .up) ∧
        (t.dev.link k).active = BitVec.ofNat 8 (z peer).1 ∧ (t.dev.link k).width = popTo 8 (z peer).1 ∧
        ((z peer).2 = 0 → EvtUp t pg 1) ∧ OtherLinks s t k ∧
        ((z peer).2 ≠ 0 → s.dev.linkMode k = 1 → ∃ more, t.dev.out = s.dev.out ++ again ++ more) ∧
        ((z peer).2 ≠ 0 → s.dev.linkMode k ≠ 1 → l.paused = false →
          t.dev.out = s.dev.out ++ l.frames.map (fun f => Out.frame k f) ∧ (t.dev.link k).frames = [])) ∧
    (∀ sub peer, l.st = .training → s.dev.linkMode k ≠ 0 → s.dev.power.linkOff.getLsbD k = false → l.subUp = 0 →
      ∃ t, exec (.trainingDone k sub peer) s = .next t ∧ OtherLinks s t k ∧
        (if s.dev.linkMode k = 3 then (t.dev.link k).subUp.toNat = (z peer).2 &&& 2 ^ (sub % 2)
         else (t.dev.link k).st = (if (z peer).2 = 0 then .down else .up) ∧ (t.dev.link k).active = BitVec.ofNat 8 (z peer).1) ∧
        ((t.dev.link k).st = .up → EvtUp t pg 0)) ∧
    (∀ lane, lane < 8 → l.st = .up → l.active.getLsbD lane = true →
      let old := fld (s.dev.regN (ra pg 0x118)) (4 * lane) 4
      let c := min 15 (old + 1)
      let ctl := s.dev.regN (ra pg 0x10C)
      let hit : Prop := 0 < min 15 (fld ctl 8 8) ∧ c = min 15 (fld ctl 8 8) ∧ old < min 15 (fld ctl 8 8)
      ∃ t, exec (.lossOfLock k lane) s = .next t ∧ (t.dev.link k).st = .retraining ∧ EvtUp t pg 2 ∧
        fld (t.dev.regN (ra pg 0x118)) (4 * lane) 4 = c ∧ OtherLinks s t k ∧
        (hit → tb ctl 0 = true → (t.dev.link k).retired.getLsbD lane = true) ∧
        (hit → tb ctl 0 = false → (t.dev.link k).retired = l.retired ∧ EvtUp t pg 4) ∧
        (¬hit → (t.dev.link k).retired = l.retired)) ∧
    (∀ w v, Reaches s w pg →
      ∃ t, exec (.lnkRetire w k v) s = .next t ∧ OtherLinks s t k ∧
        (∀ i, i < 8 → (t.dev.link k).retired.getLsbD i = (l.retired.getLsbD i || v.getLsbD i)) ∧
        ((∃ i, i < 8 ∧ v.getLsbD i = true ∧ l.retired.getLsbD i = false) → EvtUp t pg 3 ∧
          (l.st = .up → (t.dev.link k).st = .retraining))) ∧
    (∀ syms lost,
      let thr := 1024 * s.dev.regN (ra pg 0x114)
      let bad (i : Nat) : Prop := i < 8 ∧ 0 < thr ∧ thr < lget 0 syms i ∧ l.retired.getLsbD i = false
      ∃ t, exec (.laneWindowEnd k syms lost) s = .next t ∧ t.dev.regN (ra pg 0x118) = 0 ∧ OtherLinks s t k ∧
        ((∀ i, ¬bad i) → t.dev.link k = l) ∧
        ∀ i, bad i → if tb (s.dev.regN (ra pg 0x10C)) 0 then
            (t.dev.link k).retired.getLsbD i = true ∧ EvtUp t pg 3 ∧ (l.st = .up → (t.dev.link k).st = .retraining)
          else t.dev.link k = l ∧ EvtUp t pg 4) ∧
    (s.dev.linkMode k = 1 → l.st = .up → l.retry ≠ [] →
      ∃ t, exec (.replayTimeout k) s = .next t ∧ (t.dev.link k).retry = l.retry ∧ again <+: t.dev.out.drop s.dev.out.length ∧
        (l.replays < 15 → t.dev.out = s.dev.out ++ again ∧ t.dev.link k = { l with replays := l.replays + 1 }) ∧
        (15 ≤ l.replays → (t.dev.link k).st = .retraining ∧ EvtUp t pg 2) ∧ OtherLinks s t k)

/-- R375 to R377, R379 to R386: a flit whose check fails is answered with a NAK and nothing else; the next one in sequence that
ends a good message puts it behind those received and is acknowledged by what then leaves; an idle flit frees what it acknowledges
and gives its credits. A frame addressed to a partition's rank, with the next PSN of an open connection, does the same and is
owed an acknowledgement; any other frame is dropped, and a pause frame holds the port's frames back. TACK and TNAK take what they
acknowledge off the connection, TNAK sending the rest again; owed acknowledgements leave at TACK_TIMER; RETRANSMIT sends a
packet again, five times in all, then CONNECTION_FAIL ends the connection and the collective that uses it; a RESYNC restarts both
numberings.
Model choices it rests on: logs 37, 38 and 59. -/
def Obligations.MessagesCrossLinksInOrder : Prop :=
  ∀ (s : State) (k : Nat), k < 8 → s.dev.alive = true →
    let l := s.dev.link k
    let pg := linkPg k
    (∀ f, s.dev.linkMode k = 1 → l.st = .up →
      let c := f.lvc.toNat
      let fs := (if c = 0 then l.asm0 else l.asm1) ++ [f]
      let l1 := l.acked f.ack
      (f.crcOk = false →
        ∃ t g, exec (.nativeFlit k f) s = .next t ∧ t.dev.out = s.dev.out ++ [.flit k g] ∧ g.nak = true ∧ g.ty = 1 ∧
          g.ack = BitVec.ofNat 12 l.rxSeq ∧ g.crcOk = true ∧ t.dev.link k = l.told ∧ OtherLinks s t k ∧ t.dev.cores = s.dev.cores) ∧
      (∀ m, f.crcOk = true → c ≤ 1 → f.ty = 0 → f.nak = false → f.seq.toNat = (l.rxSeq + 1) % 4096 → f.eom = true →
        l.stored c < (if c = 0 then 64 else 1024) → msgOf (fs.flatMap fun f => f.payload.take f.len.toNat) = some m →
        (∀ i g, fs[i]? = some g → g.som = (i == 0)) → isControl m.ty.toNat = (c == 0) →
        ∃ t fl, exec (.nativeFlit k f) s = .next t ∧ (t.dev.link k).rx = l.rx ++ [{ msg := m, flits := fs.length }] ∧
          (t.dev.link k).rxSeq = f.seq.toNat ∧ OtherLinks s t k ∧ t.dev.cores = s.dev.cores ∧
          t.dev.out = s.dev.out ++ fl ∧ fl ≠ [] ∧ ∀ o ∈ fl, ∃ g, o = .flit k g ∧ g.ack = f.seq) ∧
      (f.crcOk = true → c ≤ 1 → f.ty = 0 → f.nak = false → f.seq.toNat ≠ (l.rxSeq + 1) % 4096 →
        ∃ t, exec (.nativeFlit k f) s = .next t ∧ (t.dev.link k).rx = l.rx ∧ (t.dev.link k).rxSeq = l.rxSeq) ∧
      (f.crcOk = true → c ≤ 1 → f.ty = 1 → l.txf = [] → l.owes = false →
        (f.nak = false →
          ∃ t, exec (.nativeFlit k f) s = .next t ∧ t.dev.out = s.dev.out ∧
            t.dev.link k = { l1 with cr0 := l.cr0 + f.cr0.toNat, cr1 := l.cr1 + 4 * f.cr1.toNat }) ∧
        (f.nak = true → l1.retry ≠ [] → l1.replays < 15 →
          ∃ t, exec (.nativeFlit k f) s = .next t ∧ (t.dev.link k).retry = l1.retry ∧
            t.dev.out = s.dev.out ++ l1.retry.map fun g => .flit k ({ g with ack := BitVec.ofNat 12 l.rxSeq } : Flit).seal))) ∧
    (∀ f, s.dev.linkMode k = 2 → l.st = .up → f.sub = 0 →
      let prio := fld (s.dev.lnkCtl k) 6 3
      let sound : Prop := f.fcs.toNat = f.fcsOf ∧ f.bytes.length + 4 ≤ 9216
      (∀ P m c, sound → f.pfc prio = none → s.dev.frameFor k f = some (P, m) → m.ty ≠ 5 → m.ty ≠ 6 → m.ty ≠ 13 →
        l.conn P m.srank.toNat = some c → c.resync = false → s.dev.badWelt P m = false →
        (m.psn.toNat = c.rx → c.owed < 7 →
          ∃ t d, exec (.ethFrame k f) s = .next t ∧ (t.dev.link k).rx = l.rx ++ [{ msg := m, part := some P }] ∧
            (t.dev.link k).conn P m.srank.toNat = some d ∧ d.rx = (c.rx + 1) % 2 ^ 24 ∧ d.owed = c.owed + 1 ∧
            d.unacked = c.unacked ∧ OtherLinks s t k) ∧
        (m.psn.toNat ≠ c.rx → c.rx < 2 ^ 24 → ∃ t, exec (.ethFrame k f) s = .next t ∧ (t.dev.link k).rx = l.rx ∧ OtherLinks s t k)) ∧
      (¬sound ∨ (f.pfc prio = none ∧ s.dev.frameFor k f = none) ∨ ((f.pfc prio).isSome = true ∧ tb (s.dev.lnkCtl k) 5 = false) →
        ∃ t, exec (.ethFrame k f) s = .next t ∧ t.dev.links = s.dev.links ∧ EvtUp t pg 7) ∧
      (∀ time, sound → f.pfc prio = some (true, time) → tb (s.dev.lnkCtl k) 5 = true →
        ∃ t, exec (.ethFrame k f) s = .next t ∧ (t.dev.link k).paused = (time != 0) ∧ (t.dev.link k).rx = l.rx ∧ OtherLinks s t k)) ∧
    (∀ P x rest c, Heard s k P x rest → x.flits = 0 → l.conn P x.msg.srank.toNat = some c → l.st = .up → l.paused = false →
      let m := x.msg
      let peer := m.srank.toNat
      let left := c.unacked.filter fun u => !psnDone m.apsn.toNat u.1
      (m.ty = 5 → c.resync = false → m.ece = false → c.queue = [] → l.txq = [] →
        ∃ t d, exec (.tack k) s = .next t ∧ (t.dev.link k).rx = rest ∧ (t.dev.link k).conn P peer = some d ∧
          d.unacked = left ∧ d.wnd = (if left.length < c.unacked.length then min 256 (c.wnd + 1) else c.wnd)) ∧
      (m.ty = 6 → c.resync = false →
        ∃ t d, exec (.tnak k) s = .next t ∧ (t.dev.link k).rx = rest ∧ (t.dev.link k).conn P peer = some d ∧
          d.unacked = left ∧ t.dev.out = s.dev.out ++ left.map (fun u => Out.frame k (s.dev.frameOf k P u.2.2)) ∧
          (left ≠ [] → c.halved = false → d.wnd = max 4 (c.wnd / 2))) ∧
      (m.ty = 13 → m.code = 0 →
        ∃ t d fr, exec (.resync k) s = .next t ∧ (t.dev.link k).conn P peer = some d ∧ d.rx = 0 ∧
          d.resync = false ∧ d.tx = d.unacked.length ∧
          t.dev.out = s.dev.out ++ .frame k (s.dev.frameOf k P (s.dev.resyncMsg P peer 1)) :: fr)) ∧
    (∀ P peer c, l.conn P peer = some c → peer < 4096 → l.st = .up → l.frames = [] →
      (0 < c.owed → ∃ t d r, exec (.tackTimer k peer P) s = .next t ∧ (t.dev.link k).conn P peer = some d ∧
        d.owed = 0 ∧ d.unacked = c.unacked ∧ t.dev.out = s.dev.out ++ [.frame k (s.dev.frameOf k P r)] ∧ r.ty = 5 ∧
        r.drank.toNat = peer ∧ r.apsn = BitVec.ofNat 24 ((c.rx + 2 ^ 24 - 1) % 2 ^ 24)) ∧
      (∀ psn n m, c.unacked.find? (fun u => u.1 == psn) = some (psn, n, m) → n < 5 →
        ∃ t d, exec (.retransmit k peer P psn) s = .next t ∧ (t.dev.link k).conn P peer = some d ∧
          d.unacked = c.unacked.map (fun u => if u.1 = psn then (psn, n + 1, m) else u) ∧
          t.dev.out = s.dev.out ++ [.frame k (s.dev.frameOf k P m)]) ∧
      (∀ u ∈ c.unacked, 5 ≤ u.2.1 → P < 12 →
        ∃ t, exec (.connectionFail k peer P) s = .next t ∧ EvtUp t pg 5 ∧
          ((s.dev.part P).runs = [] → (t.dev.link k).conn P peer = none) ∧
          (∀ r q q', (s.dev.part P).runs = [r] → r.started = true → r.entry < 32 →
            let v := (s.dev.part P).entry r.entry
            (s.dev.part P).sealing = false → ePort v = k → rankPos v (s.dev.rank P) = some q → rankPos v peer = some q' →
            (treeChildren (eCount v) q).elem q' = true → CollFailed t P r.entry 3 peer)))

/-- R378, R387 to R392: a core's request at a port that is up becomes a transport message of its kind to the rank it names, under
a request tag the port keeps; at one that retrains it waits, and at one that is down it is answered ABSENT. A request of another
part becomes a request of the Harness to the core it names, under a free tag of the port, for which it waits, and the Harness's
answer goes back as a message; a message that answers ends the core's request.
Model choices it rests on: logs 37 and 38. -/
def Obligations.RemoteAccessesCrossLinks : Prop :=
  ∀ (s : State) (k : Nat), k < 8 → s.dev.alive = true →
    let l := s.dev.link k
    (∀ idx u p, s.dev.arrived idx p.cls = some p → p.dst = epLink k → Lands s.dev u idx p.dst p →
      p.cls = .rdReq ∨ p.cls = .wrReq ∨ p.cls = .rwReq →
      let P := s.dev.corePart p.src
      let far := lget 0 p.info 0
      let able : Prop := P < 12 ∧ s.dev.rank P < s.dev.nranks P ∧ (s.dev.linkMode k = 1 → (s.dev.routeOf P far).isSome = true)
      (able → l.st = .up → s.dev.linkMode k ≠ 0 → far < 4096 →
        ∃ t m x, exec (.remoteAccess idx u) s = .next t ∧ t.dev.net = ldel s.dev.net idx ∧
          (t.dev.link k).waits = l.waits ++ [x] ∧ x.core = p.src ∧ x.tag = p.tag ∧ x.epoch = p.epoch ∧
          x.rtag = l.nextTag ∧ x.rank = far ∧ x.read = (p.cls == .rdReq) ∧ Carries t k m ∧
          m.ty = (if p.cls = .rdReq then 0 else if p.cls = .rwReq then 3 else 2) ∧
          m.drank.toNat = far ∧ m.rtag = BitVec.ofNat 16 l.nextTag ∧ OtherLinks s t k) ∧
      (able → l.st = .retraining → exec (.remoteAccess idx u) s = .next s) ∧
      (¬able ∨ l.st = .down ∨ l.st = .training →
        ∃ t, exec (.remoteAccess idx u) s = .next t ∧ t.dev.net = ldel s.dev.net idx ++ answers p .err 1 ∧
          t.dev.links = s.dev.links)) ∧
    (∀ P x rest, Heard s k P x rest →
      let m := x.msg
      let a := m.addr.toNat
      let n := (s.dev.ptCores P).1 + fld a 38 10 % (s.dev.ptCores P).2
      let o := if tb a 37 then fld a 0 27 % 2 ^ 20 else fld a 0 27
      let ad := if tb a 37 then spadAddr n o else vaultAddr n o
      (∀ ty, m.ty.toNat = ty → ty = 0 ∨ ty = 2 ∨ ty = 3 →
        let cmd : Instr := if ty = 0 then .transportRdReq k else if ty = 2 then .transportWr k else .transportRw k
        (lowTag l.tags.elem = none → exec cmd s = .next s) ∧
        (∀ tg, lowTag l.tags.elem = some tg →
          ∃ t p, exec cmd s = .next t ∧ t.dev.net = s.dev.net ++ [p] ∧
            p.cls = (if ty = 0 then .rdReq else if ty = 2 then .wrReq else .rwReq) ∧ p.dst = n ∧ p.src = epLink k ∧ p.tag = tg ∧
            p.addr = ad ∧ p.len = m.len ∧
            (ty ≠ 0 → p.op = m.op.toNat ∧ p.mark = m.mark ∧ p.writes = payloadWrites ad m.len m.words) ∧
            (t.dev.link k).rx = rest ∧ (t.dev.link k).tags = l.tags ++ [tg] ∧
            ∃ y, (t.dev.link k).serves = l.serves ++ [y] ∧ y.tag = tg ∧ y.rtag = m.rtag.toNat ∧ y.rank = m.srank.toNat)) ∧
      (∀ ty w, m.ty.toNat = ty → ty = 1 ∨ ty = 4 →
        l.waits.find? (fun w => w.rtag == m.rtag.toNat && w.read == (ty == 1) && w.rank == m.srank.toNat) = some w →
        ∃ t r, exec (if ty = 1 then .transportRdRsp k else .done k) s = .next t ∧ t.dev.net = s.dev.net ++ [r] ∧
          r.dst = w.core ∧ r.tag = w.tag ∧ r.epoch = w.epoch ∧ r.vc = 2 ∧
          (if m.code ≠ 0 then r.cls = .err ∧ r.code = 1
           else r.cls = (if ty = 1 then .rdRsp else .wrAck) ∧ (ty = 1 → r.data = m.words)) ∧
          (∀ y, y ∈ (t.dev.link k).waits ↔ y ∈ l.waits ∧ y.rtag ≠ w.rtag))) ∧
    (∀ idx u p v, s.dev.arrived idx .rdRsp = some p → p.dst = epLink k → NoUpset u → Lands s.dev u idx p.dst p → s.dev.linkMode k ≠ 0 →
      (∀ Q, Q < 12 → (s.dev.part Q).runs = []) →
      l.serves.find? (fun y => y.tag == p.tag) = some v → v.read = true →
      ∃ t m, exec (.rdRsp idx u) s = .next t ∧ t.dev.net = ldel s.dev.net idx ∧ Carries t k m ∧ m.ty = 1 ∧
        m.rtag = BitVec.ofNat 16 v.rtag ∧ m.words = p.data ∧ m.code = 0 ∧ (t.dev.link k).tags.elem p.tag = false ∧
        (t.dev.link k).serves.all (fun y => y.tag != p.tag) = true)

/-! Collectives (R397 to R408). -/

/-- R397, R399 to R403, R416: a commit reports BUSY, INVALID or OK, and only OK writes the entry; a trigger word equal to
SEQ starts the entry's instance, another leaves it; data and credits for an instance that has not started are kept for it; the
last child's only segment at the root of a REDUCE is added to the root's own data and written to the entry's core in WR_REQs, and
a result check that fails twice fails the instance; NET registers stay while a collective runs.
Model choices it rests on: logs 28 and 29. -/
def Obligations.CollectivesStartAndReduce : Prop :=
  ∀ (s : State) (P : Nat), P < 12 → s.dev.alive = true →
    let pt := s.dev.part P
    (∀ w v, Reaches s w (netPg P) → s.dev.regN (ra (netPg P) 0x128) % 16 = 15 →
      let e := fld (s.dev.regN (ra (netPg P) 0x128)) 4 5
      let st (j : Nat) : Word := if j = 15 then v else mget (fun _ => 0#32) pt.coll (16 * e + j)
      let num := (upFrom 0 16).foldr (fun j acc => (st j).toNat + 2 ^ 32 * acc) 0
      let r := s.dev.collJudge P e num
      ∃ t, exec (.collCommit w P v) s = .next t ∧ t.dev.regN (ra (netPg P) 0x130) = r ∧ t.dev.cores = s.dev.cores ∧
        (r = 0 → ∀ j, j < 16 → (t.dev.part P).collWord e j = (st j).toNat) ∧
        (r = 1 → ∀ j, j < 16 → (t.dev.part P).collWord e j = pt.collWord e j) ∧
        (r = 2 → (t.dev.part P).entry e % 2 = 0 ∧ ∀ j, 0 < j → j < 16 → (t.dev.part P).collWord e j = pt.collWord e j) ∧
        ∀ f j, f < 32 → f ≠ e → j < 16 → (t.dev.part P).collWord f j = pt.collWord f j) ∧
    (∀ e x r, e < 32 → tb (pt.entry e) 0 = true → s.dev.ptState P = 2 → pt.inst e = none →
      let v := pt.entry e
      s.dev.collRead (s.dev.eCore P v 187) false (fld v 197 27 / 4 * 4) 4 = some (x, r) →
      (∀ y, x = [y] → y.poison = true ∨ y.data.toNat ≠ eSeq v →
        ∃ t, exec (.triggerPoll P e) s = .next t ∧ (t.dev.part P).inst e = none ∧ t.dev.links = s.dev.links) ∧
      (∀ y q, x = [y] → y.poison = false → y.data.toNat = eSeq v → eKind v ≠ 2 → 0 < eElems v →
        rankPos v (s.dev.rank P) = some q → treeChildren (eCount v) q ≠ [] →
        ∃ t i, exec (.triggerPoll P e) s = .next t ∧ (t.dev.part P).inst e = some i ∧ i.started = true ∧ i.upSeg = 0 ∧
          t.dev.net = s.dev.net ∧ (∀ n, (t.dev.core n).sp = (s.dev.core n).sp))) ∧
    (∀ k x rest, Heard s k P x rest →
      let m := x.msg
      let e := msgEntry m
      let v := pt.entry e
      let a := m.addr.toNat
      let now := s.dev.instFor P e
      (∀ c q, m.ty = 7 → s.dev.badWelt P m = false → tb v 0 = true → s.dev.msgCurrent P m = true → now.started = false →
        rankPos v m.srank.toNat = some c → rankPos v (s.dev.rank P) = some q → tb a 42 = false →
        (treeChildren (eCount v) q).elem c = true → fld a 15 17 < segsOf (upElems v c) →
        ∃ t, exec (.collData k 0) s = .next t ∧ (t.dev.link k).rx = rest ∧ (t.dev.part P).inst e = some { now with
          recv := now.recv ++ [{ pos := c, seg := fld a 15 17, ofs := fld a 0 15, words := m.words, mark := m.mark, last := m.last }] }) ∧
      (∀ c q i slips, m.ty = 7 → s.dev.badWelt P m = false → tb v 0 = true → s.dev.msgCurrent P m = true → pt.inst e = some i →
        i.started = true → rankPos v m.srank.toNat = some c → rankPos v (s.dev.rank P) = some q → tb a 42 = false →
        (treeChildren (eCount v) q).elem c = true → fld a 15 17 < segsOf (upElems v c) → 2 ≤ slips →
        s.dev.segChecks P v q (fld a 15 17)
          (i.recv ++ [{ pos := c, seg := fld a 15 17, ofs := fld a 0 15, words := m.words, mark := m.mark, last := m.last }]) = true →
        ∃ t, exec (.collData k slips) s = .next t ∧ CollFailed t P e 4 (s.dev.rank P) ∧ EvtUp t (netPg P) 2 ∧
          EvtUp t (linkPg (ePort v)) 6) ∧
      (∀ slips, m.ty = 7 → s.dev.badWelt P m = true →
        ∃ t, exec (.collData k slips) s = .next t ∧ t.dev.partz = s.dev.partz ∧ EvtUp t (linkPg k) 6) ∧
      (∀ c i, m.ty = 7 → s.dev.badWelt P m = false → tb v 0 = true → s.dev.msgCurrent P m = true → pt.inst e = some i →
        i.started = true → i.upSeg = 0 → i.recv = [] → eKind v = 1 → segsOf (eElems v) = 1 → tb v 12 = false →
        rankPos v m.srank.toNat = some c → rankPos v (s.dev.rank P) = some 0 → treeChildren (eCount v) 0 = [c] →
        tb a 42 = false → fld a 15 17 = 0 → m.last = true → tb v 10 = true →
        let len := segBytes v (eElems v) 0
        let n := s.dev.eCore P v 96
        let src := eOfs v 133 true
        let own := sliceWords ((wordsAt src len).map (s.dev.core n).spPeek) (src % 8) len
        let z := addSegs (collOp v) own m.words
        let d := s.dev.eCore P v 106
        let base := if tb v 11 then spadAddr d 0 else vaultAddr d 0
        s.dev.podGone (podOf n) = false → (s.dev.core n).spHeld src len = false → s.dev.segRoom v 0 len = true →
        ∃ t ps j, exec (.collData k 0) s = .next t ∧ t.dev.net = s.dev.net ++ ps ∧
          (∀ p ∈ ps, p.cls = .wrReq ∧ p.dst = d ∧ p.src = epLink (ePort v) ∧ p.mark = (z.2 || m.mark)) ∧
          ps.map (fun p => (p.addr, p.len, p.writes)) = (blockItems 0 0 (payloadWrites (eOfs v 160 (tb v 11)) len z.1)).map
            (fun it => (base + it.span.1, it.span.2, it.moved (base + it.span.1))) ∧
          (t.dev.part P).inst e = some j ∧ j.upSeg = 1 ∧ j.unacked.length = i.unacked.length + ps.length) ∧
      (m.ty = 8 → tb v 0 = true → s.dev.msgCurrent P m = true → now.started = false →
        ∃ t, exec (.collCredit k) s = .next t ∧ (t.dev.link k).rx = rest ∧
          (t.dev.part P).inst e = some { now with granted := max now.granted (fld a 15 17) }) ∧
      (m.ty = 8 → s.dev.msgCurrent P m = false →
        ∃ t, exec (.collCredit k) s = .next t ∧ (t.dev.link k).rx = rest ∧ t.dev.partz = s.dev.partz)) ∧
    (∀ w i v, i < 3 → Reaches s w (netPg P) →
      let key := ra (netPg P) (0x100 + 4 * i)
      (pt.collRuns = true →
        ∃ t, exec (.netConfigWrite w P i v) s = .next t ∧ t.dev.reg key = s.dev.reg key ∧ EvtUp t (netPg P) 3) ∧
      (pt.collRuns = false → s.dev.locked (netPg P) = true →
        ∃ t, exec (.netConfigWrite w P i v) s = .next t ∧ t.dev.regs = s.dev.regs) ∧
      (pt.collRuns = false → s.dev.locked (netPg P) = false →
        ∃ t, exec (.netConfigWrite w P i v) s = .next t ∧
          t.dev.reg key = (v &&& if i = 0 then 0xFFFF0FFF#32 else if i = 1 then 0x1FFF#32 else 0x7FF#32) ∧
          (∀ x, x ≠ key → t.dev.reg x = s.dev.reg x) ∧ t.dev.partz = s.dev.partz))

/-- R242, R406 to R408: a probe of an instance is answered with the state after it; a state answer to the rank's probe names the one
that has not started or lost progress, failing the instance, or leads the probe on; a failure message ends the instance with its
reason; a collective watchdog probes the rank awaited; a VERDICT from a child is held until every child's is in, one from the
parent decides the open step, and one for another step fails the verdict, as does its own watchdog.
Model choices it rests on: logs 28 and 29. -/
def Obligations.CollectivesAreProbedAndDecided : Prop :=
  ∀ (s : State) (P : Nat), P < 12 → s.dev.alive = true →
    let pt := s.dev.part P
    (∀ k x rest, Heard s k P x rest →
      let m := x.msg
      let e := msgEntry m
      let v := pt.entry e
      let a := m.srank.toNat
      let b := fld m.addr.toNat 0 12
      (m.ty = 9 → s.dev.linkMode (ePort v) ≠ 0 →
        ∃ t r, exec (.collProbe k) s = .next t ∧ Carries t (ePort v) r ∧ r.ty = 10 ∧ r.drank = m.srank ∧
          t.dev.partz = s.dev.partz ∧
          (s.dev.msgCurrent P m = true → pt.runsEntry e = false → r.code = 0) ∧
          (∀ x sent, s.dev.msgCurrent P m = true → pt.runsEntry e = true → s.dev.collAwaits P e = some (x, sent) →
            r.code = (if sent then 2 else 1) ∧ r.addr.toNat % 2 ^ 32 = x % 2 ^ 32)) ∧
      (∀ i, m.ty = 10 → s.dev.msgCurrent P m = true → pt.inst e = some i → i.probing = some a →
        (m.code = 0 → ∃ t, exec (.collState k) s = .next t ∧ CollFailed t P e 1 a) ∧
        (m.code = 1 → (i.probed.elem b = true ∨ b = a) → ∃ t, exec (.collState k) s = .next t ∧ CollFailed t P e 2 a) ∧
        (m.code = 2 → (b = s.dev.rank P ∨ i.probed.elem b = true) → ∃ t, exec (.collState k) s = .next t ∧ CollFailed t P e 2 a) ∧
        ((m.code = 1 ∧ b ≠ a ∨ m.code = 2 ∧ b ≠ s.dev.rank P) → i.probed.elem b = false → s.dev.linkMode (ePort v) ≠ 0 →
          ∃ t j r, exec (.collState k) s = .next t ∧ (t.dev.part P).inst e = some j ∧ j.probing = some b ∧
            j.probed = i.probed ++ [b] ∧ Carries t (ePort v) r ∧ r.ty = 9 ∧ r.drank.toNat = b)) ∧
      (m.ty = 11 → tb v 0 = true → s.dev.msgCurrent P m = true →
        ∃ t, exec (.collFail k) s = .next t ∧ CollFailed t P e m.code.toNat b ∧
          (t.dev.part P).collWord e 7 = (pt.collWord e 7 + 1) % 2 ^ 32 ∧ t.dev.cores = s.dev.cores) ∧
      (m.ty = 12 → m.addr.toNat % 2 ^ 32 ≠ s.dev.lsOpen P →
        ∃ t, exec (.verdict k) s = .next t ∧ EvtUp t (netPg P) 1 ∧ (CritAgree s.dev (lsKeys P) → t.dev.crit = s.dev.crit) ∧
          t.dev.reg (ra (netPg P) 0x138) = w32 (2 ^ 31 + 6 * 2 ^ 22 + 2 ^ 21 + a)) ∧
      (∀ c, m.ty = 12 → m.addr.toNat % 2 ^ 32 = s.dev.lsOpen P →
        (treeChildren (s.dev.nranks P) (s.dev.rank P)).elem a = true →
        c ∈ treeChildren (s.dev.nranks P) (s.dev.rank P) → c ≠ a → pt.heldVerdicts.any (fun h => h.1 == c) = false →
        ∃ t, exec (.verdict k) s = .next t ∧ (a, m.mark) ∈ (t.dev.part P).heldVerdicts ∧
          (CritAgree s.dev (lsKeys P) → t.dev.crit = s.dev.crit)) ∧
      (m.ty = 12 → m.addr.toNat % 2 ^ 32 = s.dev.lsOpen P →
        (treeChildren (s.dev.nranks P) (s.dev.rank P)).elem a = false → s.dev.rank P ≠ 0 →
        a = treeParent (s.dev.rank P) → pt.sealing = true →
        ∃ t, exec (.verdict k) s = .next t ∧ t.dev.lsSealed P = s.dev.lsOpen P ∧ (t.dev.part P).sealing = false ∧
          (t.dev.part P).seals = [])) ∧
    (∀ e r sent i, e < 32 → s.dev.collAwaits P e = some (r, sent) → pt.inst e = some i → r < 4096 →
      s.dev.linkMode (ePort (pt.entry e)) ≠ 0 →
      ∃ t j m, exec (.collWatchdog P e) s = .next t ∧ (t.dev.part P).inst e = some j ∧ j.probing = some r ∧
        j.probed = [r] ∧ Carries t (ePort (pt.entry e)) m ∧ m.ty = 9 ∧ m.drank.toNat = r) ∧
    (∀ r, s.dev.verdictAwaits P = some r →
      ∃ t, exec (.collWatchdog P 32) s = .next t ∧ EvtUp t (netPg P) 1 ∧ t.dev.cores = s.dev.cores ∧
        t.dev.reg (ra (netPg P) 0x138) = w32 (2 ^ 31 + 2 * 2 ^ 22 + 2 ^ 21 + r))

/-! Registers and host ports (R5 to R18, R304, R314, R416 to R427, R442 to R446, R451, R453). -/

/-- R6, R8, R10 to R14, R17, R18, R422: of a page a writer reaches, a register with no behaviour of its own takes a write bit by bit
under its access code: W1C bits clear, RW bits and, unlocked, RWL bits are set, others stay, as does every other register; read-only
places of the common part stay. CNT_CLEAR leaves every counter of the page zero. A clear of events leaves those raised in its
cycle, a forced event stands, and an enabled event that a port newly sees is sent or marked pending there. LOCK locks its page
alone. A page the port does not see takes no write. -/
def Obligations.RegisterWritesFollowTheirCodes : Prop :=
  ∀ (s : State) (w : Writer) (pg o : Nat) (v : Word), pg < 4096 → o < 4096 → o % 4 = 0 →
    let a : BitVec 24 := BitVec.ofNat 24 (ra pg o)
    let onlyCounters (t : State) : Prop := ∃ c, t = { s with dev := { s.dev with ctrs := c } }
    (Reaches s w pg → ∀ k i, pageKind pg = some (k, i) →
      (∀ d, regDef k o = some d → o = 0x10 ∨ o = 0x1C ∨ (0x100 ≤ o ∧ (k = .vec ∨ k = .pod ∨ k = .pcie)) →
        ∃ t, exec (.registerWrite w a v) s = .next t ∧
          (∀ j, j < 32 → (t.dev.reg (ra pg o)).getLsbD j =
            if tb d.w1c j then (s.dev.reg (ra pg o)).getLsbD j && !v.getLsbD j
            else if tb d.rw j || (tb d.rwl j && !s.dev.locked pg) then v.getLsbD j else (s.dev.reg (ra pg o)).getLsbD j) ∧
          (∀ key, key ≠ ra pg o → t.dev.reg key = s.dev.reg key) ∧ t.dev.cores = s.dev.cores ∧ t.dev.crit = s.dev.crit ∧
          t.dev.locks = s.dev.locks ∧ t.sec = s.sec ∧
          (o = 0x10 → v.getLsbD 2 = true → ∀ c, c < 16 → t.dev.ctr (ctrAddr pg c) = 0)) ∧
      (o < 0x100 → o ∉ [0x10, 0x18, 0x1C, 0x20, 0x28] → ∃ t, exec (.registerWrite w a v) s = .next t ∧ onlyCounters t)) ∧
    (∀ p, s.dev.alive = true → (s.dev.port p).up = true → s.dev.visible p pg = false → CritAgree s.dev (s.dev.gateKeys (.host p) pg) →
      ∃ t, exec (.registerWrite (.host p) a v) s = .next t ∧ onlyCounters t) ∧
    (Reaches s w pg →
      let e := ra pg 0x18
      let pn : BitVec 12 := BitVec.ofNat 12 pg
      (∃ t, exec (.cntClear w pn) s = .next t ∧ (∀ c, c < 16 → t.dev.ctr (ctrAddr pg c) = 0) ∧ onlyCounters t) ∧
      (∀ mask raised, ∃ t, exec (.evtClear w pn mask raised) s = .next t ∧
        t.dev.reg e = ((s.dev.reg e &&& ~~~mask) ||| (raised &&& evtBits pg)) ∧
        (∀ key, key ≠ e → t.dev.reg key = s.dev.reg key) ∧ t.dev.cores = s.dev.cores) ∧
      (∀ mask, ∃ t, exec (.evtForce w pn mask) s = .next t ∧ t.dev.reg e = (s.dev.reg e ||| (mask &&& evtBits pg)) ∧
        (∀ key, key ≠ e → t.dev.reg key = s.dev.reg key) ∧ t.dev.cores = s.dev.cores ∧
        (∀ p, t.dev.vecCond p (vectorOf pg) = true → (s.dev.port p).cond.elem (vectorOf pg) = false →
          if s.dev.vecMasked p (vectorOf pg) then (t.dev.port p).pba.elem (vectorOf pg) = true
          else ∃ x y, .msix p (vectorOf pg) x y ∈ t.dev.out)) ∧
      (∃ t, exec (.lock w pn) s = .next t ∧ t.dev.locked pg = true ∧ (∀ q, q ≠ pg → t.dev.locked q = s.dev.locked q) ∧
        t.dev.regs = s.dev.regs ∧ t.dev.cores = s.dev.cores) ∧
      (∀ width write b, width ≠ 4 ∨ b % 4 ≠ 0 → b / 4096 = pg → b < 2 ^ 24 →
        ∃ t, exec (.misalignedAccess w (BitVec.ofNat 24 b) width write) s = .next t ∧ EvtUp t pg 31 ∧
          (∀ key, key ≠ e → t.dev.reg key = s.dev.reg key) ∧ t.dev.latch = s.dev.latch ∧ t.dev.cores = s.dev.cores ∧
          (∀ p, write = false → w = .host p →
            t.dev.out.getLast? = some (.bar0 p b (BitVec.allOnes 32)))))

/-- R9, R17, R304, R416, R422, R442: a read of a counter's low word gives it and latches the high word, which a read of the high word
then gives. A read of any other register gives its value and, at BOT_DATA_HI and NET_RT_DATA with AUTOINC, moves the index on; BLK_ID
gives type and instance; a page the port does not see reads as all ones. A write of an MSI-X table entry keeps the message; where it
unmasks a pending vector whose condition holds, it sends it.
Model choices it rests on: logs 26 and 43. -/
def Obligations.RegisterReadsAndVectors : Prop :=
  ∀ (s : State) (p : Port), s.dev.alive = true →
    (∀ pg o, pg < 4096 → o < 4096 → o % 4 = 0 →
      let a := ra pg o
      let cmd : Instr := if isCounter a then .counterLatch p (BitVec.ofNat 24 a) else .autoincRead p (BitVec.ofNat 24 a)
      (Reaches s (.host p) pg → isCounter a = true →
        ∃ t, exec cmd s = .next t ∧ t.dev.regs = s.dev.regs ∧ t.dev.cores = s.dev.cores ∧
          (o % 8 = 0 → t.dev.out = s.dev.out ++ [.bar0 p a (w32 (t.dev.ctr a))] ∧
            t.dev.latch = mset (fun _ => 0#32) s.dev.latch a (w32 (t.dev.ctr a / 2 ^ 32))) ∧
          (o % 8 = 4 → t.dev.out = s.dev.out ++ [.bar0 p a (mget (fun _ => 0#32) s.dev.latch (a - 4))] ∧
            t.dev.latch = s.dev.latch)) ∧
      (Reaches s (.host p) pg → isCounter a = false →
        ∃ t x, exec cmd s = .next t ∧ t.dev.out = s.dev.out ++ [.bar0 p a x] ∧ x = w32 (s.readReg p a) ∧
          t.dev.latch = s.dev.latch ∧ t.dev.cores = s.dev.cores ∧
          (∀ k i, pageKind pg = some (k, i) → o = 0 → x = w32 (typeCode k * 2 ^ 24 + instCode k i)) ∧
          (pg ≠ botPg → (∀ P, P < 12 → pg ≠ netPg P) → t.dev.regs = s.dev.regs) ∧
          (a = ra botPg 0x108 →
            let sel := s.dev.regN (pra p botPg 0x100)
            t.dev.regN (pra p botPg 0x100) % 2 ^ 17 = (if tb sel 27 then (sel + 1) % 2 ^ 17 else sel % 2 ^ 17) ∧
            (∀ e, s.dev.botTarget p = .ok e → x = w32 (s.dev.botEntry e / 2 ^ 32))) ∧
          (∀ P, P < 12 → a = ra (netPg P) 0x124 →
            let sel := s.dev.regN (ra (netPg P) 0x120)
            t.dev.regN (ra (netPg P) 0x120) % 4096 = (if tb sel 31 then (sel + 1) % 4096 else sel % 4096))) ∧
      ((s.dev.port p).up = true → (s.dev.port p).settled = true → s.dev.visible p pg = false →
        CritAgree s.dev (s.dev.gateKeys (.host p) pg) →
        ∃ t c, exec cmd s = .next t ∧
          t.dev = { s.dev with ctrs := c, out := s.dev.out ++ [.bar0 p a (BitVec.allOnes 32)] })) ∧
    (∀ v addr data mask, (s.dev.port p).up = true → v < 2048 →
      ∃ t, exec (.vectorUnmask p v addr data mask) s = .next t ∧
        mget msixDefault (t.dev.port p).msix (4 * v) = w32 addr.toNat ∧
        mget msixDefault (t.dev.port p).msix (4 * v + 1) = w32 (addr.toNat / 2 ^ 32) ∧
        mget msixDefault (t.dev.port p).msix (4 * v + 2) = data ∧ t.dev.vecMasked p v = mask ∧
        (∀ u, u ≠ v → ∀ j, j < 4 →
          mget msixDefault (t.dev.port p).msix (4 * u + j) = mget msixDefault (s.dev.port p).msix (4 * u + j)) ∧
        t.dev.regs = s.dev.regs ∧ t.dev.cores = s.dev.cores ∧
        (mask = true ∨ (s.dev.port p).pba.elem v = false ∨ s.dev.vecCond p v = false → t.dev.out = s.dev.out) ∧
        (mask = false → (t.dev.port p).pba.elem v = false) ∧
        (mask = false → (s.dev.port p).pba.elem v = true → s.dev.vecCond p v = true →
          t.dev.out = s.dev.out ++ [.msix p v addr data]))

/-- R6, R12, R14, R151 and the register tables: a write through BAR0 of a register that names a command does what that command
does, in every state and for every writer.
Model choices it rests on: logs 26 and 43. -/
def Obligations.CommandRegistersGiveTheirCommands : Prop :=
  ∀ (s : State) (w : Writer) (v : Word),
    let wr (pg o : Nat) : Host.Outcome State Fault Refusal := exec (.registerWrite w (BitVec.ofNat 24 (ra pg o)) v) s
    let n32 := v.toNat
    (∀ pg, pg < 4096 → wr pg 0x18 = exec (.evtClear w (BitVec.ofNat 12 pg) v 0) s ∧
      wr pg 0x20 = exec (.evtForce w (BitVec.ofNat 12 pg) v) s ∧
      (v.getLsbD 0 = true → wr pg 0x28 = exec (.lock w (BitVec.ofNat 12 pg)) s)) ∧
    (∀ n, n < 672 →
      (∀ x a, n32 % 256 = b2n x + 16 * b2n a → wr (corePg n 0) 0x100 = exec (.start w n x a) s) ∧
      (∀ x a, n32 % 256 = 2 * b2n x + 32 * b2n a → wr (corePg n 0) 0x100 = exec (.suspend w n x a) s) ∧
      (∀ x a, n32 % 256 = 3 * b2n x + 48 * b2n a → wr (corePg n 0) 0x100 = exec (.resume w n x a) s) ∧
      (∀ x a, n32 % 256 = 4 * b2n x + 64 * b2n a → wr (corePg n 0) 0x100 = exec (.abort w n x a) s) ∧
      wr (corePg n 0) 0x408 = exec (.imemLoad w n v) s ∧
      (∀ hi, wr (corePg n 0) (0x3C8 + 4 * b2n hi) = exec (.flagSet w n hi v) s ∧
        wr (corePg n 0) (0x3D0 + 4 * b2n hi) = exec (.flagClr w n hi v) s) ∧
      wr (corePg n 1) 0x200 = exec (.spCarveWrite w n v) s ∧ wr (corePg n 1) 0x228 = exec (.spFlipArm w n v) s ∧
      (v.getLsbD 0 = true → wr (corePg n 1) 0x20C = exec (.spWipe w n) s)) ∧
    (∀ P, P < 12 →
      wr (lsPg P) 0x118 = exec (.lsInit w P v) s ∧ (∀ i, i < 21 → wr (lsPg P) (0x140 + 4 * i) = exec (.lsPart w P i v) s) ∧
      (∀ r, r < 3 → wr (netPg P) (0x100 + 4 * r) = exec (.netConfigWrite w P r v) s) ∧
      (s.dev.regN (ra (netPg P) 0x128) % 16 = 15 → wr (netPg P) 0x12C = exec (.collCommit w P v) s) ∧
      wr (pctlPg P) 0x10C = exec (.xlInv w P v) s ∧
      (n32 / 2 ^ 28 = 1 → wr (pctlPg P) 0x220 = exec (.dumpReset w P) s) ∧
      (n32 / 2 ^ 28 = 2 → wr (pctlPg P) 0x220 = exec (.reset w P) s)) ∧
    (∀ q, q < 4 → (n32 % 16 = 1 → wr (vqPg q) 0x108 = exec (.wipe w q) s) ∧
      (∀ pc, pc < 4 → n32 % 64 = 2 + 16 * pc → wr (vqPg q) 0x108 = exec (.retire w q pc) s) ∧
      wr (vqPg q) 0x138 = exec (.vcFlipArm w q v) s) ∧
    (∀ k, k < 8 → wr (linkPg k) 0x100 = exec (.modeChange w k v) s ∧ wr (linkPg k) 0x108 = exec (.lnkRetire w k v) s) ∧
    wr ptPg 0x100 = exec (.create w v) s ∧ wr ptPg 0x100 = exec (.release w v) s ∧
    wr critPg 0x104 = exec (.critFlipArm w v) s ∧ wr botPg 0x104 = exec (.botDataLo w v) s ∧
    wr botPg 0x108 = exec (.botDataHi w v) s ∧ wr mgmtPg 0x100 = exec (.pmProfile w v) s ∧
    wr mgmtPg 0x114 = exec (.domOn w v) s ∧ wr mgmtPg 0x114 = exec (.domOff w v) s ∧
    wr mgmtPg 0x600 = exec (.pinFnEn w v) s ∧
    (n32 / 2 ^ 28 = 2 → wr secPg 0x104 = exec (.progKey w (BitVec.ofNat 8 (n32 / 2 ^ 16))) s) ∧
    (n32 / 2 ^ 28 = 3 → wr secPg 0x104 = exec (.revoke w (BitVec.ofNat 8 (n32 / 2 ^ 16))) s) ∧
    (n32 / 2 ^ 28 = 4 → wr secPg 0x104 = exec (.svnBurn w (BitVec.ofNat 8 (n32 / 2 ^ 16))) s) ∧
    wr secPg 0x184 = exec (.tokenData w v) s ∧
    (v.getLsbD 31 = true → wr secPg 0x188 = exec (.tokenCmd w) s ∧ wr secPg 0x1C0 = exec (.attCmd w) s)

/-- R418, R423 to R427, R445, R446: a BAR2 access through an enabled PHYS aperture of a READY partition of the port enters the
Harness as requests of at most 256 B for the memory it names, under free tags of the port, and completes when its answers are in; one through any other
aperture is Unsupported Request, as is a write of a page that lets none. A request in a host window becomes a read or a posted write of
the host, or is answered ABSENT where the window is not open and REFUSED where it reduces; a completion answers the read, its
timeout with ABSENT.
Model choices it rests on: log 39. -/
def Obligations.HostAndDeviceMemoryMeet : Prop :=
  ∀ (s : State) (p : Port), s.dev.alive = true →
    (∀ ofs len data ep, (s.dev.port p).up = true →
      let ap := s.dev.aperture p ofs.toNat
      let P := fld ap 24 4
      let a := fld ap 0 16 * 2 ^ 32 + ofs.toNat % 2 ^ 32
      let base (sp : Bool) (n : Nat) : Nat := if sp then spadAddr n 0 else vaultAddr n 0
      (∀ n o sp, tb ap 31 = true → tb ap 30 = false → P < 12 → s.dev.ptState P = 2 → s.dev.ptPort P = p →
        (s.dev.physTarget P a len = some (n, o, sp) →
          (lowTags (s.dev.port p).tags (pieces256 o len).length = none → exec (.bar2Read p ofs len) s = .next s) ∧
          (∀ ts, lowTags (s.dev.port p).tags (pieces256 o len).length = some ts →
            ∃ t ps r, exec (.bar2Read p ofs len) s = .next t ∧ t.dev.net = s.dev.net ++ ps ∧
              (∀ q ∈ ps, q.cls = .rdReq ∧ q.vc = 1 ∧ q.dst = n ∧ q.src = epPort p) ∧ ps.map (·.tag) = ts ∧
              ps.map (fun q => (q.addr, q.len)) = (pieces256 o len).map (fun x =>
                let z := span64 x.1 (x.1 + x.2)
                (base sp n + z.1, z.2)) ∧
              (t.dev.port p).reads = (s.dev.port p).reads ++ [r] ∧ r.ofs = ofs.toNat ∧ r.pieces.map (·.tag) = ts ∧
              t.dev.cores = s.dev.cores)) ∧
        (s.dev.physTarget P a data.length = some (n, o, sp) →
          let items := blockItems 0 0 (payloadWrites o data.length (bytesWordsOf data ep))
          (lowTags (s.dev.port p).tags items.length = none → exec (.bar2Write p ofs data ep) s = .next s) ∧
          (∀ ts, lowTags (s.dev.port p).tags items.length = some ts →
            ∃ t ps, exec (.bar2Write p ofs data ep) s = .next t ∧ t.dev.net = s.dev.net ++ ps ∧
              (∀ q ∈ ps, q.cls = .wrReq ∧ q.vc = 1 ∧ q.dst = n ∧ q.src = epPort p) ∧ ps.map (·.tag) = ts ∧
              ps.map (fun q => (q.addr, q.len, q.writes)) = items.map (fun it =>
                let b := base sp n + it.span.1
                (b, it.span.2, it.moved b)) ∧
              (t.dev.port p).writes = (s.dev.port p).writes ++ (if ts = [] then [] else [{ ofs := ofs.toNat, tags := ts }]) ∧
              t.dev.cores = s.dev.cores ∧ (ep = true → EvtUp t (pciePg p) 6)))) ∧
      (tb ap 31 = false ∨ 12 ≤ P ∨ s.dev.ptState P ≠ 2 ∨ s.dev.ptPort P ≠ p →
        (∃ t, exec (.bar2Read p ofs len) s = .next t ∧ t.dev.out.getLast? = some (.bar2Ur p ofs.toNat) ∧
          t.dev.net = s.dev.net ∧ t.dev.cores = s.dev.cores ∧ EvtUp t (pciePg p) 3) ∧
        (∃ t, exec (.bar2Write p ofs data ep) s = .next t ∧ t.dev.net = s.dev.net ∧ t.dev.cores = s.dev.cores ∧
          EvtUp t (pciePg p) 3))) ∧
    (∀ k u r x rest, s.dev.arrived k .rdRsp = some r → r.dst = epPort p → NoUpset u → Lands s.dev u k r.dst r →
      (s.dev.port p).reads = x :: rest → (∃ z ∈ x.pieces, z.tag = r.tag) →
      (∀ z ∈ x.pieces, z.tag ≠ r.tag → z.data.isSome = true) → (∀ y ∈ rest, ∃ z ∈ y.pieces, z.data = none ∧ z.tag ≠ r.tag) →
      let ws := x.pieces.flatMap fun z => if z.tag = r.tag then (r.data.drop z.skip).take z.count else z.data.getD []
      ∃ t, exec (.rdRsp k u) s = .next t ∧ t.dev.net = ldel s.dev.net k ∧ (t.dev.port p).reads.length = rest.length ∧
        (t.dev.port p).tags.elem r.tag = false ∧
        (ws.any (·.poison) = false → t.dev.out = s.dev.out ++ [.bar2 p x.ofs ws]) ∧
        (ws.any (·.poison) = true → .bar2 p x.ofs ws ∈ t.dev.out ∧ EvtUp t (pciePg p) 5)) ∧
    (∀ k u r, s.dev.arrived k r.cls = some r → r.dst = epPort p → NoUpset u → Lands s.dev u k r.dst r →
      r.cls = .rdReq ∨ r.cls = .wrReq ∨ r.cls = .rwReq →
      let cmd : Instr := .hostWindowRequest k u
      (s.dev.windowOpen p = false →
        ∃ t, exec cmd s = .next t ∧ t.dev.net = ldel s.dev.net k ++ answers r .err 1 ∧
          t.dev.out = s.dev.out ∧ t.dev.cores = s.dev.cores) ∧
      (s.dev.windowOpen p = true → r.cls = .rwReq →
        ∃ t, exec cmd s = .next t ∧ t.dev.net = ldel s.dev.net k ++ answers r .err 2 ∧
          t.dev.out = s.dev.out ∧ t.dev.cores = s.dev.cores) ∧
      (s.dev.windowOpen p = true → r.cls = .wrReq →
        ∃ t, exec cmd s = .next t ∧ t.dev.net = ldel s.dev.net k ++ answers r .wrAck 0 ∧
          t.dev.out = s.dev.out ++ [.hostWrite p (r.writes.map fun x => { x with addr := s.dev.hostAddr p x.addr })] ∧
          t.dev.cores = s.dev.cores) ∧
      (s.dev.windowOpen p = true → r.cls = .rdReq →
        ∃ t h, exec cmd s = .next t ∧ t.dev.net = ldel s.dev.net k ∧
          t.dev.out = s.dev.out ++ [.hostRead p (s.dev.hostAddr p r.addr) r.len h.htag] ∧
          (t.dev.port p).hreads = (s.dev.port p).hreads ++ [h] ∧ h.src = r.src ∧ h.tag = r.tag ∧ h.epoch = r.epoch ∧
          ∀ x ∈ (s.dev.port p).hreads, x.htag ≠ h.htag)) ∧
    (∀ tag h, (s.dev.port p).hreads.find? (fun x => x.htag == tag) = some h →
      let answered (t : State) (q : Packet) : Prop := t.dev.net = s.dev.net ++ [q] ∧ q.dst = h.src ∧ q.tag = h.tag ∧
        q.epoch = h.epoch ∧ q.vc = 2 ∧ (∀ x ∈ (t.dev.port p).hreads, x.htag ≠ tag) ∧ t.dev.cores = s.dev.cores
      (∀ ep data, ∃ t q, exec (.hostCompletion p tag true ep data) s = .next t ∧ answered t q ∧ q.cls = .rdRsp ∧
        q.data = data.map fun x => ⟨x, ep⟩) ∧
      (∀ ep data, ∃ t q, exec (.hostCompletion p tag false ep data) s = .next t ∧ answered t q ∧ q.cls = .err ∧ q.code = 1) ∧
      (∃ t q, exec (.cplTimeout p tag) s = .next t ∧ answered t q ∧ q.cls = .err ∧ q.code = 1 ∧ EvtUp t (pciePg p) 4))

/-- R418, R422, R432, R451, R453: an access of a hole reads as all ones and changes nothing; a configuration request is answered, with
Request Retry Status before release and during a port reset, and sets Bus Master Enable and the power state D0 or D3; a port's link
comes up at its width and rate; PERST's release ends its hold of the port. -/
def Obligations.HostLinksAndConfiguration : Prop :=
  ∀ (s : State) (p : Port),
    (∀ addr write, s.dev.alive = true → (s.dev.port p).up = true → s.dev.visible p (addr.toNat / 4096) = false →
      CritAgree s.dev (s.dev.gateKeys (.host p) (addr.toNat / 4096)) →
      ∃ t c, exec (.holeAccess p addr write) s = .next t ∧ t.sec = s.sec ∧
        t.dev = { s.dev with
          ctrs := c
          out := if write then s.dev.out else s.dev.out ++ [.bar0 p addr.toNat (BitVec.allOnes 32)] }) ∧
    (∀ bme d, s.dev.pwrok = true → s.dev.tripped = false → (s.dev.port p).perst = false → (s.dev.port p).off = false →
      (s.dev.released = false ∨ (s.dev.port p).resetting = true →
        ∃ t, exec (.configurationRequest p bme d) s = .next t ∧
          t.dev = { s.dev with out := s.dev.out ++ [.cfg p true []] }) ∧
      (s.dev.released = true → (s.dev.port p).resetting = false →
        ∃ t ws, exec (.configurationRequest p bme d) s = .next t ∧ t.dev.out = s.dev.out ++ [.cfg p false ws] ∧
          ws.take 2 = [0x06721F7C#32, 0x12000020#32] ∧
          (t.dev.port p).bme = bme.getD (s.dev.port p).bme ∧
          (∀ x, d = some x → x = 0 ∨ x = 3 → (t.dev.port p).dstate = x) ∧
          (d = none → (t.dev.port p).dstate = (s.dev.port p).dstate) ∧ t.dev.regs = s.dev.regs ∧
          t.dev.cores = s.dev.cores)) ∧
    (∀ width speed, s.dev.pwrok = true → s.dev.tripped = false → (s.dev.port p).perst = false → (s.dev.port p).off = false →
      (s.dev.port p).up = false → width = 1 ∨ width = 2 ∨ width = 4 ∨ width = 8 → 1 ≤ speed → speed ≤ 6 →
      ∃ t, exec (.pcieLinkUp p width speed) s = .next t ∧ (t.dev.port p).up = true ∧ (t.dev.port p).width = width ∧
        (t.dev.port p).speed = speed ∧ EvtUp t (pciePg p) 1 ∧ t.dev.cores = s.dev.cores) ∧
    (∃ t, exec (.perstRelease p) s = .next t ∧ (t.dev.port p).perst = false ∧ (t.dev.port p).cold = false ∧
      (t.dev.port p).up = (s.dev.port p).up ∧ t.dev.regs = s.dev.regs ∧ t.dev.cores = s.dev.cores)

/-! The management bus, start-up, security and the test port (R443, R444, R450 to R483, R522). -/

/-- R443, R444, R451: once PWROK is up the SMBus target answers each code of its table with its number of bytes, little-endian, a
Block Read with their count first, and with the packet error code behind them where it is asked for, and any other code with a NACK; a
read changes nothing but what has been sent, a write of ALERT_MASK nothing but the mask, and is turned away where its packet error
code is wrong; it gives its address to an alert response while an unmasked bit of STATUS stands, and only then.
Model choices it rests on: log 33. -/
def Obligations.ManagementBusAnswers : Prop :=
  ∀ (s : State), s.dev.pwrok = true →
    let sends (l : List Byte) : State := { s with dev := { s.dev with out := s.dev.out ++ [.smbus l] } }
    let gives (c : Bool → Instr) (code len : Nat) (block : Bool) (keys : List Nat) (v : Nat) : Prop :=
      ∀ pec, CritAgree s.dev keys → ∃ b, b.length = len ∧ leNat b = v % 256 ^ len ∧
        let l := (if block then [BitVec.ofNat 8 len] else []) ++ b
        exec (c pec) s = .next (sends (l ++
          if pec then [BitVec.ofNat 8 (pecOf ([0x94, code, 0x95] ++ l.map (·.toNat)))] else []))
    let pt (P : Nat) : Nat := (s.dev.ptEntry P / 2 ^ 24 + s.dev.ptEntry P / 2 ^ 16 % 256 * 256) % 65536
    gives (.ident ·) 0 8 true [] (0x200672 + (if s.sec.sensed.f4 then 2 ^ 24 else 0)) ∧
    gives (.lifecycle ·) 1 1 false [0] (s.dev.critR 0 0 % 4) ∧ gives (.pkgPower ·) 0x10 2 false [] s.dev.power.pkg ∧
    gives (.profile ·) 0x11 1 false [] s.dev.power.profile ∧
    gives (.alertMaskRead ·) 0x7F 1 false [] s.dev.alertMask.toNat ∧ gives (.status ·) 2 2 false ptKeys s.dev.smbStatus ∧
    (tb s.dev.smbStatus 0 = s.dev.released ∧ tb s.dev.smbStatus 2 = s.dev.power.alarm ∧
      tb s.dev.smbStatus 4 = s.dev.portA.up ∧ tb s.dev.smbStatus 5 = s.dev.portB.up ∧
      (tb s.dev.smbStatus 1 = true ↔ ∃ P, P < 12 ∧ s.dev.ptState P ≠ 0) ∧
      (tb s.dev.smbStatus 3 = true ↔ ∃ p, p < 84 ∧ (s.dev.pod p).alloc ≠ 0) ∧
      (tb s.dev.smbStatus 6 = true ↔ ∃ n, n < 672 ∧ (s.dev.core n).vault.retired ≠ 0) ∧
      (tb s.dev.smbStatus 7 = true ↔ ∃ k, k < 8 ∧ (s.dev.link k).retired ≠ 0) ∧
      s.dev.smbStatus < 512 ∧ State.reset.dev.alertMask = 0xFF ∧
      (tb s.dev.smbStatus 8 = true ↔ ∃ n, n < 672 ∧ (s.dev.core n).retired = true)) ∧
    (∀ q, q < 4 → gives (.tempT0 q ·) (0x21 + q) 2 false [] (s.dev.temp (88 + 2 * q) % 65536).toNat ∧
      gives (.tempT1 q ·) (0x25 + q) 2 false [] (s.dev.temp (89 + 2 * q) % 65536).toNat) ∧
    (∃ i, i < 88 ∧ (∀ j, j < 88 → s.dev.temp j ≤ s.dev.temp i) ∧ gives (.tempLogic ·) 0x20 2 false [] (s.dev.temp i % 65536).toNat) ∧
    (∃ v, gives (.parts ·) 0x30 24 true ptKeys v ∧ ∀ P, P < 12 → fld v (16 * P) 16 = pt P) ∧
    gives (.retired ·) 0x31 6 true [] (s.dev.retiredCores + s.dev.retiredPcs * 2 ^ 16 + s.dev.retiredLanes * 2 ^ 32) ∧
    (∀ v pec, (∀ b, pec = some b → b.toNat = pecOf [0x94, 0x7F, v.toNat]) →
      exec (.alertMaskWrite v pec) s = .next { s with dev := { s.dev with alertMask := v } }) ∧
    (∀ v b, b.toNat ≠ pecOf [0x94, 0x7F, v.toNat] →
      exec (.alertMaskWrite v (some b)) s = .next { s with dev := { s.dev with out := s.dev.out ++ [.smbusNack] } }) ∧
    ((∃ i, i < 8 ∧ tb s.dev.smbStatus i = true ∧ s.dev.alertMask.getLsbD i = false) →
      exec (.alertResponse false) s = .next (sends [0x94]) ∧
      exec (.alertResponse true) s = .next (sends [0x94, BitVec.ofNat 8 (pecOf [0x19, 0x94])])) ∧
    (∀ pec, (∀ i, i < 8 → tb s.dev.smbStatus i = true → s.dev.alertMask.getLsbD i = true) → exec (.alertResponse pec) s = .next s) ∧
    (∀ code, code.toNat ∉ [0, 1, 2, 0x10, 0x11, 0x20, 0x21, 0x22, 0x23, 0x24, 0x25, 0x26, 0x27, 0x28, 0x30, 0x31, 0x7F] →
      exec (.smbusOtherCommand code) s = .next { s with dev := { s.dev with out := s.dev.out ++ [.smbusNack] } })

/-- R450 to R453, R463 to R465, R469: a start whose discovery fails, or whose copies both fail their checks, leaves the part unreleased
with the codes in BOOT_STAT; a copy that passes every check releases the part, the secondary after a primary that fails, with every
partition FREE, every page unowned, the Block Owner Table zero, no stream running, and the failing cores retired. Without PWROK the part
is not released and holds no memory. An ADVANCE is refused with its result, or overwrites every memory, telling of words that fail,
burns its state and starts the part again.
Model choices it rests on: log 35. -/
def Obligations.StartUpReleasesOrReports : Prop :=
  ∀ (s : State) (f : Flash) (straps : BitVec 2) (failing : List (Nat × BitVec 4)),
    let sens (keep : Bool) : State := s.sense keep
    let stat (t : State) (lo w : Nat) : Nat := fld (t.dev.regN (ra bootPg 0x100)) lo w
    let clean (t : State) : Prop :=
      (∀ P, P < 12 → t.dev.ptState P = 0) ∧ (∀ pg, pg < 0xD33 → fld (t.dev.owner pg) 0 4 = 15) ∧
      (∀ i, t.dev.botEntry i = 0) ∧ (∀ p, p < 84 → (t.dev.pod p).epoch = 0 ∧ (t.dev.pod p).held = false) ∧
      (∀ n, n < 672 → (t.dev.core n).x.st = .idle ∧ (t.dev.core n).a.st = .idle ∧
        (t.dev.core n).sp = [] ∧ (t.dev.core n).imemX = [] ∧ (t.dev.core n).imemA = [])
    let down (t : State) : Prop :=
      t.dev.pwrok = false ∧ t.dev.released = false ∧ t.dev.cores = [] ∧ t.dev.bot = [] ∧ t.dev.net = [] ∧
      (s.sec.burn = none → t.sec.fuses = s.sec.fuses) ∧
      (∀ b, s.sec.burn = some b → t.sec.fuses = s.sec.fuses ∨ t.sec.fuses = b.apply s.sec.fuses)
    (s.dev.pwrok = false →
      let u := (sens false).onDevice fun d => d.setReg (ra bootPg 0x10C) (w32 f.mib)
      let o1 := overlayOf s.sec.fuses straps.toNat f.primary
      let o2 := overlayOf s.sec.fuses straps.toNat f.secondary
      let c1 := u.checkImage f.primary o1
      let c2 := u.checkImage f.secondary o2
      (discover f ≠ 0 → ∃ t, exec (.pwrokRise f straps failing) s = .next t ∧ t.dev.released = false ∧ t.dev.pwrok = true ∧
        stat t 28 4 = discover f ∧ stat t 0 4 = 8 ∧ t.dev.ctr (ctrAddr bootPg 3) = 0) ∧
      (discover f = 0 → c1 ≠ 0 → c2 ≠ 0 → ∃ t, exec (.pwrokRise f straps failing) s = .next t ∧ t.dev.released = false ∧
        stat t 28 4 = c2 ∧ stat t 24 4 = c1 ∧ stat t 20 1 = 1 ∧ stat t 0 4 = 8) ∧
      (discover f = 0 → c1 = 0 ∨ c2 = 0 → ∃ t, exec (.pwrokRise f straps failing) s = .next t ∧ t.dev.released = true ∧
        t.dev.pwrok = true ∧ t.dev.tripped = false ∧ clean t ∧ EvtUp t bootPg 0 ∧ stat t 28 4 = 0 ∧ stat t 24 4 = c1 ∧
        stat t 20 1 = (if c1 = 0 then 0 else 1) ∧ stat t 21 3 = (if c1 = 0 then o1 else o2) ∧ stat t 0 4 = 7 ∧
        (c1 ≠ 0 → (∀ a v, RecOp.write a v ∈ ((imgRecs f.secondary o2).getD ([], 0)).1 → a ≠ ra bootPg 0x18) → EvtUp t bootPg 1) ∧
        t.sec.fuses = s.sec.fuses ∧ t.sec.ctr = 0 ∧
        (∀ n x, (n, x) ∈ failing → n < 672 → x ≠ 0 → (t.dev.core n).retired = true ∧ EvtUp t (corePg n 1) 3) ∧
        (∀ n, n < 672 → (∀ x, (n, x) ∈ failing → x = 0) → (t.dev.core n).retired = false))) ∧
    (s.dev.pwrok = true →
      (∃ t, exec .pwrokFall s = .next t ∧ down t) ∧ (∃ t, exec .railDrop s = .next t ∧ down t)) ∧
    (∀ w target bad, Reaches s w secPg →
      let r := s.advJudge target.toNat
      let fu : Fuses := { s.sec.fuses with life := max s.sec.fuses.life target.toNat }
      (r ≠ 0 → ∃ t, exec (.advance w target f straps failing bad) s = .next t ∧ EvtUp t secPg 2 ∧
        t.dev.regN (pra (writerPort w) secPg 0x108) = r ∧ t.sec = s.sec ∧ t.dev.cores = s.dev.cores ∧
        t.dev.crit = s.dev.crit) ∧
      (r = 0 → discover f ≠ 0 → (s.dev.cores.map (·.1)).Nodup → (s.dev.links.map (·.1)).Nodup →
        ∃ t, exec (.advance w target f straps failing bad) s = .next t ∧ t.sec.fuses = fu ∧
        t.dev.released = false ∧ t.dev.pwrok = true ∧ t.life = fu.life % 4 ∧ t.sec.ctr = s.sec.ctr ∧
        (∀ n, n < 672 → (t.dev.core n).sp = [] ∧ (t.dev.core n).vault.mem = [] ∧
          (bad = [] → (t.dev.core n).vault.retired = (s.dev.core n).vault.retired) ∧
          ∀ i, (s.dev.core n).vault.retired.getLsbD i = true → (t.dev.core n).vault.retired.getLsbD i = true) ∧
        (∀ q, q < 4 → EvtUp t (vqPg q) 10) ∧
        (∀ b ∈ bad, b.1 < 672 → 8 * b.2 < vaultSize → t.dev.power.ovwFailed.getLsbD (qtOf b.1 (8 * b.2)) = true) ∧
        ∀ k, k < 8 → (t.dev.link k).retired = (s.dev.link k).retired))

/-- R454, R455, R468 to R472, R478 to R483: PROG_KEY, REVOKE and SVN_BURN start their burn where the life-cycle state and the fuses
allow it, and otherwise give BUSY, STATE or INVALID; a burn that ends stands in the fuse array and nothing it held before is lost. A token
word is staged and its index moves on; a token submitted is judged in its turn, counts in TOKEN_CTR, and grants its scopes if it
passes. An attestation request is accepted, or refused with STATE in RETURNED and DENIED for a destination that is not the port's; the
oldest report is written, or ends with WRITE_FAIL.
Model choices it rests on: logs 34 and 47. -/
def Obligations.SecurityBlockBurnsJudgesAndReports : Prop :=
  ∀ (s : State),
    (∀ w, Reaches s w secPg →
      let p := writerPort w
      let key := s.dev.keyData w
      let refused (c : Instr) (r : Nat) : Prop := ∃ t, exec c s = .next t ∧ t.dev.regN (pra p secPg 0x108) = r ∧
        t.sec = s.sec ∧ EvtUp t secPg 2 ∧ t.dev.cores = s.dev.cores
      let burns (c : Instr) (b : Burn) : Prop := ∃ t, exec c s = .next t ∧ t.dev.regN (pra p secPg 0x108) = 0 ∧
        t.sec = { s.sec with burn := some b } ∧ t.dev.cores = s.dev.cores
      (∀ slot : Byte,
        (1 < slot.toNat ∨ key = 0 → refused (.progKey w slot) 4) ∧
        (slot.toNat ≤ 1 → key ≠ 0 → s.sec.burn.isSome = true → refused (.progKey w slot) 1) ∧
        (slot.toNat ≤ 1 → key ≠ 0 → s.sec.burn = none → s.life ≤ 1 → s.rootKey slot.toNat = 0 →
          burns (.progKey w slot) (.key slot.toNat key)) ∧
        (slot.toNat ≤ 1 → key ≠ 0 → s.sec.burn = none → 1 < s.life ∨ s.rootKey slot.toNat ≠ 0 → refused (.progKey w slot) 2) ∧
        (slot.toNat ≤ 1 → s.sec.burn = none → s.life = 1 ∨ s.life = 2 → slot.toNat ≠ s.sec.keySlot → s.dev.unsigned = false →
          burns (.revoke w slot) (.revoke slot.toNat)) ∧
        (slot.toNat ≤ 1 → s.sec.burn = none → (s.life ≠ 1 ∧ s.life ≠ 2) ∨ slot.toNat = s.sec.keySlot ∨ s.dev.unsigned = true →
          refused (.revoke w slot) 2)) ∧
      (∀ v : Byte,
        (v.toNat ≤ 32 → s.sec.burn = none → s.life = 1 ∨ s.life = 2 → v.toNat ≤ s.dev.regN (ra bootPg 0x104) →
          (s.sec.fuses.svnMin < v.toNat → burns (.svnBurn w v) (.svn v.toNat)) ∧
          (v.toNat ≤ s.sec.fuses.svnMin → ∃ t, exec (.svnBurn w v) s = .next t ∧ t.sec = s.sec ∧
            t.dev.regN (pra p secPg 0x108) = 0)) ∧
        (v.toNat ≤ 32 → s.sec.burn = none → (s.life ≠ 1 ∧ s.life ≠ 2) ∨ s.dev.regN (ra bootPg 0x104) < v.toNat →
          refused (.svnBurn w v) 2) ∧
        (32 < v.toNat → refused (.svnBurn w v) 4)) ∧
      (∀ v, ∃ t, exec (.tokenData w v) s = .next t ∧
        (let i := s.dev.regN (pra p secPg 0x180) % 2 ^ 14
         t.dev.regN (pra p secPg 0x180) % 2 ^ 14 = (i + 1) % 2 ^ 14 ∧
         ∀ j, mget (fun _ => 0#32) (if p = .A then t.sec.bufA else t.sec.bufB) j =
           if j = i then v else mget (fun _ => 0#32) (if p = .A then s.sec.bufA else s.sec.bufB) j)) ∧
      (∃ t, exec (.tokenCmd w) s = .next t ∧ t.sec = { s.sec with tokens := s.sec.tokens ++
        [(if p = .A then .A else .B, tokenBytes (if p = .A then s.sec.bufA else s.sec.bufB))] }) ∧
      (let a := s.dev.regN (pra p secPg 0x1C8) + 2 ^ 32 * s.dev.regN (pra p secPg 0x1CC)
       (s.life = 3 → ∃ t, exec (.attCmd w) s = .next t ∧ t.dev.regN (pra p secPg 0x1D0) = 3 ∧ t.sec = s.sec) ∧
       (s.life ≠ 3 → s.dev.attDest p a = false → ∃ t, exec (.attCmd w) s = .next t ∧
         t.dev.regN (pra p secPg 0x1D0) = 1 ∧ t.sec = s.sec ∧ EvtUp t secPg 2) ∧
       (s.life ≠ 3 → s.dev.attDest p a = true → ∃ t q, exec (.attCmd w) s = .next t ∧
         t.sec = { s.sec with att := s.sec.att ++ [q] } ∧ q.port = p ∧ q.dest = a ∧
         ∀ P, P < 12 → tb q.mask P = (tb (s.dev.regN (pra p secPg 0x1C4)) P && s.dev.ownReady p P)))) ∧
    (∀ b, s.sec.burn = some b →
      ∃ t, exec .fuseBurnDone s = .next t ∧ t.sec = { s.sec with fuses := b.apply s.sec.fuses, burn := none } ∧
        EvtUp t secPg 3 ∧ t.dev.cores = s.dev.cores ∧ t.dev.crit = s.dev.crit ∧
        s.sec.fuses.svnMin ≤ t.sec.fuses.svnMin ∧ t.sec.fuses.life = s.sec.fuses.life ∧
        (∀ i, i < 256 → (s.sec.fuses.key0.getLsbD i = true → t.sec.fuses.key0.getLsbD i = true) ∧
          (s.sec.fuses.key1.getLsbD i = true → t.sec.fuses.key1.getLsbD i = true)) ∧
        (∀ i, i < 2 → s.sec.fuses.revoke.getLsbD i = true → t.sec.fuses.revoke.getLsbD i = true)) ∧
    (∀ src x rest, s.sec.tokens = (src, x) :: rest →
      ∃ t, exec .tokenDone s = .next t ∧ t.sec.tokens = rest ∧ t.sec.ctr = (s.sec.ctr + 1) % 2 ^ 32 ∧
        t.sec.tokenResult = s.tokenJudge x ∧ EvtUp t secPg 1 ∧ t.dev.cores = s.dev.cores ∧ t.sec.fuses = s.sec.fuses ∧
        (∀ i, i < 3 → t.dev.scopes.getLsbD i =
          (s.dev.scopes.getLsbD i || (decide (s.tokenJudge x = 0) && tb (leNat (cut x 2 2)) i)))) ∧
    (∀ q rest, s.dev.alive = true → s.sec.att = q :: rest → s.dev.reportWaits q.dest = false →
      ∃ t, exec .attReport s = .next t ∧ t.sec = { s.sec with att := rest } ∧ EvtUp t secPg 0 ∧
        (∀ m y, placeOf q.dest = .host m y → t.dev.cores = s.dev.cores ∧
          (s.dev.windowOpen q.port = true → t.dev.regN (pra q.port secPg 0x1D0) = 0 ∧
            ∃ ws, .hostWrite q.port ws ∈ t.dev.out) ∧
          (s.dev.windowOpen q.port = false → t.dev.regN (pra q.port secPg 0x1D0) = 2)) ∧
        (∀ n o, placeOf q.dest = .vault n o → o % 8 = 0 →
          (∀ m, m ≠ n → t.dev.core m = s.dev.core m) ∧ (t.dev.core n).sp = (s.dev.core n).sp ∧
          (∀ i, (8 * i + 8 ≤ o ∨ o + 18112 ≤ 8 * i) → (t.dev.core n).vPeek i = (s.dev.core n).vPeek i) ∧
          (s.dev.podGone (podOf n) = true → t.dev.regN (pra q.port secPg 0x1D0) = 2 ∧ t.dev.core n = s.dev.core n)))

/-- R451, R467, R476, R477, R479: from PWROK on the test port takes each instruction of its table. The boundary-scan instructions, BYPASS
and a test-logic reset act on the port and its pins alone; BOOT_STATUS and TOKEN_STATUS give their registers; TOKEN_LOAD submits a
token; the first TEST instruction of a start, its scope open and every partition FREE, wipes every scratchpad, instruction memory and
tier; a DEBUG access, its scope open, reads or writes; a TEST or DEBUG instruction whose scope is not open acts as BYPASS.
Model choices it rests on: log 36. -/
def Obligations.TestPortActsWithinItsScope : Prop :=
  ∀ (s : State), s.dev.pwrok = true →
    let only (ir : Byte) (cells mode : Nat) (more : List Out) : State :=
      { s with sec := { s.sec with ir := ir, cells := cells }
               dev := { s.dev with out := s.dev.out ++ .jtagPins mode cells :: more } }
    exec .extest s = .next (only 0x00 s.sec.cells 1 []) ∧ (∀ c, exec (.samplePreload c) s = .next (only 0x01 c 0 [])) ∧
    exec .highz s = .next (only 0x02 s.sec.cells 2 []) ∧ exec .clamp s = .next (only 0x03 s.sec.cells 3 []) ∧
    exec .bootStatus s = .next (only 0x10 s.sec.cells 0 [.jtag (s.dev.regN (ra bootPg 0x100))]) ∧
    exec .tokenStatus s = .next (only 0x12 s.sec.cells 0
      [.jtag ((if s.sec.tokens = [] then 0 else 2 ^ 31) + s.sec.tokenResult)]) ∧
    (∀ code, exec (.bypass code) s = .next (only code s.sec.cells 0 [])) ∧
    exec .tapReset s = .next (only 0xFF s.sec.cells 0 []) ∧
    (∀ token, token.length = 16400 →
      ∃ t, exec (.tokenLoad token) s = .next t ∧ t.sec.tokens = s.sec.tokens ++ [(.jtag, token)] ∧
        t.dev.cores = s.dev.cores ∧ t.dev.regs = s.dev.regs) ∧
    (∀ code : Byte, 0x20 ≤ code.toNat → code.toNat < 0x80 →
      (s.life = 2 ∧ s.dev.scopes.getLsbD 0 = false ∨ s.dev.anyPart = true → CritAgree s.dev (0 :: ptKeys) →
        exec (.testInstruction code) s = .next (only code s.sec.cells 0 [])) ∧
      (s.life ≠ 2 ∨ s.dev.scopes.getLsbD 0 = true → s.dev.anyPart = false → s.sec.testWiped = false →
        ∃ t, exec (.testInstruction code) s = .next t ∧ t.sec.testWiped = true ∧
          ∀ n, n < 672 → (t.dev.core n).sp = [] ∧ (t.dev.core n).imemX = [] ∧ (t.dev.core n).imemA = [] ∧
            (∀ i, (t.dev.core n).vault.retired.getLsbD (pcOf (8 * i)) = false → 8 * i < vaultSize →
              (t.dev.core n).vPeek i = ⟨0, false⟩) ∧ EvtUp t (corePg n 1) 8)) ∧
    (∀ code : Byte, ∀ (write : Bool) (a : BitVec 24) (v : Word), 0x80 ≤ code.toNat → code.toNat < 0x90 →
      (s.life = 2 → s.dev.scopes.getLsbD 1 = false →
        exec (.debugAccess code write a v) s = .next (only code s.sec.cells 0 [])) ∧
      (s.dev.debugOpen = true → s.dev.tripped = false → a.toNat % 4 = 0 → (pageKind (a.toNat / 4096)).isSome = true →
        s.dev.pageDark (a.toNat / 4096) = false → CritAgree s.dev (s.dev.gateKeys .jtag (a.toNat / 4096)) →
        (exec (.debugAccess code true a v) s = .next ((only code s.sec.cells 0 []).writeReg .jtag a.toNat v)) ∧
        ∃ t, exec (.debugAccess code false a v) s = .next t ∧
          t.dev.out = s.dev.out ++ [.jtagPins 0 s.sec.cells, .jtag (s.readReg .A a.toNat % 2 ^ 32)] ∧
          t.dev.cores = s.dev.cores))

/-! The whole machine. -/

/-- The queue is first in, first out: with a command at the front, a step is `exec` of that command on the state with the queue's rest;
on an empty queue the block idles (the model's choice, log 3). -/
def Obligations.StepRunsTheFrontCommand : Prop :=
  (∀ (s : State) (c : Instr) (rest : List Instr), step { s with pending := c :: rest } = exec c { s with pending := rest }) ∧
  (∀ s : State, s.pending = [] → step s = .next s)

/-- Every step answers a next state whose queue is the rest of the old one: the model stops on no command. On a part that is not
powered, not released, or stopped by THERMTRIP, a command other than those of the SMBus target, the test port, start-up, pins and
links changes nothing (R450, R451, R453, R520).
Model choices it rests on: logs 2 and 46. -/
def Obligations.EveryStepAnswersADeadPartKeepsStill : Prop :=
  (∀ s : State, SafeStep s) ∧
  (∀ (s : State) (c : Instr), s.dev.alive = false → actsUnreleased c = false → exec c s = .next s)

/-- R454, R455, R469, R470: no step unburns a fuse, and what the last start sensed stays burnt in the array. Only the end of a burn, a loss
of power and an advance of the life cycle change the array, and a loss of power that interrupts a burn leaves the old value or the
new one; only the security block's own commands, start-up's, the test port's and
register writes change the security block at all. -/
def Obligations.FusesOnlyGrow : Prop :=
  ∀ s t : State, step s = .next t →
    FusesWithin s.sec.fuses t.sec.fuses ∧ (FuseInv s → FuseInv t) ∧
    (∀ c rest, s.pending = c :: rest → burnsFuses c = false → t.sec.fuses = s.sec.fuses) ∧
    (∀ c rest, s.pending = c :: rest → touchesSecurity c = false → t.sec = s.sec) ∧
    (∀ c rest b, s.pending = c :: rest → c = .pwrokFall ∨ c = .railDrop → s.sec.burn = some b →
      t.sec.fuses = s.sec.fuses ∨ t.sec.fuses = b.apply s.sec.fuses)

/-- R450, R452: after reset the part is released, every partition is FREE, every page unowned and unlocked, the Block Owner Table zero,
every core's streams IDLE with empty memories in canonical form, every pod on with epoch 0; of all events BLK_EVT.RELEASE of the boot
page alone is raised and, the tiers having been cleared (R355), TIER_CLEARED of the vault quarters; and what was sensed of the fuses
is burnt in them.
Model choices it rests on: logs 4 and 5. -/
def Obligations.ResetLeavesAReleasedEmptyPart : Prop :=
  let s := State.reset
  s.dev.alive = true ∧ s.pending = [] ∧ FuseInv s ∧ (∀ P, P < 12 → s.dev.ptState P = 0) ∧
  (∀ pg, pg < 0xD33 → fld (s.dev.owner pg) 0 4 = 15 ∧ s.dev.locked pg = false ∧
    s.dev.reg (ra pg 0x18) = if pg = bootPg then 1 else if pg = vqPg (pg % 4) then 0x200 else 0) ∧
  (∀ i, s.dev.botEntry i = 0) ∧ (∀ p, s.dev.pod p = {}) ∧ s.dev.net = [] ∧ s.dev.power.tierOff = 0 ∧
  (∀ n, (s.dev.core n).x.st = .idle ∧ (s.dev.core n).a.st = .idle ∧ (∀ i, (s.dev.core n).spPeek i = ⟨0, false⟩) ∧
    (∀ i, (s.dev.core n).vPeek i = ⟨0, false⟩) ∧ mwf noWord (s.dev.core n).sp = true ∧
    mwf noWord (s.dev.core n).vault.mem = true)
end

