-- ==== Sys2Proof/Laws/Map.lean ====
section
/-! SUPPORT. Laws of sparse maps: what a read gives after a write, a removal or a clearing, and that each keeps the
canonical form. -/
namespace Sys2Proof.Machine

variable {α : Type}

@[simp] theorem mget_nil (d : Nat → α) (k : Nat) : mget d [] k = d k := rfl

theorem mget_cons (d : Nat → α) (j : Nat) (v : α) (m : SMap α) (k : Nat) :
    mget d ((j, v) :: m) k = if j = k then v else mget d m k := rfl

theorem mget_mdel (d : Nat → α) (m : SMap α) (k i : Nat) :
    mget d (mdel m k) i = if i = k then d i else mget d m i := by
  induction m with
  | nil => simp [mdel]
  | cons p m ih =>
    obtain ⟨j, v⟩ := p
    simp only [mdel, mget_cons]
    split <;> rename_i h <;> simp only [mget_cons, ih]
    · by_cases hi : i = k
      · simp [hi]
      · rw [if_neg hi, if_neg hi, if_neg (by omega)]
    · by_cases hi : i = k
      · rw [if_pos hi, if_neg (by omega), if_pos hi]
      · simp [hi]

theorem mget_mput (d : Nat → α) (m : SMap α) (k i : Nat) (v : α) :
    mget d (mput m k v) i = if i = k then v else mget d m i := by
  induction m with
  | nil =>
    simp only [mput, mget_cons, mget_nil]
    by_cases hi : i = k
    · simp [hi]
    · rw [if_neg hi, if_neg (by omega)]
  | cons p m ih =>
    obtain ⟨j, w⟩ := p
    simp only [mput]
    by_cases hi : i = k
    · subst hi
      split
      · simp [mget_cons]
      · split
        · simp [mget_cons]
        · rename_i h _; simp [mget_cons, ih, h]
    · have hk : ¬ k = i := by omega
      split
      · rename_i h; subst h; simp [mget_cons, hk]
      · split
        · simp [mget_cons, hk]
        · simp [mget_cons, ih, hi]

variable [DecidableEq α]

/-- A read after a write. -/
theorem mget_mset (d : Nat → α) (m : SMap α) (k i : Nat) (v : α) :
    mget d (mset d m k v) i = if i = k then v else mget d m i := by
  unfold mset
  split
  · rename_i h
    rw [mget_mdel]
    split <;> simp_all
  · exact mget_mput d m k i v

@[simp] theorem mget_mset_self (d : Nat → α) (m : SMap α) (k : Nat) (v : α) : mget d (mset d m k v) k = v := by
  simp [mget_mset]

theorem mget_mset_ne (d : Nat → α) (m : SMap α) {k i : Nat} (v : α) (h : i ≠ k) :
    mget d (mset d m k v) i = mget d m i := by
  simp [mget_mset, h]

omit [DecidableEq α] in
theorem mget_mclear (d : Nat → α) (m : SMap α) (lo hi i : Nat) :
    mget d (mclear m lo hi) i = if lo ≤ i ∧ i < hi then d i else mget d m i := by
  induction m with
  | nil => simp [mclear]
  | cons p m ih =>
    obtain ⟨j, v⟩ := p
    by_cases h : j < lo ∨ hi ≤ j
    · have : mclear ((j, v) :: m) lo hi = (j, v) :: mclear m lo hi := by simp [mclear, h]
      rw [this, mget_cons, mget_cons, ih]
      split <;> split <;> try rfl
      omega
    · have : mclear ((j, v) :: m) lo hi = mclear m lo hi := by
        unfold mclear; rw [List.filter_cons_of_neg]; simpa using h
      rw [this, ih, mget_cons]
      split
      · rfl
      · split
        · omega
        · rfl

/-! The canonical form. -/

omit [DecidableEq α] in
theorem mrising_weaken {lo lo' : Nat} {m : SMap α} (h : mrising (some lo) m = true) (hl : lo' ≤ lo) :
    mrising (some lo') m = true := by
  cases m with
  | nil => rfl
  | cons p m => obtain ⟨j, v⟩ := p; simp only [mrising, Bool.and_eq_true, decide_eq_true_eq] at h ⊢; exact ⟨by omega, h.2⟩

omit [DecidableEq α] in
theorem mrising_drop {j : Nat} {v : α} {m : SMap α} {o : Option Nat} (h : mrising o ((j, v) :: m) = true) :
    mrising (some j) m = true := by
  cases o with
  | none => exact h
  | some lo => simp only [mrising, Bool.and_eq_true] at h; exact h.2

omit [DecidableEq α] in
theorem mrising_filter {o : Option Nat} {m : SMap α} (f : Nat × α → Bool) (h : mrising o m = true) :
    mrising o (m.filter f) = true := by
  induction m generalizing o with
  | nil => exact h
  | cons p m ih =>
    obtain ⟨j, v⟩ := p
    have hd := mrising_drop h
    simp only [List.filter]
    split
    · cases o with
      | none => exact ih hd
      | some lo =>
        simp only [mrising, Bool.and_eq_true, decide_eq_true_eq] at h ⊢
        exact ⟨h.1, ih hd⟩
    · cases o with
      | none =>
        have := ih hd
        exact (by cases hm : m.filter f with
          | nil => rfl
          | cons q r => rw [hm] at this; obtain ⟨a, b⟩ := q; exact mrising_drop this)
      | some lo =>
        simp only [mrising, Bool.and_eq_true, decide_eq_true_eq] at h
        exact mrising_weaken (ih hd) (by omega)

omit [DecidableEq α] in
theorem mdel_eq_filter (m : SMap α) (k : Nat) : mdel m k = m.filter fun p => p.1 != k := by
  induction m with
  | nil => rfl
  | cons p m ih =>
    obtain ⟨j, v⟩ := p
    simp only [mdel]
    by_cases h : j = k
    · rw [if_pos h, List.filter_cons_of_neg (by simp [h]), ih]
    · rw [if_neg h, List.filter_cons_of_pos (by simp [h]), ih]

omit [DecidableEq α] in
theorem mrising_mput {o : Option Nat} {m : SMap α} (k : Nat) (v : α) (h : mrising o m = true)
    (hk : ∀ lo, o = some lo → lo < k) : mrising o (mput m k v) = true := by
  induction m generalizing o with
  | nil => cases o <;> simp [mput, mrising, hk]
  | cons p m ih =>
    obtain ⟨j, w⟩ := p
    simp only [mput]
    have hd := mrising_drop h
    split
    · rename_i e; subst e
      cases o with
      | none => exact hd
      | some lo => simp only [mrising, Bool.and_eq_true, decide_eq_true_eq] at h ⊢; exact ⟨h.1, hd⟩
    · split
      · rename_i hlt
        cases o with
        | none => simp only [mrising, Bool.and_eq_true, decide_eq_true_eq]; exact ⟨hlt, hd⟩
        | some lo =>
          simp only [mrising, Bool.and_eq_true, decide_eq_true_eq]; exact ⟨hk lo rfl, hlt, hd⟩
      · rename_i h1 h2
        have : mrising (some j) (mput m k v) = true := ih hd (by intro lo e; cases e; omega)
        cases o with
        | none => exact this
        | some lo => simp only [mrising, Bool.and_eq_true, decide_eq_true_eq] at h ⊢; exact ⟨h.1, this⟩

omit [DecidableEq α] in
theorem all_mput {m : SMap α} (f : Nat × α → Bool) (k : Nat) (v : α) (h : m.all f = true) (hv : f (k, v) = true) :
    (mput m k v).all f = true := by
  induction m with
  | nil => simp [mput, hv]
  | cons p m ih =>
    obtain ⟨j, w⟩ := p
    simp only [List.all_cons, Bool.and_eq_true] at h
    simp only [mput]
    split
    · simp [hv, h.2]
    · split
      · simp [hv, h.1, h.2]
      · simp [h.1, ih h.2]

/-- Removing entries keeps the canonical form. -/
theorem mwf_filter {d : Nat → α} {m : SMap α} (f : Nat × α → Bool) (h : mwf d m = true) : mwf d (m.filter f) = true := by
  simp only [mwf, Bool.and_eq_true] at h ⊢
  refine ⟨mrising_filter f h.1, ?_⟩
  rw [List.all_eq_true] at h ⊢
  intro x hx
  exact h.2 x (List.mem_filter.1 hx).1

/-- A write keeps the canonical form. -/
theorem mwf_mset {d : Nat → α} {m : SMap α} (k : Nat) (v : α) (h : mwf d m = true) : mwf d (mset d m k v) = true := by
  unfold mset
  split
  · rw [mdel_eq_filter]; exact mwf_filter _ h
  · rename_i hv
    simp only [mwf, Bool.and_eq_true] at h ⊢
    exact ⟨mrising_mput k v h.1 (by intro lo e; cases e), all_mput _ k v h.2 (by simpa using hv)⟩

/-- Clearing a range keeps the canonical form. -/
theorem mwf_mclear {d : Nat → α} {m : SMap α} (lo hi : Nat) (h : mwf d m = true) : mwf d (mclear m lo hi) = true :=
  mwf_filter _ h

@[simp] theorem mwf_nil (d : Nat → α) : mwf d ([] : SMap α) = true := rfl

/-! Lists. -/

omit [DecidableEq α] in
@[simp] theorem lset_length (l : List α) (i : Nat) (v : α) : (lset l i v).length = l.length := by
  induction l generalizing i with
  | nil => rfl
  | cons a l ih => cases i <;> simp [lset, ih]

omit [DecidableEq α] in
theorem lget_lset (d : α) (l : List α) (i j : Nat) (v : α) (h : i < l.length) :
    lget d (lset l i v) j = if j = i then v else lget d l j := by
  induction l generalizing i j with
  | nil => simp at h
  | cons a l ih =>
    cases i with
    | zero => cases j <;> simp [lset, lget]
    | succ i =>
      cases j with
      | zero => simp [lset, lget]
      | succ j => simp only [lset, lget, ih i j (by simpa using h)]; simp

end Sys2Proof.Machine
end

