-- ==== Sys2Proof/Laws/State.lean ====
section
/-! SUPPORT. What the named operations leave unchanged: one lemma per field and operation. -/
namespace Sys2Proof.Machine
open Sys2Proof

variable (s : Dev)

@[simp] theorem setCore_pwrok (n : Nat) (c : Core) : (s.setCore n c).pwrok = s.pwrok := rfl
@[simp] theorem setCore_released (n : Nat) (c : Core) : (s.setCore n c).released = s.released := rfl
@[simp] theorem setCore_tripped (n : Nat) (c : Core) : (s.setCore n c).tripped = s.tripped := rfl
@[simp] theorem setCore_podz (n : Nat) (c : Core) : (s.setCore n c).podz = s.podz := rfl
@[simp] theorem setCore_partz (n : Nat) (c : Core) : (s.setCore n c).partz = s.partz := rfl
@[simp] theorem setCore_links (n : Nat) (c : Core) : (s.setCore n c).links = s.links := rfl
@[simp] theorem setCore_portA (n : Nat) (c : Core) : (s.setCore n c).portA = s.portA := rfl
@[simp] theorem setCore_portB (n : Nat) (c : Core) : (s.setCore n c).portB = s.portB := rfl
@[simp] theorem setCore_regs (n : Nat) (c : Core) : (s.setCore n c).regs = s.regs := rfl
@[simp] theorem setCore_ctrs (n : Nat) (c : Core) : (s.setCore n c).ctrs = s.ctrs := rfl
@[simp] theorem setCore_latch (n : Nat) (c : Core) : (s.setCore n c).latch = s.latch := rfl
@[simp] theorem setCore_crit (n : Nat) (c : Core) : (s.setCore n c).crit = s.crit := rfl
@[simp] theorem setCore_locks (n : Nat) (c : Core) : (s.setCore n c).locks = s.locks := rfl
@[simp] theorem setCore_bot (n : Nat) (c : Core) : (s.setCore n c).bot = s.bot := rfl
@[simp] theorem setCore_shoot (n : Nat) (c : Core) : (s.setCore n c).shoot = s.shoot := rfl
@[simp] theorem setCore_proc (n : Nat) (c : Core) : (s.setCore n c).proc = s.proc := rfl
@[simp] theorem setCore_releaseQ (n : Nat) (c : Core) : (s.setCore n c).releaseQ = s.releaseQ := rfl
@[simp] theorem setCore_net (n : Nat) (c : Core) : (s.setCore n c).net = s.net := rfl
@[simp] theorem setCore_power (n : Nat) (c : Core) : (s.setCore n c).power = s.power := rfl
@[simp] theorem setCore_alertMask (n : Nat) (c : Core) : (s.setCore n c).alertMask = s.alertMask := rfl
@[simp] theorem setCore_scopes (n : Nat) (c : Core) : (s.setCore n c).scopes = s.scopes := rfl
@[simp] theorem setCore_fresh (n : Nat) (c : Core) : (s.setCore n c).fresh = s.fresh := rfl
@[simp] theorem setCore_out (n : Nat) (c : Core) : (s.setCore n c).out = s.out := rfl

@[simp] theorem modCore_pwrok (n : Nat) (f : Core → Core) : (s.modCore n f).pwrok = s.pwrok := rfl
@[simp] theorem modCore_released (n : Nat) (f : Core → Core) : (s.modCore n f).released = s.released := rfl
@[simp] theorem modCore_tripped (n : Nat) (f : Core → Core) : (s.modCore n f).tripped = s.tripped := rfl
@[simp] theorem modCore_podz (n : Nat) (f : Core → Core) : (s.modCore n f).podz = s.podz := rfl
@[simp] theorem modCore_partz (n : Nat) (f : Core → Core) : (s.modCore n f).partz = s.partz := rfl
@[simp] theorem modCore_links (n : Nat) (f : Core → Core) : (s.modCore n f).links = s.links := rfl
@[simp] theorem modCore_portA (n : Nat) (f : Core → Core) : (s.modCore n f).portA = s.portA := rfl
@[simp] theorem modCore_portB (n : Nat) (f : Core → Core) : (s.modCore n f).portB = s.portB := rfl
@[simp] theorem modCore_regs (n : Nat) (f : Core → Core) : (s.modCore n f).regs = s.regs := rfl
@[simp] theorem modCore_ctrs (n : Nat) (f : Core → Core) : (s.modCore n f).ctrs = s.ctrs := rfl
@[simp] theorem modCore_latch (n : Nat) (f : Core → Core) : (s.modCore n f).latch = s.latch := rfl
@[simp] theorem modCore_crit (n : Nat) (f : Core → Core) : (s.modCore n f).crit = s.crit := rfl
@[simp] theorem modCore_locks (n : Nat) (f : Core → Core) : (s.modCore n f).locks = s.locks := rfl
@[simp] theorem modCore_bot (n : Nat) (f : Core → Core) : (s.modCore n f).bot = s.bot := rfl
@[simp] theorem modCore_shoot (n : Nat) (f : Core → Core) : (s.modCore n f).shoot = s.shoot := rfl
@[simp] theorem modCore_proc (n : Nat) (f : Core → Core) : (s.modCore n f).proc = s.proc := rfl
@[simp] theorem modCore_releaseQ (n : Nat) (f : Core → Core) : (s.modCore n f).releaseQ = s.releaseQ := rfl
@[simp] theorem modCore_net (n : Nat) (f : Core → Core) : (s.modCore n f).net = s.net := rfl
@[simp] theorem modCore_power (n : Nat) (f : Core → Core) : (s.modCore n f).power = s.power := rfl
@[simp] theorem modCore_alertMask (n : Nat) (f : Core → Core) : (s.modCore n f).alertMask = s.alertMask := rfl
@[simp] theorem modCore_scopes (n : Nat) (f : Core → Core) : (s.modCore n f).scopes = s.scopes := rfl
@[simp] theorem modCore_fresh (n : Nat) (f : Core → Core) : (s.modCore n f).fresh = s.fresh := rfl
@[simp] theorem modCore_out (n : Nat) (f : Core → Core) : (s.modCore n f).out = s.out := rfl

@[simp] theorem modPod_pwrok (p : Nat) (f : Pod → Pod) : (s.modPod p f).pwrok = s.pwrok := rfl
@[simp] theorem modPod_released (p : Nat) (f : Pod → Pod) : (s.modPod p f).released = s.released := rfl
@[simp] theorem modPod_tripped (p : Nat) (f : Pod → Pod) : (s.modPod p f).tripped = s.tripped := rfl
@[simp] theorem modPod_cores (p : Nat) (f : Pod → Pod) : (s.modPod p f).cores = s.cores := rfl
@[simp] theorem modPod_partz (p : Nat) (f : Pod → Pod) : (s.modPod p f).partz = s.partz := rfl
@[simp] theorem modPod_links (p : Nat) (f : Pod → Pod) : (s.modPod p f).links = s.links := rfl
@[simp] theorem modPod_portA (p : Nat) (f : Pod → Pod) : (s.modPod p f).portA = s.portA := rfl
@[simp] theorem modPod_portB (p : Nat) (f : Pod → Pod) : (s.modPod p f).portB = s.portB := rfl
@[simp] theorem modPod_regs (p : Nat) (f : Pod → Pod) : (s.modPod p f).regs = s.regs := rfl
@[simp] theorem modPod_ctrs (p : Nat) (f : Pod → Pod) : (s.modPod p f).ctrs = s.ctrs := rfl
@[simp] theorem modPod_latch (p : Nat) (f : Pod → Pod) : (s.modPod p f).latch = s.latch := rfl
@[simp] theorem modPod_crit (p : Nat) (f : Pod → Pod) : (s.modPod p f).crit = s.crit := rfl
@[simp] theorem modPod_locks (p : Nat) (f : Pod → Pod) : (s.modPod p f).locks = s.locks := rfl
@[simp] theorem modPod_bot (p : Nat) (f : Pod → Pod) : (s.modPod p f).bot = s.bot := rfl
@[simp] theorem modPod_shoot (p : Nat) (f : Pod → Pod) : (s.modPod p f).shoot = s.shoot := rfl
@[simp] theorem modPod_proc (p : Nat) (f : Pod → Pod) : (s.modPod p f).proc = s.proc := rfl
@[simp] theorem modPod_releaseQ (p : Nat) (f : Pod → Pod) : (s.modPod p f).releaseQ = s.releaseQ := rfl
@[simp] theorem modPod_net (p : Nat) (f : Pod → Pod) : (s.modPod p f).net = s.net := rfl
@[simp] theorem modPod_power (p : Nat) (f : Pod → Pod) : (s.modPod p f).power = s.power := rfl
@[simp] theorem modPod_alertMask (p : Nat) (f : Pod → Pod) : (s.modPod p f).alertMask = s.alertMask := rfl
@[simp] theorem modPod_scopes (p : Nat) (f : Pod → Pod) : (s.modPod p f).scopes = s.scopes := rfl
@[simp] theorem modPod_fresh (p : Nat) (f : Pod → Pod) : (s.modPod p f).fresh = s.fresh := rfl
@[simp] theorem modPod_out (p : Nat) (f : Pod → Pod) : (s.modPod p f).out = s.out := rfl

@[simp] theorem modPart_pwrok (P : Nat) (f : Part → Part) : (s.modPart P f).pwrok = s.pwrok := rfl
@[simp] theorem modPart_released (P : Nat) (f : Part → Part) : (s.modPart P f).released = s.released := rfl
@[simp] theorem modPart_tripped (P : Nat) (f : Part → Part) : (s.modPart P f).tripped = s.tripped := rfl
@[simp] theorem modPart_cores (P : Nat) (f : Part → Part) : (s.modPart P f).cores = s.cores := rfl
@[simp] theorem modPart_podz (P : Nat) (f : Part → Part) : (s.modPart P f).podz = s.podz := rfl
@[simp] theorem modPart_links (P : Nat) (f : Part → Part) : (s.modPart P f).links = s.links := rfl
@[simp] theorem modPart_portA (P : Nat) (f : Part → Part) : (s.modPart P f).portA = s.portA := rfl
@[simp] theorem modPart_portB (P : Nat) (f : Part → Part) : (s.modPart P f).portB = s.portB := rfl
@[simp] theorem modPart_regs (P : Nat) (f : Part → Part) : (s.modPart P f).regs = s.regs := rfl
@[simp] theorem modPart_ctrs (P : Nat) (f : Part → Part) : (s.modPart P f).ctrs = s.ctrs := rfl
@[simp] theorem modPart_latch (P : Nat) (f : Part → Part) : (s.modPart P f).latch = s.latch := rfl
@[simp] theorem modPart_crit (P : Nat) (f : Part → Part) : (s.modPart P f).crit = s.crit := rfl
@[simp] theorem modPart_locks (P : Nat) (f : Part → Part) : (s.modPart P f).locks = s.locks := rfl
@[simp] theorem modPart_bot (P : Nat) (f : Part → Part) : (s.modPart P f).bot = s.bot := rfl
@[simp] theorem modPart_shoot (P : Nat) (f : Part → Part) : (s.modPart P f).shoot = s.shoot := rfl
@[simp] theorem modPart_proc (P : Nat) (f : Part → Part) : (s.modPart P f).proc = s.proc := rfl
@[simp] theorem modPart_releaseQ (P : Nat) (f : Part → Part) : (s.modPart P f).releaseQ = s.releaseQ := rfl
@[simp] theorem modPart_net (P : Nat) (f : Part → Part) : (s.modPart P f).net = s.net := rfl
@[simp] theorem modPart_power (P : Nat) (f : Part → Part) : (s.modPart P f).power = s.power := rfl
@[simp] theorem modPart_alertMask (P : Nat) (f : Part → Part) : (s.modPart P f).alertMask = s.alertMask := rfl
@[simp] theorem modPart_scopes (P : Nat) (f : Part → Part) : (s.modPart P f).scopes = s.scopes := rfl
@[simp] theorem modPart_fresh (P : Nat) (f : Part → Part) : (s.modPart P f).fresh = s.fresh := rfl
@[simp] theorem modPart_out (P : Nat) (f : Part → Part) : (s.modPart P f).out = s.out := rfl

@[simp] theorem modLink_pwrok (k : Nat) (f : Link → Link) : (s.modLink k f).pwrok = s.pwrok := rfl
@[simp] theorem modLink_released (k : Nat) (f : Link → Link) : (s.modLink k f).released = s.released := rfl
@[simp] theorem modLink_tripped (k : Nat) (f : Link → Link) : (s.modLink k f).tripped = s.tripped := rfl
@[simp] theorem modLink_cores (k : Nat) (f : Link → Link) : (s.modLink k f).cores = s.cores := rfl
@[simp] theorem modLink_podz (k : Nat) (f : Link → Link) : (s.modLink k f).podz = s.podz := rfl
@[simp] theorem modLink_partz (k : Nat) (f : Link → Link) : (s.modLink k f).partz = s.partz := rfl
@[simp] theorem modLink_portA (k : Nat) (f : Link → Link) : (s.modLink k f).portA = s.portA := rfl
@[simp] theorem modLink_portB (k : Nat) (f : Link → Link) : (s.modLink k f).portB = s.portB := rfl
@[simp] theorem modLink_regs (k : Nat) (f : Link → Link) : (s.modLink k f).regs = s.regs := rfl
@[simp] theorem modLink_ctrs (k : Nat) (f : Link → Link) : (s.modLink k f).ctrs = s.ctrs := rfl
@[simp] theorem modLink_latch (k : Nat) (f : Link → Link) : (s.modLink k f).latch = s.latch := rfl
@[simp] theorem modLink_crit (k : Nat) (f : Link → Link) : (s.modLink k f).crit = s.crit := rfl
@[simp] theorem modLink_locks (k : Nat) (f : Link → Link) : (s.modLink k f).locks = s.locks := rfl
@[simp] theorem modLink_bot (k : Nat) (f : Link → Link) : (s.modLink k f).bot = s.bot := rfl
@[simp] theorem modLink_shoot (k : Nat) (f : Link → Link) : (s.modLink k f).shoot = s.shoot := rfl
@[simp] theorem modLink_proc (k : Nat) (f : Link → Link) : (s.modLink k f).proc = s.proc := rfl
@[simp] theorem modLink_releaseQ (k : Nat) (f : Link → Link) : (s.modLink k f).releaseQ = s.releaseQ := rfl
@[simp] theorem modLink_net (k : Nat) (f : Link → Link) : (s.modLink k f).net = s.net := rfl
@[simp] theorem modLink_power (k : Nat) (f : Link → Link) : (s.modLink k f).power = s.power := rfl
@[simp] theorem modLink_alertMask (k : Nat) (f : Link → Link) : (s.modLink k f).alertMask = s.alertMask := rfl
@[simp] theorem modLink_scopes (k : Nat) (f : Link → Link) : (s.modLink k f).scopes = s.scopes := rfl
@[simp] theorem modLink_fresh (k : Nat) (f : Link → Link) : (s.modLink k f).fresh = s.fresh := rfl
@[simp] theorem modLink_out (k : Nat) (f : Link → Link) : (s.modLink k f).out = s.out := rfl

@[simp] theorem modVault_pwrok (n : Nat) (f : Vault → Vault) : (s.modVault n f).pwrok = s.pwrok := rfl
@[simp] theorem modVault_released (n : Nat) (f : Vault → Vault) : (s.modVault n f).released = s.released := rfl
@[simp] theorem modVault_tripped (n : Nat) (f : Vault → Vault) : (s.modVault n f).tripped = s.tripped := rfl
@[simp] theorem modVault_podz (n : Nat) (f : Vault → Vault) : (s.modVault n f).podz = s.podz := rfl
@[simp] theorem modVault_partz (n : Nat) (f : Vault → Vault) : (s.modVault n f).partz = s.partz := rfl
@[simp] theorem modVault_links (n : Nat) (f : Vault → Vault) : (s.modVault n f).links = s.links := rfl
@[simp] theorem modVault_portA (n : Nat) (f : Vault → Vault) : (s.modVault n f).portA = s.portA := rfl
@[simp] theorem modVault_portB (n : Nat) (f : Vault → Vault) : (s.modVault n f).portB = s.portB := rfl
@[simp] theorem modVault_regs (n : Nat) (f : Vault → Vault) : (s.modVault n f).regs = s.regs := rfl
@[simp] theorem modVault_ctrs (n : Nat) (f : Vault → Vault) : (s.modVault n f).ctrs = s.ctrs := rfl
@[simp] theorem modVault_latch (n : Nat) (f : Vault → Vault) : (s.modVault n f).latch = s.latch := rfl
@[simp] theorem modVault_crit (n : Nat) (f : Vault → Vault) : (s.modVault n f).crit = s.crit := rfl
@[simp] theorem modVault_locks (n : Nat) (f : Vault → Vault) : (s.modVault n f).locks = s.locks := rfl
@[simp] theorem modVault_bot (n : Nat) (f : Vault → Vault) : (s.modVault n f).bot = s.bot := rfl
@[simp] theorem modVault_shoot (n : Nat) (f : Vault → Vault) : (s.modVault n f).shoot = s.shoot := rfl
@[simp] theorem modVault_proc (n : Nat) (f : Vault → Vault) : (s.modVault n f).proc = s.proc := rfl
@[simp] theorem modVault_releaseQ (n : Nat) (f : Vault → Vault) : (s.modVault n f).releaseQ = s.releaseQ := rfl
@[simp] theorem modVault_net (n : Nat) (f : Vault → Vault) : (s.modVault n f).net = s.net := rfl
@[simp] theorem modVault_power (n : Nat) (f : Vault → Vault) : (s.modVault n f).power = s.power := rfl
@[simp] theorem modVault_alertMask (n : Nat) (f : Vault → Vault) : (s.modVault n f).alertMask = s.alertMask := rfl
@[simp] theorem modVault_scopes (n : Nat) (f : Vault → Vault) : (s.modVault n f).scopes = s.scopes := rfl
@[simp] theorem modVault_fresh (n : Nat) (f : Vault → Vault) : (s.modVault n f).fresh = s.fresh := rfl
@[simp] theorem modVault_out (n : Nat) (f : Vault → Vault) : (s.modVault n f).out = s.out := rfl

@[simp] theorem emit_pwrok (o : Out) : (s.emit o).pwrok = s.pwrok := rfl
@[simp] theorem emit_released (o : Out) : (s.emit o).released = s.released := rfl
@[simp] theorem emit_tripped (o : Out) : (s.emit o).tripped = s.tripped := rfl
@[simp] theorem emit_cores (o : Out) : (s.emit o).cores = s.cores := rfl
@[simp] theorem emit_podz (o : Out) : (s.emit o).podz = s.podz := rfl
@[simp] theorem emit_partz (o : Out) : (s.emit o).partz = s.partz := rfl
@[simp] theorem emit_links (o : Out) : (s.emit o).links = s.links := rfl
@[simp] theorem emit_portA (o : Out) : (s.emit o).portA = s.portA := rfl
@[simp] theorem emit_portB (o : Out) : (s.emit o).portB = s.portB := rfl
@[simp] theorem emit_regs (o : Out) : (s.emit o).regs = s.regs := rfl
@[simp] theorem emit_ctrs (o : Out) : (s.emit o).ctrs = s.ctrs := rfl
@[simp] theorem emit_latch (o : Out) : (s.emit o).latch = s.latch := rfl
@[simp] theorem emit_crit (o : Out) : (s.emit o).crit = s.crit := rfl
@[simp] theorem emit_locks (o : Out) : (s.emit o).locks = s.locks := rfl
@[simp] theorem emit_bot (o : Out) : (s.emit o).bot = s.bot := rfl
@[simp] theorem emit_shoot (o : Out) : (s.emit o).shoot = s.shoot := rfl
@[simp] theorem emit_proc (o : Out) : (s.emit o).proc = s.proc := rfl
@[simp] theorem emit_releaseQ (o : Out) : (s.emit o).releaseQ = s.releaseQ := rfl
@[simp] theorem emit_net (o : Out) : (s.emit o).net = s.net := rfl
@[simp] theorem emit_power (o : Out) : (s.emit o).power = s.power := rfl
@[simp] theorem emit_alertMask (o : Out) : (s.emit o).alertMask = s.alertMask := rfl
@[simp] theorem emit_scopes (o : Out) : (s.emit o).scopes = s.scopes := rfl
@[simp] theorem emit_fresh (o : Out) : (s.emit o).fresh = s.fresh := rfl

@[simp] theorem setReg_pwrok (k : Nat) (v : Word) : (s.setReg k v).pwrok = s.pwrok := rfl
@[simp] theorem setReg_released (k : Nat) (v : Word) : (s.setReg k v).released = s.released := rfl
@[simp] theorem setReg_tripped (k : Nat) (v : Word) : (s.setReg k v).tripped = s.tripped := rfl
@[simp] theorem setReg_cores (k : Nat) (v : Word) : (s.setReg k v).cores = s.cores := rfl
@[simp] theorem setReg_podz (k : Nat) (v : Word) : (s.setReg k v).podz = s.podz := rfl
@[simp] theorem setReg_partz (k : Nat) (v : Word) : (s.setReg k v).partz = s.partz := rfl
@[simp] theorem setReg_links (k : Nat) (v : Word) : (s.setReg k v).links = s.links := rfl
@[simp] theorem setReg_portA (k : Nat) (v : Word) : (s.setReg k v).portA = s.portA := rfl
@[simp] theorem setReg_portB (k : Nat) (v : Word) : (s.setReg k v).portB = s.portB := rfl
@[simp] theorem setReg_ctrs (k : Nat) (v : Word) : (s.setReg k v).ctrs = s.ctrs := rfl
@[simp] theorem setReg_latch (k : Nat) (v : Word) : (s.setReg k v).latch = s.latch := rfl
@[simp] theorem setReg_crit (k : Nat) (v : Word) : (s.setReg k v).crit = s.crit := rfl
@[simp] theorem setReg_locks (k : Nat) (v : Word) : (s.setReg k v).locks = s.locks := rfl
@[simp] theorem setReg_bot (k : Nat) (v : Word) : (s.setReg k v).bot = s.bot := rfl
@[simp] theorem setReg_shoot (k : Nat) (v : Word) : (s.setReg k v).shoot = s.shoot := rfl
@[simp] theorem setReg_proc (k : Nat) (v : Word) : (s.setReg k v).proc = s.proc := rfl
@[simp] theorem setReg_releaseQ (k : Nat) (v : Word) : (s.setReg k v).releaseQ = s.releaseQ := rfl
@[simp] theorem setReg_net (k : Nat) (v : Word) : (s.setReg k v).net = s.net := rfl
@[simp] theorem setReg_power (k : Nat) (v : Word) : (s.setReg k v).power = s.power := rfl
@[simp] theorem setReg_alertMask (k : Nat) (v : Word) : (s.setReg k v).alertMask = s.alertMask := rfl
@[simp] theorem setReg_scopes (k : Nat) (v : Word) : (s.setReg k v).scopes = s.scopes := rfl
@[simp] theorem setReg_fresh (k : Nat) (v : Word) : (s.setReg k v).fresh = s.fresh := rfl
@[simp] theorem setReg_out (k : Nat) (v : Word) : (s.setReg k v).out = s.out := rfl

@[simp] theorem setFld_pwrok (k lo w v : Nat) : (s.setFld k lo w v).pwrok = s.pwrok := by unfold Dev.setFld; rw [setReg_pwrok]
@[simp] theorem setFld_released (k lo w v : Nat) : (s.setFld k lo w v).released = s.released := by unfold Dev.setFld; rw [setReg_released]
@[simp] theorem setFld_tripped (k lo w v : Nat) : (s.setFld k lo w v).tripped = s.tripped := by unfold Dev.setFld; rw [setReg_tripped]
@[simp] theorem setFld_cores (k lo w v : Nat) : (s.setFld k lo w v).cores = s.cores := by unfold Dev.setFld; rw [setReg_cores]
@[simp] theorem setFld_podz (k lo w v : Nat) : (s.setFld k lo w v).podz = s.podz := by unfold Dev.setFld; rw [setReg_podz]
@[simp] theorem setFld_partz (k lo w v : Nat) : (s.setFld k lo w v).partz = s.partz := by unfold Dev.setFld; rw [setReg_partz]
@[simp] theorem setFld_links (k lo w v : Nat) : (s.setFld k lo w v).links = s.links := by unfold Dev.setFld; rw [setReg_links]
@[simp] theorem setFld_portA (k lo w v : Nat) : (s.setFld k lo w v).portA = s.portA := by unfold Dev.setFld; rw [setReg_portA]
@[simp] theorem setFld_portB (k lo w v : Nat) : (s.setFld k lo w v).portB = s.portB := by unfold Dev.setFld; rw [setReg_portB]
@[simp] theorem setFld_ctrs (k lo w v : Nat) : (s.setFld k lo w v).ctrs = s.ctrs := by unfold Dev.setFld; rw [setReg_ctrs]
@[simp] theorem setFld_latch (k lo w v : Nat) : (s.setFld k lo w v).latch = s.latch := by unfold Dev.setFld; rw [setReg_latch]
@[simp] theorem setFld_crit (k lo w v : Nat) : (s.setFld k lo w v).crit = s.crit := by unfold Dev.setFld; rw [setReg_crit]
@[simp] theorem setFld_locks (k lo w v : Nat) : (s.setFld k lo w v).locks = s.locks := by unfold Dev.setFld; rw [setReg_locks]
@[simp] theorem setFld_bot (k lo w v : Nat) : (s.setFld k lo w v).bot = s.bot := by unfold Dev.setFld; rw [setReg_bot]
@[simp] theorem setFld_shoot (k lo w v : Nat) : (s.setFld k lo w v).shoot = s.shoot := by unfold Dev.setFld; rw [setReg_shoot]
@[simp] theorem setFld_proc (k lo w v : Nat) : (s.setFld k lo w v).proc = s.proc := by unfold Dev.setFld; rw [setReg_proc]
@[simp] theorem setFld_releaseQ (k lo w v : Nat) : (s.setFld k lo w v).releaseQ = s.releaseQ := by unfold Dev.setFld; rw [setReg_releaseQ]
@[simp] theorem setFld_net (k lo w v : Nat) : (s.setFld k lo w v).net = s.net := by unfold Dev.setFld; rw [setReg_net]
@[simp] theorem setFld_power (k lo w v : Nat) : (s.setFld k lo w v).power = s.power := by unfold Dev.setFld; rw [setReg_power]
@[simp] theorem setFld_alertMask (k lo w v : Nat) : (s.setFld k lo w v).alertMask = s.alertMask := by unfold Dev.setFld; rw [setReg_alertMask]
@[simp] theorem setFld_scopes (k lo w v : Nat) : (s.setFld k lo w v).scopes = s.scopes := by unfold Dev.setFld; rw [setReg_scopes]
@[simp] theorem setFld_fresh (k lo w v : Nat) : (s.setFld k lo w v).fresh = s.fresh := by unfold Dev.setFld; rw [setReg_fresh]
@[simp] theorem setFld_out (k lo w v : Nat) : (s.setFld k lo w v).out = s.out := by unfold Dev.setFld; rw [setReg_out]

@[simp] theorem orReg_pwrok (k : Nat) (m : Word) : (s.orReg k m).pwrok = s.pwrok := by unfold Dev.orReg; rw [setReg_pwrok]
@[simp] theorem orReg_released (k : Nat) (m : Word) : (s.orReg k m).released = s.released := by unfold Dev.orReg; rw [setReg_released]
@[simp] theorem orReg_tripped (k : Nat) (m : Word) : (s.orReg k m).tripped = s.tripped := by unfold Dev.orReg; rw [setReg_tripped]
@[simp] theorem orReg_cores (k : Nat) (m : Word) : (s.orReg k m).cores = s.cores := by unfold Dev.orReg; rw [setReg_cores]
@[simp] theorem orReg_podz (k : Nat) (m : Word) : (s.orReg k m).podz = s.podz := by unfold Dev.orReg; rw [setReg_podz]
@[simp] theorem orReg_partz (k : Nat) (m : Word) : (s.orReg k m).partz = s.partz := by unfold Dev.orReg; rw [setReg_partz]
@[simp] theorem orReg_links (k : Nat) (m : Word) : (s.orReg k m).links = s.links := by unfold Dev.orReg; rw [setReg_links]
@[simp] theorem orReg_portA (k : Nat) (m : Word) : (s.orReg k m).portA = s.portA := by unfold Dev.orReg; rw [setReg_portA]
@[simp] theorem orReg_portB (k : Nat) (m : Word) : (s.orReg k m).portB = s.portB := by unfold Dev.orReg; rw [setReg_portB]
@[simp] theorem orReg_ctrs (k : Nat) (m : Word) : (s.orReg k m).ctrs = s.ctrs := by unfold Dev.orReg; rw [setReg_ctrs]
@[simp] theorem orReg_latch (k : Nat) (m : Word) : (s.orReg k m).latch = s.latch := by unfold Dev.orReg; rw [setReg_latch]
@[simp] theorem orReg_crit (k : Nat) (m : Word) : (s.orReg k m).crit = s.crit := by unfold Dev.orReg; rw [setReg_crit]
@[simp] theorem orReg_locks (k : Nat) (m : Word) : (s.orReg k m).locks = s.locks := by unfold Dev.orReg; rw [setReg_locks]
@[simp] theorem orReg_bot (k : Nat) (m : Word) : (s.orReg k m).bot = s.bot := by unfold Dev.orReg; rw [setReg_bot]
@[simp] theorem orReg_shoot (k : Nat) (m : Word) : (s.orReg k m).shoot = s.shoot := by unfold Dev.orReg; rw [setReg_shoot]
@[simp] theorem orReg_proc (k : Nat) (m : Word) : (s.orReg k m).proc = s.proc := by unfold Dev.orReg; rw [setReg_proc]
@[simp] theorem orReg_releaseQ (k : Nat) (m : Word) : (s.orReg k m).releaseQ = s.releaseQ := by unfold Dev.orReg; rw [setReg_releaseQ]
@[simp] theorem orReg_net (k : Nat) (m : Word) : (s.orReg k m).net = s.net := by unfold Dev.orReg; rw [setReg_net]
@[simp] theorem orReg_power (k : Nat) (m : Word) : (s.orReg k m).power = s.power := by unfold Dev.orReg; rw [setReg_power]
@[simp] theorem orReg_alertMask (k : Nat) (m : Word) : (s.orReg k m).alertMask = s.alertMask := by unfold Dev.orReg; rw [setReg_alertMask]
@[simp] theorem orReg_scopes (k : Nat) (m : Word) : (s.orReg k m).scopes = s.scopes := by unfold Dev.orReg; rw [setReg_scopes]
@[simp] theorem orReg_fresh (k : Nat) (m : Word) : (s.orReg k m).fresh = s.fresh := by unfold Dev.orReg; rw [setReg_fresh]
@[simp] theorem orReg_out (k : Nat) (m : Word) : (s.orReg k m).out = s.out := by unfold Dev.orReg; rw [setReg_out]

@[simp] theorem setLock_pwrok (pg : Nat) (b : Bool) : (s.setLock pg b).pwrok = s.pwrok := rfl
@[simp] theorem setLock_released (pg : Nat) (b : Bool) : (s.setLock pg b).released = s.released := rfl
@[simp] theorem setLock_tripped (pg : Nat) (b : Bool) : (s.setLock pg b).tripped = s.tripped := rfl
@[simp] theorem setLock_cores (pg : Nat) (b : Bool) : (s.setLock pg b).cores = s.cores := rfl
@[simp] theorem setLock_podz (pg : Nat) (b : Bool) : (s.setLock pg b).podz = s.podz := rfl
@[simp] theorem setLock_partz (pg : Nat) (b : Bool) : (s.setLock pg b).partz = s.partz := rfl
@[simp] theorem setLock_links (pg : Nat) (b : Bool) : (s.setLock pg b).links = s.links := rfl
@[simp] theorem setLock_portA (pg : Nat) (b : Bool) : (s.setLock pg b).portA = s.portA := rfl
@[simp] theorem setLock_portB (pg : Nat) (b : Bool) : (s.setLock pg b).portB = s.portB := rfl
@[simp] theorem setLock_regs (pg : Nat) (b : Bool) : (s.setLock pg b).regs = s.regs := rfl
@[simp] theorem setLock_ctrs (pg : Nat) (b : Bool) : (s.setLock pg b).ctrs = s.ctrs := rfl
@[simp] theorem setLock_latch (pg : Nat) (b : Bool) : (s.setLock pg b).latch = s.latch := rfl
@[simp] theorem setLock_crit (pg : Nat) (b : Bool) : (s.setLock pg b).crit = s.crit := rfl
@[simp] theorem setLock_bot (pg : Nat) (b : Bool) : (s.setLock pg b).bot = s.bot := rfl
@[simp] theorem setLock_shoot (pg : Nat) (b : Bool) : (s.setLock pg b).shoot = s.shoot := rfl
@[simp] theorem setLock_proc (pg : Nat) (b : Bool) : (s.setLock pg b).proc = s.proc := rfl
@[simp] theorem setLock_releaseQ (pg : Nat) (b : Bool) : (s.setLock pg b).releaseQ = s.releaseQ := rfl
@[simp] theorem setLock_net (pg : Nat) (b : Bool) : (s.setLock pg b).net = s.net := rfl
@[simp] theorem setLock_power (pg : Nat) (b : Bool) : (s.setLock pg b).power = s.power := rfl
@[simp] theorem setLock_alertMask (pg : Nat) (b : Bool) : (s.setLock pg b).alertMask = s.alertMask := rfl
@[simp] theorem setLock_scopes (pg : Nat) (b : Bool) : (s.setLock pg b).scopes = s.scopes := rfl
@[simp] theorem setLock_fresh (pg : Nat) (b : Bool) : (s.setLock pg b).fresh = s.fresh := rfl
@[simp] theorem setLock_out (pg : Nat) (b : Bool) : (s.setLock pg b).out = s.out := rfl

theorem withCrit_pwrok (c : SMap Tri) : ({ s with crit := c } : Dev).pwrok = s.pwrok := rfl
@[simp] theorem setTri_pwrok (c w : Nat) (t : Tri) : (s.setTri c w t).pwrok = s.pwrok := withCrit_pwrok s _
theorem withCrit_released (c : SMap Tri) : ({ s with crit := c } : Dev).released = s.released := rfl
@[simp] theorem setTri_released (c w : Nat) (t : Tri) : (s.setTri c w t).released = s.released := withCrit_released s _
theorem withCrit_tripped (c : SMap Tri) : ({ s with crit := c } : Dev).tripped = s.tripped := rfl
@[simp] theorem setTri_tripped (c w : Nat) (t : Tri) : (s.setTri c w t).tripped = s.tripped := withCrit_tripped s _
theorem withCrit_cores (c : SMap Tri) : ({ s with crit := c } : Dev).cores = s.cores := rfl
@[simp] theorem setTri_cores (c w : Nat) (t : Tri) : (s.setTri c w t).cores = s.cores := withCrit_cores s _
theorem withCrit_podz (c : SMap Tri) : ({ s with crit := c } : Dev).podz = s.podz := rfl
@[simp] theorem setTri_podz (c w : Nat) (t : Tri) : (s.setTri c w t).podz = s.podz := withCrit_podz s _
theorem withCrit_partz (c : SMap Tri) : ({ s with crit := c } : Dev).partz = s.partz := rfl
@[simp] theorem setTri_partz (c w : Nat) (t : Tri) : (s.setTri c w t).partz = s.partz := withCrit_partz s _
theorem withCrit_links (c : SMap Tri) : ({ s with crit := c } : Dev).links = s.links := rfl
@[simp] theorem setTri_links (c w : Nat) (t : Tri) : (s.setTri c w t).links = s.links := withCrit_links s _
theorem withCrit_portA (c : SMap Tri) : ({ s with crit := c } : Dev).portA = s.portA := rfl
@[simp] theorem setTri_portA (c w : Nat) (t : Tri) : (s.setTri c w t).portA = s.portA := withCrit_portA s _
theorem withCrit_portB (c : SMap Tri) : ({ s with crit := c } : Dev).portB = s.portB := rfl
@[simp] theorem setTri_portB (c w : Nat) (t : Tri) : (s.setTri c w t).portB = s.portB := withCrit_portB s _
theorem withCrit_regs (c : SMap Tri) : ({ s with crit := c } : Dev).regs = s.regs := rfl
@[simp] theorem setTri_regs (c w : Nat) (t : Tri) : (s.setTri c w t).regs = s.regs := withCrit_regs s _
theorem withCrit_ctrs (c : SMap Tri) : ({ s with crit := c } : Dev).ctrs = s.ctrs := rfl
@[simp] theorem setTri_ctrs (c w : Nat) (t : Tri) : (s.setTri c w t).ctrs = s.ctrs := withCrit_ctrs s _
theorem withCrit_latch (c : SMap Tri) : ({ s with crit := c } : Dev).latch = s.latch := rfl
@[simp] theorem setTri_latch (c w : Nat) (t : Tri) : (s.setTri c w t).latch = s.latch := withCrit_latch s _
theorem withCrit_locks (c : SMap Tri) : ({ s with crit := c } : Dev).locks = s.locks := rfl
@[simp] theorem setTri_locks (c w : Nat) (t : Tri) : (s.setTri c w t).locks = s.locks := withCrit_locks s _
theorem withCrit_bot (c : SMap Tri) : ({ s with crit := c } : Dev).bot = s.bot := rfl
@[simp] theorem setTri_bot (c w : Nat) (t : Tri) : (s.setTri c w t).bot = s.bot := withCrit_bot s _
theorem withCrit_shoot (c : SMap Tri) : ({ s with crit := c } : Dev).shoot = s.shoot := rfl
@[simp] theorem setTri_shoot (c w : Nat) (t : Tri) : (s.setTri c w t).shoot = s.shoot := withCrit_shoot s _
theorem withCrit_proc (c : SMap Tri) : ({ s with crit := c } : Dev).proc = s.proc := rfl
@[simp] theorem setTri_proc (c w : Nat) (t : Tri) : (s.setTri c w t).proc = s.proc := withCrit_proc s _
theorem withCrit_releaseQ (c : SMap Tri) : ({ s with crit := c } : Dev).releaseQ = s.releaseQ := rfl
@[simp] theorem setTri_releaseQ (c w : Nat) (t : Tri) : (s.setTri c w t).releaseQ = s.releaseQ := withCrit_releaseQ s _
theorem withCrit_net (c : SMap Tri) : ({ s with crit := c } : Dev).net = s.net := rfl
@[simp] theorem setTri_net (c w : Nat) (t : Tri) : (s.setTri c w t).net = s.net := withCrit_net s _
theorem withCrit_power (c : SMap Tri) : ({ s with crit := c } : Dev).power = s.power := rfl
@[simp] theorem setTri_power (c w : Nat) (t : Tri) : (s.setTri c w t).power = s.power := withCrit_power s _
theorem withCrit_alertMask (c : SMap Tri) : ({ s with crit := c } : Dev).alertMask = s.alertMask := rfl
@[simp] theorem setTri_alertMask (c w : Nat) (t : Tri) : (s.setTri c w t).alertMask = s.alertMask := withCrit_alertMask s _
theorem withCrit_scopes (c : SMap Tri) : ({ s with crit := c } : Dev).scopes = s.scopes := rfl
@[simp] theorem setTri_scopes (c w : Nat) (t : Tri) : (s.setTri c w t).scopes = s.scopes := withCrit_scopes s _
theorem withCrit_fresh (c : SMap Tri) : ({ s with crit := c } : Dev).fresh = s.fresh := rfl
@[simp] theorem setTri_fresh (c w : Nat) (t : Tri) : (s.setTri c w t).fresh = s.fresh := withCrit_fresh s _
theorem withCrit_out (c : SMap Tri) : ({ s with crit := c } : Dev).out = s.out := rfl
@[simp] theorem setTri_out (c w : Nat) (t : Tri) : (s.setTri c w t).out = s.out := withCrit_out s _

@[simp] theorem inject_pwrok (p : Packet) : (s.inject p).pwrok = s.pwrok := rfl
@[simp] theorem inject_released (p : Packet) : (s.inject p).released = s.released := rfl
@[simp] theorem inject_tripped (p : Packet) : (s.inject p).tripped = s.tripped := rfl
@[simp] theorem inject_cores (p : Packet) : (s.inject p).cores = s.cores := rfl
@[simp] theorem inject_podz (p : Packet) : (s.inject p).podz = s.podz := rfl
@[simp] theorem inject_partz (p : Packet) : (s.inject p).partz = s.partz := rfl
@[simp] theorem inject_links (p : Packet) : (s.inject p).links = s.links := rfl
@[simp] theorem inject_portA (p : Packet) : (s.inject p).portA = s.portA := rfl
@[simp] theorem inject_portB (p : Packet) : (s.inject p).portB = s.portB := rfl
@[simp] theorem inject_regs (p : Packet) : (s.inject p).regs = s.regs := rfl
@[simp] theorem inject_ctrs (p : Packet) : (s.inject p).ctrs = s.ctrs := rfl
@[simp] theorem inject_latch (p : Packet) : (s.inject p).latch = s.latch := rfl
@[simp] theorem inject_crit (p : Packet) : (s.inject p).crit = s.crit := rfl
@[simp] theorem inject_locks (p : Packet) : (s.inject p).locks = s.locks := rfl
@[simp] theorem inject_bot (p : Packet) : (s.inject p).bot = s.bot := rfl
@[simp] theorem inject_shoot (p : Packet) : (s.inject p).shoot = s.shoot := rfl
@[simp] theorem inject_proc (p : Packet) : (s.inject p).proc = s.proc := rfl
@[simp] theorem inject_releaseQ (p : Packet) : (s.inject p).releaseQ = s.releaseQ := rfl
@[simp] theorem inject_power (p : Packet) : (s.inject p).power = s.power := rfl
@[simp] theorem inject_alertMask (p : Packet) : (s.inject p).alertMask = s.alertMask := rfl
@[simp] theorem inject_scopes (p : Packet) : (s.inject p).scopes = s.scopes := rfl
@[simp] theorem inject_fresh (p : Packet) : (s.inject p).fresh = s.fresh := rfl
@[simp] theorem inject_out (p : Packet) : (s.inject p).out = s.out := rfl

@[simp] theorem dropPkt_pwrok (k : Nat) : (s.dropPkt k).pwrok = s.pwrok := rfl
@[simp] theorem dropPkt_released (k : Nat) : (s.dropPkt k).released = s.released := rfl
@[simp] theorem dropPkt_tripped (k : Nat) : (s.dropPkt k).tripped = s.tripped := rfl
@[simp] theorem dropPkt_cores (k : Nat) : (s.dropPkt k).cores = s.cores := rfl
@[simp] theorem dropPkt_podz (k : Nat) : (s.dropPkt k).podz = s.podz := rfl
@[simp] theorem dropPkt_partz (k : Nat) : (s.dropPkt k).partz = s.partz := rfl
@[simp] theorem dropPkt_links (k : Nat) : (s.dropPkt k).links = s.links := rfl
@[simp] theorem dropPkt_portA (k : Nat) : (s.dropPkt k).portA = s.portA := rfl
@[simp] theorem dropPkt_portB (k : Nat) : (s.dropPkt k).portB = s.portB := rfl
@[simp] theorem dropPkt_regs (k : Nat) : (s.dropPkt k).regs = s.regs := rfl
@[simp] theorem dropPkt_ctrs (k : Nat) : (s.dropPkt k).ctrs = s.ctrs := rfl
@[simp] theorem dropPkt_latch (k : Nat) : (s.dropPkt k).latch = s.latch := rfl
@[simp] theorem dropPkt_crit (k : Nat) : (s.dropPkt k).crit = s.crit := rfl
@[simp] theorem dropPkt_locks (k : Nat) : (s.dropPkt k).locks = s.locks := rfl
@[simp] theorem dropPkt_bot (k : Nat) : (s.dropPkt k).bot = s.bot := rfl
@[simp] theorem dropPkt_shoot (k : Nat) : (s.dropPkt k).shoot = s.shoot := rfl
@[simp] theorem dropPkt_proc (k : Nat) : (s.dropPkt k).proc = s.proc := rfl
@[simp] theorem dropPkt_releaseQ (k : Nat) : (s.dropPkt k).releaseQ = s.releaseQ := rfl
@[simp] theorem dropPkt_power (k : Nat) : (s.dropPkt k).power = s.power := rfl
@[simp] theorem dropPkt_alertMask (k : Nat) : (s.dropPkt k).alertMask = s.alertMask := rfl
@[simp] theorem dropPkt_scopes (k : Nat) : (s.dropPkt k).scopes = s.scopes := rfl
@[simp] theorem dropPkt_fresh (k : Nat) : (s.dropPkt k).fresh = s.fresh := rfl
@[simp] theorem dropPkt_out (k : Nat) : (s.dropPkt k).out = s.out := rfl

@[simp] theorem modStrm_pwrok (n : Nat) (i : StreamId) (f : Stream → Stream) : (s.modStrm n i f).pwrok = s.pwrok := rfl
@[simp] theorem modStrm_released (n : Nat) (i : StreamId) (f : Stream → Stream) : (s.modStrm n i f).released = s.released := rfl
@[simp] theorem modStrm_tripped (n : Nat) (i : StreamId) (f : Stream → Stream) : (s.modStrm n i f).tripped = s.tripped := rfl
@[simp] theorem modStrm_podz (n : Nat) (i : StreamId) (f : Stream → Stream) : (s.modStrm n i f).podz = s.podz := rfl
@[simp] theorem modStrm_partz (n : Nat) (i : StreamId) (f : Stream → Stream) : (s.modStrm n i f).partz = s.partz := rfl
@[simp] theorem modStrm_links (n : Nat) (i : StreamId) (f : Stream → Stream) : (s.modStrm n i f).links = s.links := rfl
@[simp] theorem modStrm_portA (n : Nat) (i : StreamId) (f : Stream → Stream) : (s.modStrm n i f).portA = s.portA := rfl
@[simp] theorem modStrm_portB (n : Nat) (i : StreamId) (f : Stream → Stream) : (s.modStrm n i f).portB = s.portB := rfl
@[simp] theorem modStrm_regs (n : Nat) (i : StreamId) (f : Stream → Stream) : (s.modStrm n i f).regs = s.regs := rfl
@[simp] theorem modStrm_ctrs (n : Nat) (i : StreamId) (f : Stream → Stream) : (s.modStrm n i f).ctrs = s.ctrs := rfl
@[simp] theorem modStrm_latch (n : Nat) (i : StreamId) (f : Stream → Stream) : (s.modStrm n i f).latch = s.latch := rfl
@[simp] theorem modStrm_crit (n : Nat) (i : StreamId) (f : Stream → Stream) : (s.modStrm n i f).crit = s.crit := rfl
@[simp] theorem modStrm_locks (n : Nat) (i : StreamId) (f : Stream → Stream) : (s.modStrm n i f).locks = s.locks := rfl
@[simp] theorem modStrm_bot (n : Nat) (i : StreamId) (f : Stream → Stream) : (s.modStrm n i f).bot = s.bot := rfl
@[simp] theorem modStrm_shoot (n : Nat) (i : StreamId) (f : Stream → Stream) : (s.modStrm n i f).shoot = s.shoot := rfl
@[simp] theorem modStrm_proc (n : Nat) (i : StreamId) (f : Stream → Stream) : (s.modStrm n i f).proc = s.proc := rfl
@[simp] theorem modStrm_releaseQ (n : Nat) (i : StreamId) (f : Stream → Stream) : (s.modStrm n i f).releaseQ = s.releaseQ := rfl
@[simp] theorem modStrm_net (n : Nat) (i : StreamId) (f : Stream → Stream) : (s.modStrm n i f).net = s.net := rfl
@[simp] theorem modStrm_power (n : Nat) (i : StreamId) (f : Stream → Stream) : (s.modStrm n i f).power = s.power := rfl
@[simp] theorem modStrm_alertMask (n : Nat) (i : StreamId) (f : Stream → Stream) : (s.modStrm n i f).alertMask = s.alertMask := rfl
@[simp] theorem modStrm_scopes (n : Nat) (i : StreamId) (f : Stream → Stream) : (s.modStrm n i f).scopes = s.scopes := rfl
@[simp] theorem modStrm_fresh (n : Nat) (i : StreamId) (f : Stream → Stream) : (s.modStrm n i f).fresh = s.fresh := rfl
@[simp] theorem modStrm_out (n : Nat) (i : StreamId) (f : Stream → Stream) : (s.modStrm n i f).out = s.out := rfl

@[simp] theorem setFlag_pwrok (n f kind src : Nat) : (s.setFlag n f kind src).pwrok = s.pwrok := by unfold Dev.setFlag; rw [setReg_pwrok, modCore_pwrok]
@[simp] theorem setFlag_released (n f kind src : Nat) : (s.setFlag n f kind src).released = s.released := by unfold Dev.setFlag; rw [setReg_released, modCore_released]
@[simp] theorem setFlag_tripped (n f kind src : Nat) : (s.setFlag n f kind src).tripped = s.tripped := by unfold Dev.setFlag; rw [setReg_tripped, modCore_tripped]
@[simp] theorem setFlag_podz (n f kind src : Nat) : (s.setFlag n f kind src).podz = s.podz := by unfold Dev.setFlag; rw [setReg_podz, modCore_podz]
@[simp] theorem setFlag_partz (n f kind src : Nat) : (s.setFlag n f kind src).partz = s.partz := by unfold Dev.setFlag; rw [setReg_partz, modCore_partz]
@[simp] theorem setFlag_links (n f kind src : Nat) : (s.setFlag n f kind src).links = s.links := by unfold Dev.setFlag; rw [setReg_links, modCore_links]
@[simp] theorem setFlag_portA (n f kind src : Nat) : (s.setFlag n f kind src).portA = s.portA := by unfold Dev.setFlag; rw [setReg_portA, modCore_portA]
@[simp] theorem setFlag_portB (n f kind src : Nat) : (s.setFlag n f kind src).portB = s.portB := by unfold Dev.setFlag; rw [setReg_portB, modCore_portB]
@[simp] theorem setFlag_ctrs (n f kind src : Nat) : (s.setFlag n f kind src).ctrs = s.ctrs := by unfold Dev.setFlag; rw [setReg_ctrs, modCore_ctrs]
@[simp] theorem setFlag_latch (n f kind src : Nat) : (s.setFlag n f kind src).latch = s.latch := by unfold Dev.setFlag; rw [setReg_latch, modCore_latch]
@[simp] theorem setFlag_crit (n f kind src : Nat) : (s.setFlag n f kind src).crit = s.crit := by unfold Dev.setFlag; rw [setReg_crit, modCore_crit]
@[simp] theorem setFlag_locks (n f kind src : Nat) : (s.setFlag n f kind src).locks = s.locks := by unfold Dev.setFlag; rw [setReg_locks, modCore_locks]
@[simp] theorem setFlag_bot (n f kind src : Nat) : (s.setFlag n f kind src).bot = s.bot := by unfold Dev.setFlag; rw [setReg_bot, modCore_bot]
@[simp] theorem setFlag_shoot (n f kind src : Nat) : (s.setFlag n f kind src).shoot = s.shoot := by unfold Dev.setFlag; rw [setReg_shoot, modCore_shoot]
@[simp] theorem setFlag_proc (n f kind src : Nat) : (s.setFlag n f kind src).proc = s.proc := by unfold Dev.setFlag; rw [setReg_proc, modCore_proc]
@[simp] theorem setFlag_releaseQ (n f kind src : Nat) : (s.setFlag n f kind src).releaseQ = s.releaseQ := by unfold Dev.setFlag; rw [setReg_releaseQ, modCore_releaseQ]
@[simp] theorem setFlag_net (n f kind src : Nat) : (s.setFlag n f kind src).net = s.net := by unfold Dev.setFlag; rw [setReg_net, modCore_net]
@[simp] theorem setFlag_power (n f kind src : Nat) : (s.setFlag n f kind src).power = s.power := by unfold Dev.setFlag; rw [setReg_power, modCore_power]
@[simp] theorem setFlag_alertMask (n f kind src : Nat) : (s.setFlag n f kind src).alertMask = s.alertMask := by unfold Dev.setFlag; rw [setReg_alertMask, modCore_alertMask]
@[simp] theorem setFlag_scopes (n f kind src : Nat) : (s.setFlag n f kind src).scopes = s.scopes := by unfold Dev.setFlag; rw [setReg_scopes, modCore_scopes]
@[simp] theorem setFlag_fresh (n f kind src : Nat) : (s.setFlag n f kind src).fresh = s.fresh := by unfold Dev.setFlag; rw [setReg_fresh, modCore_fresh]
@[simp] theorem setFlag_out (n f kind src : Nat) : (s.setFlag n f kind src).out = s.out := by unfold Dev.setFlag; rw [setReg_out, modCore_out]

@[simp] theorem clrFlag_pwrok (n f : Nat) : (s.clrFlag n f).pwrok = s.pwrok := rfl
@[simp] theorem clrFlag_released (n f : Nat) : (s.clrFlag n f).released = s.released := rfl
@[simp] theorem clrFlag_tripped (n f : Nat) : (s.clrFlag n f).tripped = s.tripped := rfl
@[simp] theorem clrFlag_podz (n f : Nat) : (s.clrFlag n f).podz = s.podz := rfl
@[simp] theorem clrFlag_partz (n f : Nat) : (s.clrFlag n f).partz = s.partz := rfl
@[simp] theorem clrFlag_links (n f : Nat) : (s.clrFlag n f).links = s.links := rfl
@[simp] theorem clrFlag_portA (n f : Nat) : (s.clrFlag n f).portA = s.portA := rfl
@[simp] theorem clrFlag_portB (n f : Nat) : (s.clrFlag n f).portB = s.portB := rfl
@[simp] theorem clrFlag_regs (n f : Nat) : (s.clrFlag n f).regs = s.regs := rfl
@[simp] theorem clrFlag_ctrs (n f : Nat) : (s.clrFlag n f).ctrs = s.ctrs := rfl
@[simp] theorem clrFlag_latch (n f : Nat) : (s.clrFlag n f).latch = s.latch := rfl
@[simp] theorem clrFlag_crit (n f : Nat) : (s.clrFlag n f).crit = s.crit := rfl
@[simp] theorem clrFlag_locks (n f : Nat) : (s.clrFlag n f).locks = s.locks := rfl
@[simp] theorem clrFlag_bot (n f : Nat) : (s.clrFlag n f).bot = s.bot := rfl
@[simp] theorem clrFlag_shoot (n f : Nat) : (s.clrFlag n f).shoot = s.shoot := rfl
@[simp] theorem clrFlag_proc (n f : Nat) : (s.clrFlag n f).proc = s.proc := rfl
@[simp] theorem clrFlag_releaseQ (n f : Nat) : (s.clrFlag n f).releaseQ = s.releaseQ := rfl
@[simp] theorem clrFlag_net (n f : Nat) : (s.clrFlag n f).net = s.net := rfl
@[simp] theorem clrFlag_power (n f : Nat) : (s.clrFlag n f).power = s.power := rfl
@[simp] theorem clrFlag_alertMask (n f : Nat) : (s.clrFlag n f).alertMask = s.alertMask := rfl
@[simp] theorem clrFlag_scopes (n f : Nat) : (s.clrFlag n f).scopes = s.scopes := rfl
@[simp] theorem clrFlag_fresh (n f : Nat) : (s.clrFlag n f).fresh = s.fresh := rfl
@[simp] theorem clrFlag_out (n f : Nat) : (s.clrFlag n f).out = s.out := rfl

@[simp] theorem closeReq_pwrok (n t : Nat) : (s.closeReq n t).pwrok = s.pwrok := rfl
@[simp] theorem closeReq_released (n t : Nat) : (s.closeReq n t).released = s.released := rfl
@[simp] theorem closeReq_tripped (n t : Nat) : (s.closeReq n t).tripped = s.tripped := rfl
@[simp] theorem closeReq_podz (n t : Nat) : (s.closeReq n t).podz = s.podz := rfl
@[simp] theorem closeReq_partz (n t : Nat) : (s.closeReq n t).partz = s.partz := rfl
@[simp] theorem closeReq_links (n t : Nat) : (s.closeReq n t).links = s.links := rfl
@[simp] theorem closeReq_portA (n t : Nat) : (s.closeReq n t).portA = s.portA := rfl
@[simp] theorem closeReq_portB (n t : Nat) : (s.closeReq n t).portB = s.portB := rfl
@[simp] theorem closeReq_regs (n t : Nat) : (s.closeReq n t).regs = s.regs := rfl
@[simp] theorem closeReq_ctrs (n t : Nat) : (s.closeReq n t).ctrs = s.ctrs := rfl
@[simp] theorem closeReq_latch (n t : Nat) : (s.closeReq n t).latch = s.latch := rfl
@[simp] theorem closeReq_crit (n t : Nat) : (s.closeReq n t).crit = s.crit := rfl
@[simp] theorem closeReq_locks (n t : Nat) : (s.closeReq n t).locks = s.locks := rfl
@[simp] theorem closeReq_bot (n t : Nat) : (s.closeReq n t).bot = s.bot := rfl
@[simp] theorem closeReq_shoot (n t : Nat) : (s.closeReq n t).shoot = s.shoot := rfl
@[simp] theorem closeReq_proc (n t : Nat) : (s.closeReq n t).proc = s.proc := rfl
@[simp] theorem closeReq_releaseQ (n t : Nat) : (s.closeReq n t).releaseQ = s.releaseQ := rfl
@[simp] theorem closeReq_net (n t : Nat) : (s.closeReq n t).net = s.net := rfl
@[simp] theorem closeReq_power (n t : Nat) : (s.closeReq n t).power = s.power := rfl
@[simp] theorem closeReq_alertMask (n t : Nat) : (s.closeReq n t).alertMask = s.alertMask := rfl
@[simp] theorem closeReq_scopes (n t : Nat) : (s.closeReq n t).scopes = s.scopes := rfl
@[simp] theorem closeReq_fresh (n t : Nat) : (s.closeReq n t).fresh = s.fresh := rfl
@[simp] theorem closeReq_out (n t : Nat) : (s.closeReq n t).out = s.out := rfl

@[simp] theorem modPort_pwrok (p : Port) (f : PciePort → PciePort) : (s.modPort p f).pwrok = s.pwrok := by cases p <;> rfl
@[simp] theorem modPort_released (p : Port) (f : PciePort → PciePort) : (s.modPort p f).released = s.released := by cases p <;> rfl
@[simp] theorem modPort_tripped (p : Port) (f : PciePort → PciePort) : (s.modPort p f).tripped = s.tripped := by cases p <;> rfl
@[simp] theorem modPort_cores (p : Port) (f : PciePort → PciePort) : (s.modPort p f).cores = s.cores := by cases p <;> rfl
@[simp] theorem modPort_podz (p : Port) (f : PciePort → PciePort) : (s.modPort p f).podz = s.podz := by cases p <;> rfl
@[simp] theorem modPort_partz (p : Port) (f : PciePort → PciePort) : (s.modPort p f).partz = s.partz := by cases p <;> rfl
@[simp] theorem modPort_links (p : Port) (f : PciePort → PciePort) : (s.modPort p f).links = s.links := by cases p <;> rfl
@[simp] theorem modPort_regs (p : Port) (f : PciePort → PciePort) : (s.modPort p f).regs = s.regs := by cases p <;> rfl
@[simp] theorem modPort_ctrs (p : Port) (f : PciePort → PciePort) : (s.modPort p f).ctrs = s.ctrs := by cases p <;> rfl
@[simp] theorem modPort_latch (p : Port) (f : PciePort → PciePort) : (s.modPort p f).latch = s.latch := by cases p <;> rfl
@[simp] theorem modPort_crit (p : Port) (f : PciePort → PciePort) : (s.modPort p f).crit = s.crit := by cases p <;> rfl
@[simp] theorem modPort_locks (p : Port) (f : PciePort → PciePort) : (s.modPort p f).locks = s.locks := by cases p <;> rfl
@[simp] theorem modPort_bot (p : Port) (f : PciePort → PciePort) : (s.modPort p f).bot = s.bot := by cases p <;> rfl
@[simp] theorem modPort_shoot (p : Port) (f : PciePort → PciePort) : (s.modPort p f).shoot = s.shoot := by cases p <;> rfl
@[simp] theorem modPort_proc (p : Port) (f : PciePort → PciePort) : (s.modPort p f).proc = s.proc := by cases p <;> rfl
@[simp] theorem modPort_releaseQ (p : Port) (f : PciePort → PciePort) : (s.modPort p f).releaseQ = s.releaseQ := by cases p <;> rfl
@[simp] theorem modPort_net (p : Port) (f : PciePort → PciePort) : (s.modPort p f).net = s.net := by cases p <;> rfl
@[simp] theorem modPort_power (p : Port) (f : PciePort → PciePort) : (s.modPort p f).power = s.power := by cases p <;> rfl
@[simp] theorem modPort_alertMask (p : Port) (f : PciePort → PciePort) : (s.modPort p f).alertMask = s.alertMask := by cases p <;> rfl
@[simp] theorem modPort_scopes (p : Port) (f : PciePort → PciePort) : (s.modPort p f).scopes = s.scopes := by cases p <;> rfl
@[simp] theorem modPort_fresh (p : Port) (f : PciePort → PciePort) : (s.modPort p f).fresh = s.fresh := by cases p <;> rfl
@[simp] theorem modPort_out (p : Port) (f : PciePort → PciePort) : (s.modPort p f).out = s.out := by cases p <;> rfl

@[simp] theorem bumpAt_pwrok (a n : Nat) : (s.bumpAt a n).pwrok = s.pwrok := by unfold Dev.bumpAt; split <;> rfl
@[simp] theorem bumpAt_released (a n : Nat) : (s.bumpAt a n).released = s.released := by unfold Dev.bumpAt; split <;> rfl
@[simp] theorem bumpAt_tripped (a n : Nat) : (s.bumpAt a n).tripped = s.tripped := by unfold Dev.bumpAt; split <;> rfl
@[simp] theorem bumpAt_cores (a n : Nat) : (s.bumpAt a n).cores = s.cores := by unfold Dev.bumpAt; split <;> rfl
@[simp] theorem bumpAt_podz (a n : Nat) : (s.bumpAt a n).podz = s.podz := by unfold Dev.bumpAt; split <;> rfl
@[simp] theorem bumpAt_partz (a n : Nat) : (s.bumpAt a n).partz = s.partz := by unfold Dev.bumpAt; split <;> rfl
@[simp] theorem bumpAt_links (a n : Nat) : (s.bumpAt a n).links = s.links := by unfold Dev.bumpAt; split <;> rfl
@[simp] theorem bumpAt_portA (a n : Nat) : (s.bumpAt a n).portA = s.portA := by unfold Dev.bumpAt; split <;> rfl
@[simp] theorem bumpAt_portB (a n : Nat) : (s.bumpAt a n).portB = s.portB := by unfold Dev.bumpAt; split <;> rfl
@[simp] theorem bumpAt_regs (a n : Nat) : (s.bumpAt a n).regs = s.regs := by unfold Dev.bumpAt; split <;> rfl
@[simp] theorem bumpAt_latch (a n : Nat) : (s.bumpAt a n).latch = s.latch := by unfold Dev.bumpAt; split <;> rfl
@[simp] theorem bumpAt_crit (a n : Nat) : (s.bumpAt a n).crit = s.crit := by unfold Dev.bumpAt; split <;> rfl
@[simp] theorem bumpAt_locks (a n : Nat) : (s.bumpAt a n).locks = s.locks := by unfold Dev.bumpAt; split <;> rfl
@[simp] theorem bumpAt_bot (a n : Nat) : (s.bumpAt a n).bot = s.bot := by unfold Dev.bumpAt; split <;> rfl
@[simp] theorem bumpAt_shoot (a n : Nat) : (s.bumpAt a n).shoot = s.shoot := by unfold Dev.bumpAt; split <;> rfl
@[simp] theorem bumpAt_proc (a n : Nat) : (s.bumpAt a n).proc = s.proc := by unfold Dev.bumpAt; split <;> rfl
@[simp] theorem bumpAt_releaseQ (a n : Nat) : (s.bumpAt a n).releaseQ = s.releaseQ := by unfold Dev.bumpAt; split <;> rfl
@[simp] theorem bumpAt_net (a n : Nat) : (s.bumpAt a n).net = s.net := by unfold Dev.bumpAt; split <;> rfl
@[simp] theorem bumpAt_power (a n : Nat) : (s.bumpAt a n).power = s.power := by unfold Dev.bumpAt; split <;> rfl
@[simp] theorem bumpAt_alertMask (a n : Nat) : (s.bumpAt a n).alertMask = s.alertMask := by unfold Dev.bumpAt; split <;> rfl
@[simp] theorem bumpAt_scopes (a n : Nat) : (s.bumpAt a n).scopes = s.scopes := by unfold Dev.bumpAt; split <;> rfl
@[simp] theorem bumpAt_fresh (a n : Nat) : (s.bumpAt a n).fresh = s.fresh := by unfold Dev.bumpAt; split <;> rfl
@[simp] theorem bumpAt_out (a n : Nat) : (s.bumpAt a n).out = s.out := by unfold Dev.bumpAt; split <;> rfl

@[simp] theorem bump_pwrok (pg i n : Nat) : (s.bump pg i n).pwrok = s.pwrok := by simp [Dev.bump]
@[simp] theorem bump_released (pg i n : Nat) : (s.bump pg i n).released = s.released := by simp [Dev.bump]
@[simp] theorem bump_tripped (pg i n : Nat) : (s.bump pg i n).tripped = s.tripped := by simp [Dev.bump]
@[simp] theorem bump_cores (pg i n : Nat) : (s.bump pg i n).cores = s.cores := by simp [Dev.bump]
@[simp] theorem bump_podz (pg i n : Nat) : (s.bump pg i n).podz = s.podz := by simp [Dev.bump]
@[simp] theorem bump_partz (pg i n : Nat) : (s.bump pg i n).partz = s.partz := by simp [Dev.bump]
@[simp] theorem bump_links (pg i n : Nat) : (s.bump pg i n).links = s.links := by simp [Dev.bump]
@[simp] theorem bump_portA (pg i n : Nat) : (s.bump pg i n).portA = s.portA := by simp [Dev.bump]
@[simp] theorem bump_portB (pg i n : Nat) : (s.bump pg i n).portB = s.portB := by simp [Dev.bump]
@[simp] theorem bump_regs (pg i n : Nat) : (s.bump pg i n).regs = s.regs := by simp [Dev.bump]
@[simp] theorem bump_latch (pg i n : Nat) : (s.bump pg i n).latch = s.latch := by simp [Dev.bump]
@[simp] theorem bump_crit (pg i n : Nat) : (s.bump pg i n).crit = s.crit := by simp [Dev.bump]
@[simp] theorem bump_locks (pg i n : Nat) : (s.bump pg i n).locks = s.locks := by simp [Dev.bump]
@[simp] theorem bump_bot (pg i n : Nat) : (s.bump pg i n).bot = s.bot := by simp [Dev.bump]
@[simp] theorem bump_shoot (pg i n : Nat) : (s.bump pg i n).shoot = s.shoot := by simp [Dev.bump]
@[simp] theorem bump_proc (pg i n : Nat) : (s.bump pg i n).proc = s.proc := by simp [Dev.bump]
@[simp] theorem bump_releaseQ (pg i n : Nat) : (s.bump pg i n).releaseQ = s.releaseQ := by simp [Dev.bump]
@[simp] theorem bump_net (pg i n : Nat) : (s.bump pg i n).net = s.net := by simp [Dev.bump]
@[simp] theorem bump_power (pg i n : Nat) : (s.bump pg i n).power = s.power := by simp [Dev.bump]
@[simp] theorem bump_alertMask (pg i n : Nat) : (s.bump pg i n).alertMask = s.alertMask := by simp [Dev.bump]
@[simp] theorem bump_scopes (pg i n : Nat) : (s.bump pg i n).scopes = s.scopes := by simp [Dev.bump]
@[simp] theorem bump_fresh (pg i n : Nat) : (s.bump pg i n).fresh = s.fresh := by simp [Dev.bump]
@[simp] theorem bump_out (pg i n : Nat) : (s.bump pg i n).out = s.out := by simp [Dev.bump]

@[simp] theorem sendMsix_pwrok (p : Port) (v : Nat) : (s.sendMsix p v).pwrok = s.pwrok := by simp [Dev.sendMsix]
@[simp] theorem sendMsix_released (p : Port) (v : Nat) : (s.sendMsix p v).released = s.released := by simp [Dev.sendMsix]
@[simp] theorem sendMsix_tripped (p : Port) (v : Nat) : (s.sendMsix p v).tripped = s.tripped := by simp [Dev.sendMsix]
@[simp] theorem sendMsix_cores (p : Port) (v : Nat) : (s.sendMsix p v).cores = s.cores := by simp [Dev.sendMsix]
@[simp] theorem sendMsix_podz (p : Port) (v : Nat) : (s.sendMsix p v).podz = s.podz := by simp [Dev.sendMsix]
@[simp] theorem sendMsix_partz (p : Port) (v : Nat) : (s.sendMsix p v).partz = s.partz := by simp [Dev.sendMsix]
@[simp] theorem sendMsix_links (p : Port) (v : Nat) : (s.sendMsix p v).links = s.links := by simp [Dev.sendMsix]
@[simp] theorem sendMsix_portA (p : Port) (v : Nat) : (s.sendMsix p v).portA = s.portA := by simp [Dev.sendMsix]
@[simp] theorem sendMsix_portB (p : Port) (v : Nat) : (s.sendMsix p v).portB = s.portB := by simp [Dev.sendMsix]
@[simp] theorem sendMsix_regs (p : Port) (v : Nat) : (s.sendMsix p v).regs = s.regs := by simp [Dev.sendMsix]
@[simp] theorem sendMsix_latch (p : Port) (v : Nat) : (s.sendMsix p v).latch = s.latch := by simp [Dev.sendMsix]
@[simp] theorem sendMsix_crit (p : Port) (v : Nat) : (s.sendMsix p v).crit = s.crit := by simp [Dev.sendMsix]
@[simp] theorem sendMsix_locks (p : Port) (v : Nat) : (s.sendMsix p v).locks = s.locks := by simp [Dev.sendMsix]
@[simp] theorem sendMsix_bot (p : Port) (v : Nat) : (s.sendMsix p v).bot = s.bot := by simp [Dev.sendMsix]
@[simp] theorem sendMsix_shoot (p : Port) (v : Nat) : (s.sendMsix p v).shoot = s.shoot := by simp [Dev.sendMsix]
@[simp] theorem sendMsix_proc (p : Port) (v : Nat) : (s.sendMsix p v).proc = s.proc := by simp [Dev.sendMsix]
@[simp] theorem sendMsix_releaseQ (p : Port) (v : Nat) : (s.sendMsix p v).releaseQ = s.releaseQ := by simp [Dev.sendMsix]
@[simp] theorem sendMsix_net (p : Port) (v : Nat) : (s.sendMsix p v).net = s.net := by simp [Dev.sendMsix]
@[simp] theorem sendMsix_power (p : Port) (v : Nat) : (s.sendMsix p v).power = s.power := by simp [Dev.sendMsix]
@[simp] theorem sendMsix_alertMask (p : Port) (v : Nat) : (s.sendMsix p v).alertMask = s.alertMask := by simp [Dev.sendMsix]
@[simp] theorem sendMsix_scopes (p : Port) (v : Nat) : (s.sendMsix p v).scopes = s.scopes := by simp [Dev.sendMsix]
@[simp] theorem sendMsix_fresh (p : Port) (v : Nat) : (s.sendMsix p v).fresh = s.fresh := by simp [Dev.sendMsix]

@[simp] theorem vecLook_pwrok (p : Port) (v : Nat) (again : Bool) : (s.vecLook p v again).pwrok = s.pwrok := by simp only [Dev.vecLook]; split <;> (try split) <;> simp
@[simp] theorem vecLook_released (p : Port) (v : Nat) (again : Bool) : (s.vecLook p v again).released = s.released := by simp only [Dev.vecLook]; split <;> (try split) <;> simp
@[simp] theorem vecLook_tripped (p : Port) (v : Nat) (again : Bool) : (s.vecLook p v again).tripped = s.tripped := by simp only [Dev.vecLook]; split <;> (try split) <;> simp
@[simp] theorem vecLook_cores (p : Port) (v : Nat) (again : Bool) : (s.vecLook p v again).cores = s.cores := by simp only [Dev.vecLook]; split <;> (try split) <;> simp
@[simp] theorem vecLook_podz (p : Port) (v : Nat) (again : Bool) : (s.vecLook p v again).podz = s.podz := by simp only [Dev.vecLook]; split <;> (try split) <;> simp
@[simp] theorem vecLook_partz (p : Port) (v : Nat) (again : Bool) : (s.vecLook p v again).partz = s.partz := by simp only [Dev.vecLook]; split <;> (try split) <;> simp
@[simp] theorem vecLook_links (p : Port) (v : Nat) (again : Bool) : (s.vecLook p v again).links = s.links := by simp only [Dev.vecLook]; split <;> (try split) <;> simp
@[simp] theorem vecLook_regs (p : Port) (v : Nat) (again : Bool) : (s.vecLook p v again).regs = s.regs := by simp only [Dev.vecLook]; split <;> (try split) <;> simp
@[simp] theorem vecLook_latch (p : Port) (v : Nat) (again : Bool) : (s.vecLook p v again).latch = s.latch := by simp only [Dev.vecLook]; split <;> (try split) <;> simp
@[simp] theorem vecLook_crit (p : Port) (v : Nat) (again : Bool) : (s.vecLook p v again).crit = s.crit := by simp only [Dev.vecLook]; split <;> (try split) <;> simp
@[simp] theorem vecLook_locks (p : Port) (v : Nat) (again : Bool) : (s.vecLook p v again).locks = s.locks := by simp only [Dev.vecLook]; split <;> (try split) <;> simp
@[simp] theorem vecLook_bot (p : Port) (v : Nat) (again : Bool) : (s.vecLook p v again).bot = s.bot := by simp only [Dev.vecLook]; split <;> (try split) <;> simp
@[simp] theorem vecLook_shoot (p : Port) (v : Nat) (again : Bool) : (s.vecLook p v again).shoot = s.shoot := by simp only [Dev.vecLook]; split <;> (try split) <;> simp
@[simp] theorem vecLook_proc (p : Port) (v : Nat) (again : Bool) : (s.vecLook p v again).proc = s.proc := by simp only [Dev.vecLook]; split <;> (try split) <;> simp
@[simp] theorem vecLook_releaseQ (p : Port) (v : Nat) (again : Bool) : (s.vecLook p v again).releaseQ = s.releaseQ := by simp only [Dev.vecLook]; split <;> (try split) <;> simp
@[simp] theorem vecLook_net (p : Port) (v : Nat) (again : Bool) : (s.vecLook p v again).net = s.net := by simp only [Dev.vecLook]; split <;> (try split) <;> simp
@[simp] theorem vecLook_power (p : Port) (v : Nat) (again : Bool) : (s.vecLook p v again).power = s.power := by simp only [Dev.vecLook]; split <;> (try split) <;> simp
@[simp] theorem vecLook_alertMask (p : Port) (v : Nat) (again : Bool) : (s.vecLook p v again).alertMask = s.alertMask := by simp only [Dev.vecLook]; split <;> (try split) <;> simp
@[simp] theorem vecLook_scopes (p : Port) (v : Nat) (again : Bool) : (s.vecLook p v again).scopes = s.scopes := by simp only [Dev.vecLook]; split <;> (try split) <;> simp
@[simp] theorem vecLook_fresh (p : Port) (v : Nat) (again : Bool) : (s.vecLook p v again).fresh = s.fresh := by simp only [Dev.vecLook]; split <;> (try split) <;> simp

@[simp] theorem pageLook_pwrok (pg : Nat) (again : Bool) : (s.pageLook pg again).pwrok = s.pwrok := by unfold Dev.pageLook; split <;> simp
@[simp] theorem pageLook_released (pg : Nat) (again : Bool) : (s.pageLook pg again).released = s.released := by unfold Dev.pageLook; split <;> simp
@[simp] theorem pageLook_tripped (pg : Nat) (again : Bool) : (s.pageLook pg again).tripped = s.tripped := by unfold Dev.pageLook; split <;> simp
@[simp] theorem pageLook_cores (pg : Nat) (again : Bool) : (s.pageLook pg again).cores = s.cores := by unfold Dev.pageLook; split <;> simp
@[simp] theorem pageLook_podz (pg : Nat) (again : Bool) : (s.pageLook pg again).podz = s.podz := by unfold Dev.pageLook; split <;> simp
@[simp] theorem pageLook_partz (pg : Nat) (again : Bool) : (s.pageLook pg again).partz = s.partz := by unfold Dev.pageLook; split <;> simp
@[simp] theorem pageLook_links (pg : Nat) (again : Bool) : (s.pageLook pg again).links = s.links := by unfold Dev.pageLook; split <;> simp
@[simp] theorem pageLook_regs (pg : Nat) (again : Bool) : (s.pageLook pg again).regs = s.regs := by unfold Dev.pageLook; split <;> simp
@[simp] theorem pageLook_latch (pg : Nat) (again : Bool) : (s.pageLook pg again).latch = s.latch := by unfold Dev.pageLook; split <;> simp
@[simp] theorem pageLook_crit (pg : Nat) (again : Bool) : (s.pageLook pg again).crit = s.crit := by unfold Dev.pageLook; split <;> simp
@[simp] theorem pageLook_locks (pg : Nat) (again : Bool) : (s.pageLook pg again).locks = s.locks := by unfold Dev.pageLook; split <;> simp
@[simp] theorem pageLook_bot (pg : Nat) (again : Bool) : (s.pageLook pg again).bot = s.bot := by unfold Dev.pageLook; split <;> simp
@[simp] theorem pageLook_shoot (pg : Nat) (again : Bool) : (s.pageLook pg again).shoot = s.shoot := by unfold Dev.pageLook; split <;> simp
@[simp] theorem pageLook_proc (pg : Nat) (again : Bool) : (s.pageLook pg again).proc = s.proc := by unfold Dev.pageLook; split <;> simp
@[simp] theorem pageLook_releaseQ (pg : Nat) (again : Bool) : (s.pageLook pg again).releaseQ = s.releaseQ := by unfold Dev.pageLook; split <;> simp
@[simp] theorem pageLook_net (pg : Nat) (again : Bool) : (s.pageLook pg again).net = s.net := by unfold Dev.pageLook; split <;> simp
@[simp] theorem pageLook_power (pg : Nat) (again : Bool) : (s.pageLook pg again).power = s.power := by unfold Dev.pageLook; split <;> simp
@[simp] theorem pageLook_alertMask (pg : Nat) (again : Bool) : (s.pageLook pg again).alertMask = s.alertMask := by unfold Dev.pageLook; split <;> simp
@[simp] theorem pageLook_scopes (pg : Nat) (again : Bool) : (s.pageLook pg again).scopes = s.scopes := by unfold Dev.pageLook; split <;> simp
@[simp] theorem pageLook_fresh (pg : Nat) (again : Bool) : (s.pageLook pg again).fresh = s.fresh := by unfold Dev.pageLook; split <;> simp

@[simp] theorem raise_pwrok (pg : Nat) (m : Word) : (s.raise pg m).pwrok = s.pwrok := by simp [Dev.raise]
@[simp] theorem raise_released (pg : Nat) (m : Word) : (s.raise pg m).released = s.released := by simp [Dev.raise]
@[simp] theorem raise_tripped (pg : Nat) (m : Word) : (s.raise pg m).tripped = s.tripped := by simp [Dev.raise]
@[simp] theorem raise_cores (pg : Nat) (m : Word) : (s.raise pg m).cores = s.cores := by simp [Dev.raise]
@[simp] theorem raise_podz (pg : Nat) (m : Word) : (s.raise pg m).podz = s.podz := by simp [Dev.raise]
@[simp] theorem raise_partz (pg : Nat) (m : Word) : (s.raise pg m).partz = s.partz := by simp [Dev.raise]
@[simp] theorem raise_links (pg : Nat) (m : Word) : (s.raise pg m).links = s.links := by simp [Dev.raise]
@[simp] theorem raise_latch (pg : Nat) (m : Word) : (s.raise pg m).latch = s.latch := by simp [Dev.raise]
@[simp] theorem raise_crit (pg : Nat) (m : Word) : (s.raise pg m).crit = s.crit := by simp [Dev.raise]
@[simp] theorem raise_locks (pg : Nat) (m : Word) : (s.raise pg m).locks = s.locks := by simp [Dev.raise]
@[simp] theorem raise_bot (pg : Nat) (m : Word) : (s.raise pg m).bot = s.bot := by simp [Dev.raise]
@[simp] theorem raise_shoot (pg : Nat) (m : Word) : (s.raise pg m).shoot = s.shoot := by simp [Dev.raise]
@[simp] theorem raise_proc (pg : Nat) (m : Word) : (s.raise pg m).proc = s.proc := by simp [Dev.raise]
@[simp] theorem raise_releaseQ (pg : Nat) (m : Word) : (s.raise pg m).releaseQ = s.releaseQ := by simp [Dev.raise]
@[simp] theorem raise_net (pg : Nat) (m : Word) : (s.raise pg m).net = s.net := by simp [Dev.raise]
@[simp] theorem raise_power (pg : Nat) (m : Word) : (s.raise pg m).power = s.power := by simp [Dev.raise]
@[simp] theorem raise_alertMask (pg : Nat) (m : Word) : (s.raise pg m).alertMask = s.alertMask := by simp [Dev.raise]
@[simp] theorem raise_scopes (pg : Nat) (m : Word) : (s.raise pg m).scopes = s.scopes := by simp [Dev.raise]
@[simp] theorem raise_fresh (pg : Nat) (m : Word) : (s.raise pg m).fresh = s.fresh := by simp [Dev.raise]

@[simp] theorem evt_pwrok (pg b : Nat) : (s.evt pg b).pwrok = s.pwrok := by simp [Dev.evt]
@[simp] theorem evt_released (pg b : Nat) : (s.evt pg b).released = s.released := by simp [Dev.evt]
@[simp] theorem evt_tripped (pg b : Nat) : (s.evt pg b).tripped = s.tripped := by simp [Dev.evt]
@[simp] theorem evt_cores (pg b : Nat) : (s.evt pg b).cores = s.cores := by simp [Dev.evt]
@[simp] theorem evt_podz (pg b : Nat) : (s.evt pg b).podz = s.podz := by simp [Dev.evt]
@[simp] theorem evt_partz (pg b : Nat) : (s.evt pg b).partz = s.partz := by simp [Dev.evt]
@[simp] theorem evt_links (pg b : Nat) : (s.evt pg b).links = s.links := by simp [Dev.evt]
@[simp] theorem evt_latch (pg b : Nat) : (s.evt pg b).latch = s.latch := by simp [Dev.evt]
@[simp] theorem evt_crit (pg b : Nat) : (s.evt pg b).crit = s.crit := by simp [Dev.evt]
@[simp] theorem evt_locks (pg b : Nat) : (s.evt pg b).locks = s.locks := by simp [Dev.evt]
@[simp] theorem evt_bot (pg b : Nat) : (s.evt pg b).bot = s.bot := by simp [Dev.evt]
@[simp] theorem evt_shoot (pg b : Nat) : (s.evt pg b).shoot = s.shoot := by simp [Dev.evt]
@[simp] theorem evt_proc (pg b : Nat) : (s.evt pg b).proc = s.proc := by simp [Dev.evt]
@[simp] theorem evt_releaseQ (pg b : Nat) : (s.evt pg b).releaseQ = s.releaseQ := by simp [Dev.evt]
@[simp] theorem evt_net (pg b : Nat) : (s.evt pg b).net = s.net := by simp [Dev.evt]
@[simp] theorem evt_power (pg b : Nat) : (s.evt pg b).power = s.power := by simp [Dev.evt]
@[simp] theorem evt_alertMask (pg b : Nat) : (s.evt pg b).alertMask = s.alertMask := by simp [Dev.evt]
@[simp] theorem evt_scopes (pg b : Nat) : (s.evt pg b).scopes = s.scopes := by simp [Dev.evt]
@[simp] theorem evt_fresh (pg b : Nat) : (s.evt pg b).fresh = s.fresh := by simp [Dev.evt]

@[simp] theorem critW_pwrok (c w v : Nat) : (s.critW c w v).pwrok = s.pwrok := by
  unfold Dev.critW; extract_lets; split
  · rw [evt_pwrok, bump_pwrok, setReg_pwrok, setTri_pwrok]
  · rw [setTri_pwrok]
@[simp] theorem critW_released (c w v : Nat) : (s.critW c w v).released = s.released := by
  unfold Dev.critW; extract_lets; split
  · rw [evt_released, bump_released, setReg_released, setTri_released]
  · rw [setTri_released]
@[simp] theorem critW_tripped (c w v : Nat) : (s.critW c w v).tripped = s.tripped := by
  unfold Dev.critW; extract_lets; split
  · rw [evt_tripped, bump_tripped, setReg_tripped, setTri_tripped]
  · rw [setTri_tripped]
@[simp] theorem critW_cores (c w v : Nat) : (s.critW c w v).cores = s.cores := by
  unfold Dev.critW; extract_lets; split
  · rw [evt_cores, bump_cores, setReg_cores, setTri_cores]
  · rw [setTri_cores]
@[simp] theorem critW_podz (c w v : Nat) : (s.critW c w v).podz = s.podz := by
  unfold Dev.critW; extract_lets; split
  · rw [evt_podz, bump_podz, setReg_podz, setTri_podz]
  · rw [setTri_podz]
@[simp] theorem critW_partz (c w v : Nat) : (s.critW c w v).partz = s.partz := by
  unfold Dev.critW; extract_lets; split
  · rw [evt_partz, bump_partz, setReg_partz, setTri_partz]
  · rw [setTri_partz]
@[simp] theorem critW_links (c w v : Nat) : (s.critW c w v).links = s.links := by
  unfold Dev.critW; extract_lets; split
  · rw [evt_links, bump_links, setReg_links, setTri_links]
  · rw [setTri_links]
@[simp] theorem critW_latch (c w v : Nat) : (s.critW c w v).latch = s.latch := by
  unfold Dev.critW; extract_lets; split
  · rw [evt_latch, bump_latch, setReg_latch, setTri_latch]
  · rw [setTri_latch]
@[simp] theorem critW_locks (c w v : Nat) : (s.critW c w v).locks = s.locks := by
  unfold Dev.critW; extract_lets; split
  · rw [evt_locks, bump_locks, setReg_locks, setTri_locks]
  · rw [setTri_locks]
@[simp] theorem critW_bot (c w v : Nat) : (s.critW c w v).bot = s.bot := by
  unfold Dev.critW; extract_lets; split
  · rw [evt_bot, bump_bot, setReg_bot, setTri_bot]
  · rw [setTri_bot]
@[simp] theorem critW_shoot (c w v : Nat) : (s.critW c w v).shoot = s.shoot := by
  unfold Dev.critW; extract_lets; split
  · rw [evt_shoot, bump_shoot, setReg_shoot, setTri_shoot]
  · rw [setTri_shoot]
@[simp] theorem critW_proc (c w v : Nat) : (s.critW c w v).proc = s.proc := by
  unfold Dev.critW; extract_lets; split
  · rw [evt_proc, bump_proc, setReg_proc, setTri_proc]
  · rw [setTri_proc]
@[simp] theorem critW_releaseQ (c w v : Nat) : (s.critW c w v).releaseQ = s.releaseQ := by
  unfold Dev.critW; extract_lets; split
  · rw [evt_releaseQ, bump_releaseQ, setReg_releaseQ, setTri_releaseQ]
  · rw [setTri_releaseQ]
@[simp] theorem critW_net (c w v : Nat) : (s.critW c w v).net = s.net := by
  unfold Dev.critW; extract_lets; split
  · rw [evt_net, bump_net, setReg_net, setTri_net]
  · rw [setTri_net]
@[simp] theorem critW_power (c w v : Nat) : (s.critW c w v).power = s.power := by
  unfold Dev.critW; extract_lets; split
  · rw [evt_power, bump_power, setReg_power, setTri_power]
  · rw [setTri_power]
@[simp] theorem critW_alertMask (c w v : Nat) : (s.critW c w v).alertMask = s.alertMask := by
  unfold Dev.critW; extract_lets; split
  · rw [evt_alertMask, bump_alertMask, setReg_alertMask, setTri_alertMask]
  · rw [setTri_alertMask]
@[simp] theorem critW_scopes (c w v : Nat) : (s.critW c w v).scopes = s.scopes := by
  unfold Dev.critW; extract_lets; split
  · rw [evt_scopes, bump_scopes, setReg_scopes, setTri_scopes]
  · rw [setTri_scopes]
@[simp] theorem critW_fresh (c w v : Nat) : (s.critW c w v).fresh = s.fresh := by
  unfold Dev.critW; extract_lets; split
  · rw [evt_fresh, bump_fresh, setReg_fresh, setTri_fresh]
  · rw [setTri_fresh]

@[simp] theorem setPt_pwrok (P v : Nat) : (s.setPt P v).pwrok = s.pwrok := by simp [Dev.setPt]
@[simp] theorem setPt_released (P v : Nat) : (s.setPt P v).released = s.released := by simp [Dev.setPt]
@[simp] theorem setPt_tripped (P v : Nat) : (s.setPt P v).tripped = s.tripped := by simp [Dev.setPt]
@[simp] theorem setPt_cores (P v : Nat) : (s.setPt P v).cores = s.cores := by simp [Dev.setPt]
@[simp] theorem setPt_podz (P v : Nat) : (s.setPt P v).podz = s.podz := by simp [Dev.setPt]
@[simp] theorem setPt_partz (P v : Nat) : (s.setPt P v).partz = s.partz := by simp [Dev.setPt]
@[simp] theorem setPt_links (P v : Nat) : (s.setPt P v).links = s.links := by simp [Dev.setPt]
@[simp] theorem setPt_latch (P v : Nat) : (s.setPt P v).latch = s.latch := by simp [Dev.setPt]
@[simp] theorem setPt_locks (P v : Nat) : (s.setPt P v).locks = s.locks := by simp [Dev.setPt]
@[simp] theorem setPt_bot (P v : Nat) : (s.setPt P v).bot = s.bot := by simp [Dev.setPt]
@[simp] theorem setPt_shoot (P v : Nat) : (s.setPt P v).shoot = s.shoot := by simp [Dev.setPt]
@[simp] theorem setPt_proc (P v : Nat) : (s.setPt P v).proc = s.proc := by simp [Dev.setPt]
@[simp] theorem setPt_releaseQ (P v : Nat) : (s.setPt P v).releaseQ = s.releaseQ := by simp [Dev.setPt]
@[simp] theorem setPt_net (P v : Nat) : (s.setPt P v).net = s.net := by simp [Dev.setPt]
@[simp] theorem setPt_power (P v : Nat) : (s.setPt P v).power = s.power := by simp [Dev.setPt]
@[simp] theorem setPt_alertMask (P v : Nat) : (s.setPt P v).alertMask = s.alertMask := by simp [Dev.setPt]
@[simp] theorem setPt_scopes (P v : Nat) : (s.setPt P v).scopes = s.scopes := by simp [Dev.setPt]
@[simp] theorem setPt_fresh (P v : Nat) : (s.setPt P v).fresh = s.fresh := by simp [Dev.setPt]

@[simp] theorem stall_pwrok (n : Nat) (i : StreamId) (k c f : Nat) (e : Bool) : (s.stall n i k c f e).pwrok = s.pwrok := by simp [Dev.stall]
@[simp] theorem stall_released (n : Nat) (i : StreamId) (k c f : Nat) (e : Bool) : (s.stall n i k c f e).released = s.released := by simp [Dev.stall]
@[simp] theorem stall_tripped (n : Nat) (i : StreamId) (k c f : Nat) (e : Bool) : (s.stall n i k c f e).tripped = s.tripped := by simp [Dev.stall]
@[simp] theorem stall_podz (n : Nat) (i : StreamId) (k c f : Nat) (e : Bool) : (s.stall n i k c f e).podz = s.podz := by simp [Dev.stall]
@[simp] theorem stall_partz (n : Nat) (i : StreamId) (k c f : Nat) (e : Bool) : (s.stall n i k c f e).partz = s.partz := by simp [Dev.stall]
@[simp] theorem stall_links (n : Nat) (i : StreamId) (k c f : Nat) (e : Bool) : (s.stall n i k c f e).links = s.links := by simp [Dev.stall]
@[simp] theorem stall_portA (n : Nat) (i : StreamId) (k c f : Nat) (e : Bool) : (s.stall n i k c f e).portA = s.portA := by simp [Dev.stall]
@[simp] theorem stall_portB (n : Nat) (i : StreamId) (k c f : Nat) (e : Bool) : (s.stall n i k c f e).portB = s.portB := by simp [Dev.stall]
@[simp] theorem stall_regs (n : Nat) (i : StreamId) (k c f : Nat) (e : Bool) : (s.stall n i k c f e).regs = s.regs := by simp [Dev.stall]
@[simp] theorem stall_latch (n : Nat) (i : StreamId) (k c f : Nat) (e : Bool) : (s.stall n i k c f e).latch = s.latch := by simp [Dev.stall]
@[simp] theorem stall_crit (n : Nat) (i : StreamId) (k c f : Nat) (e : Bool) : (s.stall n i k c f e).crit = s.crit := by simp [Dev.stall]
@[simp] theorem stall_locks (n : Nat) (i : StreamId) (k c f : Nat) (e : Bool) : (s.stall n i k c f e).locks = s.locks := by simp [Dev.stall]
@[simp] theorem stall_bot (n : Nat) (i : StreamId) (k c f : Nat) (e : Bool) : (s.stall n i k c f e).bot = s.bot := by simp [Dev.stall]
@[simp] theorem stall_shoot (n : Nat) (i : StreamId) (k c f : Nat) (e : Bool) : (s.stall n i k c f e).shoot = s.shoot := by simp [Dev.stall]
@[simp] theorem stall_proc (n : Nat) (i : StreamId) (k c f : Nat) (e : Bool) : (s.stall n i k c f e).proc = s.proc := by simp [Dev.stall]
@[simp] theorem stall_releaseQ (n : Nat) (i : StreamId) (k c f : Nat) (e : Bool) : (s.stall n i k c f e).releaseQ = s.releaseQ := by simp [Dev.stall]
@[simp] theorem stall_net (n : Nat) (i : StreamId) (k c f : Nat) (e : Bool) : (s.stall n i k c f e).net = s.net := by simp [Dev.stall]
@[simp] theorem stall_power (n : Nat) (i : StreamId) (k c f : Nat) (e : Bool) : (s.stall n i k c f e).power = s.power := by simp [Dev.stall]
@[simp] theorem stall_alertMask (n : Nat) (i : StreamId) (k c f : Nat) (e : Bool) : (s.stall n i k c f e).alertMask = s.alertMask := by simp [Dev.stall]
@[simp] theorem stall_scopes (n : Nat) (i : StreamId) (k c f : Nat) (e : Bool) : (s.stall n i k c f e).scopes = s.scopes := by simp [Dev.stall]
@[simp] theorem stall_fresh (n : Nat) (i : StreamId) (k c f : Nat) (e : Bool) : (s.stall n i k c f e).fresh = s.fresh := by simp [Dev.stall]
@[simp] theorem stall_out (n : Nat) (i : StreamId) (k c f : Nat) (e : Bool) : (s.stall n i k c f e).out = s.out := by simp [Dev.stall]

@[simp] theorem complete_pwrok (n : Nat) (e : Bool) (f src : Nat) : (s.complete n e f src).pwrok = s.pwrok := by unfold Dev.complete; split <;> rfl
@[simp] theorem complete_released (n : Nat) (e : Bool) (f src : Nat) : (s.complete n e f src).released = s.released := by unfold Dev.complete; split <;> rfl
@[simp] theorem complete_tripped (n : Nat) (e : Bool) (f src : Nat) : (s.complete n e f src).tripped = s.tripped := by unfold Dev.complete; split <;> rfl
@[simp] theorem complete_podz (n : Nat) (e : Bool) (f src : Nat) : (s.complete n e f src).podz = s.podz := by unfold Dev.complete; split <;> rfl
@[simp] theorem complete_partz (n : Nat) (e : Bool) (f src : Nat) : (s.complete n e f src).partz = s.partz := by unfold Dev.complete; split <;> rfl
@[simp] theorem complete_links (n : Nat) (e : Bool) (f src : Nat) : (s.complete n e f src).links = s.links := by unfold Dev.complete; split <;> rfl
@[simp] theorem complete_portA (n : Nat) (e : Bool) (f src : Nat) : (s.complete n e f src).portA = s.portA := by unfold Dev.complete; split <;> rfl
@[simp] theorem complete_portB (n : Nat) (e : Bool) (f src : Nat) : (s.complete n e f src).portB = s.portB := by unfold Dev.complete; split <;> rfl
@[simp] theorem complete_ctrs (n : Nat) (e : Bool) (f src : Nat) : (s.complete n e f src).ctrs = s.ctrs := by unfold Dev.complete; split <;> rfl
@[simp] theorem complete_latch (n : Nat) (e : Bool) (f src : Nat) : (s.complete n e f src).latch = s.latch := by unfold Dev.complete; split <;> rfl
@[simp] theorem complete_crit (n : Nat) (e : Bool) (f src : Nat) : (s.complete n e f src).crit = s.crit := by unfold Dev.complete; split <;> rfl
@[simp] theorem complete_locks (n : Nat) (e : Bool) (f src : Nat) : (s.complete n e f src).locks = s.locks := by unfold Dev.complete; split <;> rfl
@[simp] theorem complete_bot (n : Nat) (e : Bool) (f src : Nat) : (s.complete n e f src).bot = s.bot := by unfold Dev.complete; split <;> rfl
@[simp] theorem complete_shoot (n : Nat) (e : Bool) (f src : Nat) : (s.complete n e f src).shoot = s.shoot := by unfold Dev.complete; split <;> rfl
@[simp] theorem complete_proc (n : Nat) (e : Bool) (f src : Nat) : (s.complete n e f src).proc = s.proc := by unfold Dev.complete; split <;> rfl
@[simp] theorem complete_releaseQ (n : Nat) (e : Bool) (f src : Nat) : (s.complete n e f src).releaseQ = s.releaseQ := by unfold Dev.complete; split <;> rfl
@[simp] theorem complete_net (n : Nat) (e : Bool) (f src : Nat) : (s.complete n e f src).net = s.net := by unfold Dev.complete; split <;> rfl
@[simp] theorem complete_power (n : Nat) (e : Bool) (f src : Nat) : (s.complete n e f src).power = s.power := by unfold Dev.complete; split <;> rfl
@[simp] theorem complete_alertMask (n : Nat) (e : Bool) (f src : Nat) : (s.complete n e f src).alertMask = s.alertMask := by unfold Dev.complete; split <;> rfl
@[simp] theorem complete_scopes (n : Nat) (e : Bool) (f src : Nat) : (s.complete n e f src).scopes = s.scopes := by unfold Dev.complete; split <;> rfl
@[simp] theorem complete_fresh (n : Nat) (e : Bool) (f src : Nat) : (s.complete n e f src).fresh = s.fresh := by unfold Dev.complete; split <;> rfl
@[simp] theorem complete_out (n : Nat) (e : Bool) (f src : Nat) : (s.complete n e f src).out = s.out := by unfold Dev.complete; split <;> rfl

@[simp] theorem flagTo_pwrok (n f : Nat) (c : Bool) (k src : Nat) : (s.flagTo n f c k src).pwrok = s.pwrok := by unfold Dev.flagTo; split <;> rfl
@[simp] theorem flagTo_released (n f : Nat) (c : Bool) (k src : Nat) : (s.flagTo n f c k src).released = s.released := by unfold Dev.flagTo; split <;> rfl
@[simp] theorem flagTo_tripped (n f : Nat) (c : Bool) (k src : Nat) : (s.flagTo n f c k src).tripped = s.tripped := by unfold Dev.flagTo; split <;> rfl
@[simp] theorem flagTo_podz (n f : Nat) (c : Bool) (k src : Nat) : (s.flagTo n f c k src).podz = s.podz := by unfold Dev.flagTo; split <;> rfl
@[simp] theorem flagTo_partz (n f : Nat) (c : Bool) (k src : Nat) : (s.flagTo n f c k src).partz = s.partz := by unfold Dev.flagTo; split <;> rfl
@[simp] theorem flagTo_links (n f : Nat) (c : Bool) (k src : Nat) : (s.flagTo n f c k src).links = s.links := by unfold Dev.flagTo; split <;> rfl
@[simp] theorem flagTo_portA (n f : Nat) (c : Bool) (k src : Nat) : (s.flagTo n f c k src).portA = s.portA := by unfold Dev.flagTo; split <;> rfl
@[simp] theorem flagTo_portB (n f : Nat) (c : Bool) (k src : Nat) : (s.flagTo n f c k src).portB = s.portB := by unfold Dev.flagTo; split <;> rfl
@[simp] theorem flagTo_ctrs (n f : Nat) (c : Bool) (k src : Nat) : (s.flagTo n f c k src).ctrs = s.ctrs := by unfold Dev.flagTo; split <;> rfl
@[simp] theorem flagTo_latch (n f : Nat) (c : Bool) (k src : Nat) : (s.flagTo n f c k src).latch = s.latch := by unfold Dev.flagTo; split <;> rfl
@[simp] theorem flagTo_crit (n f : Nat) (c : Bool) (k src : Nat) : (s.flagTo n f c k src).crit = s.crit := by unfold Dev.flagTo; split <;> rfl
@[simp] theorem flagTo_locks (n f : Nat) (c : Bool) (k src : Nat) : (s.flagTo n f c k src).locks = s.locks := by unfold Dev.flagTo; split <;> rfl
@[simp] theorem flagTo_bot (n f : Nat) (c : Bool) (k src : Nat) : (s.flagTo n f c k src).bot = s.bot := by unfold Dev.flagTo; split <;> rfl
@[simp] theorem flagTo_shoot (n f : Nat) (c : Bool) (k src : Nat) : (s.flagTo n f c k src).shoot = s.shoot := by unfold Dev.flagTo; split <;> rfl
@[simp] theorem flagTo_proc (n f : Nat) (c : Bool) (k src : Nat) : (s.flagTo n f c k src).proc = s.proc := by unfold Dev.flagTo; split <;> rfl
@[simp] theorem flagTo_releaseQ (n f : Nat) (c : Bool) (k src : Nat) : (s.flagTo n f c k src).releaseQ = s.releaseQ := by unfold Dev.flagTo; split <;> rfl
@[simp] theorem flagTo_net (n f : Nat) (c : Bool) (k src : Nat) : (s.flagTo n f c k src).net = s.net := by unfold Dev.flagTo; split <;> rfl
@[simp] theorem flagTo_power (n f : Nat) (c : Bool) (k src : Nat) : (s.flagTo n f c k src).power = s.power := by unfold Dev.flagTo; split <;> rfl
@[simp] theorem flagTo_alertMask (n f : Nat) (c : Bool) (k src : Nat) : (s.flagTo n f c k src).alertMask = s.alertMask := by unfold Dev.flagTo; split <;> rfl
@[simp] theorem flagTo_scopes (n f : Nat) (c : Bool) (k src : Nat) : (s.flagTo n f c k src).scopes = s.scopes := by unfold Dev.flagTo; split <;> rfl
@[simp] theorem flagTo_fresh (n f : Nat) (c : Bool) (k src : Nat) : (s.flagTo n f c k src).fresh = s.fresh := by unfold Dev.flagTo; split <;> rfl
@[simp] theorem flagTo_out (n f : Nat) (c : Bool) (k src : Nat) : (s.flagTo n f c k src).out = s.out := by unfold Dev.flagTo; split <;> rfl

@[simp] theorem clearRecord_pwrok (n : Nat) (i : StreamId) : (s.clearRecord n i).pwrok = s.pwrok := by unfold Dev.clearRecord; rw [setFld_pwrok]
@[simp] theorem clearRecord_released (n : Nat) (i : StreamId) : (s.clearRecord n i).released = s.released := by unfold Dev.clearRecord; rw [setFld_released]
@[simp] theorem clearRecord_tripped (n : Nat) (i : StreamId) : (s.clearRecord n i).tripped = s.tripped := by unfold Dev.clearRecord; rw [setFld_tripped]
@[simp] theorem clearRecord_cores (n : Nat) (i : StreamId) : (s.clearRecord n i).cores = s.cores := by unfold Dev.clearRecord; rw [setFld_cores]
@[simp] theorem clearRecord_podz (n : Nat) (i : StreamId) : (s.clearRecord n i).podz = s.podz := by unfold Dev.clearRecord; rw [setFld_podz]
@[simp] theorem clearRecord_partz (n : Nat) (i : StreamId) : (s.clearRecord n i).partz = s.partz := by unfold Dev.clearRecord; rw [setFld_partz]
@[simp] theorem clearRecord_links (n : Nat) (i : StreamId) : (s.clearRecord n i).links = s.links := by unfold Dev.clearRecord; rw [setFld_links]
@[simp] theorem clearRecord_portA (n : Nat) (i : StreamId) : (s.clearRecord n i).portA = s.portA := by unfold Dev.clearRecord; rw [setFld_portA]
@[simp] theorem clearRecord_portB (n : Nat) (i : StreamId) : (s.clearRecord n i).portB = s.portB := by unfold Dev.clearRecord; rw [setFld_portB]
@[simp] theorem clearRecord_ctrs (n : Nat) (i : StreamId) : (s.clearRecord n i).ctrs = s.ctrs := by unfold Dev.clearRecord; rw [setFld_ctrs]
@[simp] theorem clearRecord_latch (n : Nat) (i : StreamId) : (s.clearRecord n i).latch = s.latch := by unfold Dev.clearRecord; rw [setFld_latch]
@[simp] theorem clearRecord_crit (n : Nat) (i : StreamId) : (s.clearRecord n i).crit = s.crit := by unfold Dev.clearRecord; rw [setFld_crit]
@[simp] theorem clearRecord_locks (n : Nat) (i : StreamId) : (s.clearRecord n i).locks = s.locks := by unfold Dev.clearRecord; rw [setFld_locks]
@[simp] theorem clearRecord_bot (n : Nat) (i : StreamId) : (s.clearRecord n i).bot = s.bot := by unfold Dev.clearRecord; rw [setFld_bot]
@[simp] theorem clearRecord_shoot (n : Nat) (i : StreamId) : (s.clearRecord n i).shoot = s.shoot := by unfold Dev.clearRecord; rw [setFld_shoot]
@[simp] theorem clearRecord_proc (n : Nat) (i : StreamId) : (s.clearRecord n i).proc = s.proc := by unfold Dev.clearRecord; rw [setFld_proc]
@[simp] theorem clearRecord_releaseQ (n : Nat) (i : StreamId) : (s.clearRecord n i).releaseQ = s.releaseQ := by unfold Dev.clearRecord; rw [setFld_releaseQ]
@[simp] theorem clearRecord_net (n : Nat) (i : StreamId) : (s.clearRecord n i).net = s.net := by unfold Dev.clearRecord; rw [setFld_net]
@[simp] theorem clearRecord_power (n : Nat) (i : StreamId) : (s.clearRecord n i).power = s.power := by unfold Dev.clearRecord; rw [setFld_power]
@[simp] theorem clearRecord_alertMask (n : Nat) (i : StreamId) : (s.clearRecord n i).alertMask = s.alertMask := by unfold Dev.clearRecord; rw [setFld_alertMask]
@[simp] theorem clearRecord_scopes (n : Nat) (i : StreamId) : (s.clearRecord n i).scopes = s.scopes := by unfold Dev.clearRecord; rw [setFld_scopes]
@[simp] theorem clearRecord_fresh (n : Nat) (i : StreamId) : (s.clearRecord n i).fresh = s.fresh := by unfold Dev.clearRecord; rw [setFld_fresh]
@[simp] theorem clearRecord_out (n : Nat) (i : StreamId) : (s.clearRecord n i).out = s.out := by unfold Dev.clearRecord; rw [setFld_out]

/-! Reading back. -/

@[simp] theorem core_setCore (n : Nat) (c : Core) : (s.setCore n c).core n = c := by simp [Dev.core, Dev.setCore]
theorem core_setCore_ne (n m : Nat) (c : Core) (h : m ≠ n) : (s.setCore n c).core m = s.core m := by
  simp [Dev.core, Dev.setCore, mget_mset_ne _ _ _ h]
@[simp] theorem core_modCore (n : Nat) (f : Core → Core) : (s.modCore n f).core n = f (s.core n) := by simp [Dev.modCore]
theorem core_modCore_ne (n m : Nat) (f : Core → Core) (h : m ≠ n) : (s.modCore n f).core m = s.core m :=
  core_setCore_ne s n m _ h
theorem core_of_cores {s t : Dev} (h : t.cores = s.cores) (n : Nat) : t.core n = s.core n := by simp [Dev.core, h]
@[simp] theorem pod_modPod (p : Nat) (f : Pod → Pod) : (s.modPod p f).pod p = f (s.pod p) := by simp [Dev.pod, Dev.modPod]
theorem pod_modPod_ne (p q : Nat) (f : Pod → Pod) (h : q ≠ p) : (s.modPod p f).pod q = s.pod q := by
  simp [Dev.pod, Dev.modPod, mget_mset_ne _ _ _ h]
theorem pod_of_podz {s t : Dev} (h : t.podz = s.podz) (p : Nat) : t.pod p = s.pod p := by simp [Dev.pod, h]
@[simp] theorem part_modPart (P : Nat) (f : Part → Part) : (s.modPart P f).part P = f (s.part P) := by simp [Dev.part, Dev.modPart]
theorem part_modPart_ne (P Q : Nat) (f : Part → Part) (h : Q ≠ P) : (s.modPart P f).part Q = s.part Q := by
  simp [Dev.part, Dev.modPart, mget_mset_ne _ _ _ h]
theorem part_of_partz {s t : Dev} (h : t.partz = s.partz) (P : Nat) : t.part P = s.part P := by simp [Dev.part, h]
@[simp] theorem link_modLink (k : Nat) (f : Link → Link) : (s.modLink k f).link k = f (s.link k) := by simp [Dev.link, Dev.modLink]
theorem link_modLink_ne (k j : Nat) (f : Link → Link) (h : j ≠ k) : (s.modLink k f).link j = s.link j := by
  simp [Dev.link, Dev.modLink, mget_mset_ne _ _ _ h]
theorem link_of_links {s t : Dev} (h : t.links = s.links) (k : Nat) : t.link k = s.link k := by simp [Dev.link, h]
@[simp] theorem port_modPort (p : Port) (f : PciePort → PciePort) : (s.modPort p f).port p = f (s.port p) := by cases p <;> rfl
@[simp] theorem reg_setReg (k : Nat) (v : Word) : (s.setReg k v).reg k = v := by simp [Dev.reg, Dev.setReg]
theorem reg_setReg_ne (k j : Nat) (v : Word) (h : j ≠ k) : (s.setReg k v).reg j = s.reg j := by
  simp [Dev.reg, Dev.setReg, mget_mset_ne _ _ _ h]
theorem reg_of_regs {s t : Dev} (h : t.regs = s.regs) (k : Nat) : t.reg k = s.reg k := by simp [Dev.reg, h]
theorem regN_of_regs {s t : Dev} (h : t.regs = s.regs) (k : Nat) : t.regN k = s.regN k := by simp [Dev.regN, Dev.reg, h]
@[simp] theorem locked_setLock (pg : Nat) (b : Bool) : (s.setLock pg b).locked pg = b := by simp [Dev.locked, Dev.setLock]
@[simp] theorem tri_setTri (c w : Nat) (t : Tri) : (s.setTri c w t).tri c w = t := by simp [Dev.tri, Dev.setTri]
@[simp] theorem strm_setStrm (c : Core) (i : StreamId) (t : Stream) : (c.setStrm i t).strm i = t := by cases i <;> rfl
@[simp] theorem strm_modStrm (n : Nat) (i : StreamId) (f : Stream → Stream) :
    ((s.modStrm n i f).core n).strm i = f ((s.core n).strm i) := by simp [Dev.modStrm]

/-- Raising an event changes no other register. -/
theorem reg_raise_ne (pg : Nat) (m : Word) (key : Nat) (h : key ≠ ra pg 0x18) : (s.raise pg m).reg key = s.reg key := by
  unfold Dev.raise
  rw [reg_of_regs (pageLook_regs _ _ _)]
  exact reg_setReg_ne s _ _ _ h
theorem reg_evt_ne (pg b : Nat) (key : Nat) (h : key ≠ ra pg 0x18) : (s.evt pg b).reg key = s.reg key :=
  reg_raise_ne s pg _ key h
/-- An event bit raised stands in the page's BLK_EVT (R12). -/
theorem reg_raise (pg : Nat) (m : Word) : (s.raise pg m).reg (ra pg 0x18) = s.reg (ra pg 0x18) ||| m := by
  unfold Dev.raise
  rw [reg_of_regs (pageLook_regs _ _ _)]
  exact reg_setReg s _ _

/-- A critical word reads as written, whatever flip is armed (R361, R362): the majority of three copies, one of them
perhaps inverted in places. -/
theorem majority_same (x : Word) : majority ⟨x, x, x⟩ = x := by simp [majority]

/-! Steps of the whole part. -/

@[simp] theorem onDev_sec (s : State) (f : Dev → Dev) : (s.onDev f).sec = s.sec := by unfold State.onDev; split <;> rfl
@[simp] theorem onDev_pending (s : State) (f : Dev → Dev) : (s.onDev f).pending = s.pending := by
  unfold State.onDev; split <;> rfl
@[simp] theorem onCore_sec (s : State) (n : Nat) (f : Dev → Dev) : (s.onCore n f).sec = s.sec := onDev_sec _ _
@[simp] theorem onCore_pending (s : State) (n : Nat) (f : Dev → Dev) : (s.onCore n f).pending = s.pending := onDev_pending _ _
@[simp] theorem onVault_sec (s : State) (n : Nat) (f : Dev → Dev) : (s.onVault n f).sec = s.sec := onDev_sec _ _
@[simp] theorem onVault_pending (s : State) (n : Nat) (f : Dev → Dev) : (s.onVault n f).pending = s.pending := onDev_pending _ _
theorem onDev_alive (s : State) (f : Dev → Dev) (h : s.dev.alive = true) : s.onDev f = { s with dev := f s.dev } := by
  simp [State.onDev, h]
theorem onDev_dead (s : State) (f : Dev → Dev) (h : s.dev.alive = false) : s.onDev f = s := by simp [State.onDev, h]
theorem onCore_on (s : State) (n : Nat) (f : Dev → Dev) (h : s.dev.alive = true) (hc : s.dev.clocked n = true) :
    s.onCore n f = { s with dev := f s.dev } := by simp [State.onCore, State.onDev, h, hc]
theorem onVault_on (s : State) (n : Nat) (f : Dev → Dev) (h : s.dev.alive = true)
    (hg : (s.dev.pod (podOf n)).gated = false) (ho : (s.dev.pod (podOf n)).off = false) :
    s.onVault n f = { s with dev := f s.dev } := by simp [State.onVault, State.onDev, h, hg, ho]

end Sys2Proof.Machine
end

