-- ==== Sys2Proof/Laws/Reads.lean ====
section
/-! SUPPORT. What the named reads of the part depend on, and the named operations that leave them. -/
namespace Sys2Proof.Machine
open Sys2Proof

variable (s : Dev)

theorem port_of_portA {s t : Dev} (h : t.portA = s.portA) (h2 : t.portB = s.portB) (q : Port) : t.port q = s.port q := by cases q <;> simp [Dev.port, h, h2]
theorem ctr_of_ctrs {s t : Dev} (h : t.ctrs = s.ctrs) (a' : Nat) : t.ctr a' = s.ctr a' := by simp [Dev.ctr, h]
theorem tri_of_crit {s t : Dev} (h : t.crit = s.crit) (x y : Nat) : t.tri x y = s.tri x y := by simp [Dev.tri, h]
theorem critR_of_crit {s t : Dev} (h : t.crit = s.crit) (x y : Nat) : t.critR x y = s.critR x y := by simp [Dev.critR, Dev.tri, h]
theorem owner_of_crit {s t : Dev} (h : t.crit = s.crit) (q : Nat) : t.owner q = s.owner q := critR_of_crit h _ _
theorem ptEntry_of_crit {s t : Dev} (h : t.crit = s.crit) (Q : Nat) : t.ptEntry Q = s.ptEntry Q := critR_of_crit h _ _
theorem corePart_of_crit {s t : Dev} (h : t.crit = s.crit) (m : Nat) : t.corePart m = s.corePart m := by unfold Dev.corePart; rw [owner_of_crit h]
theorem ptState_of_crit {s t : Dev} (h : t.crit = s.crit) (Q : Nat) : t.ptState Q = s.ptState Q := by unfold Dev.ptState; rw [ptEntry_of_crit h]
theorem ptPort_of_crit {s t : Dev} (h : t.crit = s.crit) (Q : Nat) : t.ptPort Q = s.ptPort Q := by unfold Dev.ptPort; rw [ptEntry_of_crit h]
theorem ptCols_of_crit {s t : Dev} (h : t.crit = s.crit) (Q : Nat) : t.ptCols Q = s.ptCols Q := by unfold Dev.ptCols; rw [ptEntry_of_crit h]
theorem ptCores_of_crit {s t : Dev} (h : t.crit = s.crit) (Q : Nat) : t.ptCores Q = s.ptCores Q := by unfold Dev.ptCores; rw [ptCols_of_crit h]
theorem locked_of_locks {s t : Dev} (h : t.locks = s.locks) (q : Nat) : t.locked q = s.locked q := by simp [Dev.locked, h]
theorem visible_of_crit {s t : Dev} (h : t.crit = s.crit) (q : Port) (g : Nat) : t.visible q g = s.visible q g := by unfold Dev.visible; simp only [owner_of_crit h, ptState_of_crit h]
theorem shareLent_of_podz {s t : Dev} (h : t.podz = s.podz) (m : Nat) : t.shareLent m = s.shareLent m := by unfold Dev.shareLent; rw [pod_of_podz h]
theorem clocked_of_podz {s t : Dev} (h : t.podz = s.podz) (m : Nat) : t.clocked m = s.clocked m := by unfold Dev.clocked; rw [pod_of_podz h]
theorem alive_of_pwrok {s t : Dev} (h : t.pwrok = s.pwrok) (h2 : t.released = s.released) (h3 : t.tripped = s.tripped)  : t.alive  = s.alive  := by simp [Dev.alive, h, h2, h3]
theorem carve_of_regs {s t : Dev} (h : t.regs = s.regs) (m : Nat) : t.carve m = s.carve m := by unfold Dev.carve; rw [regN_of_regs h]
theorem reserve_of_regs {s t : Dev} (h : t.regs = s.regs) (m : Nat) : t.reserve m = s.reserve m := by unfold Dev.reserve; rw [carve_of_regs h]

@[simp] theorem core_modPod (p : Nat) (f : Pod → Pod) (m : Nat) : (s.modPod p f).core m = s.core m := core_of_cores (modPod_cores s p f) m
@[simp] theorem core_modPart (P : Nat) (f : Part → Part) (m : Nat) : (s.modPart P f).core m = s.core m := core_of_cores (modPart_cores s P f) m
@[simp] theorem core_modLink (k : Nat) (f : Link → Link) (m : Nat) : (s.modLink k f).core m = s.core m := core_of_cores (modLink_cores s k f) m
@[simp] theorem core_emit (o : Out) (m : Nat) : (s.emit o).core m = s.core m := core_of_cores (emit_cores s o) m
@[simp] theorem core_setReg (k : Nat) (v : Word) (m : Nat) : (s.setReg k v).core m = s.core m := core_of_cores (setReg_cores s k v) m
@[simp] theorem core_setFld (k lo w v : Nat) (m : Nat) : (s.setFld k lo w v).core m = s.core m := core_of_cores (setFld_cores s k lo w v) m
@[simp] theorem core_orReg (k : Nat) (m : Word) (m0 : Nat) : (s.orReg k m).core m0 = s.core m0 := core_of_cores (orReg_cores s k m) m0
@[simp] theorem core_setLock (pg : Nat) (b : Bool) (m : Nat) : (s.setLock pg b).core m = s.core m := core_of_cores (setLock_cores s pg b) m
@[simp] theorem core_setTri (c w : Nat) (t : Tri) (m : Nat) : (s.setTri c w t).core m = s.core m := core_of_cores (setTri_cores s c w t) m
@[simp] theorem core_inject (p : Packet) (m : Nat) : (s.inject p).core m = s.core m := core_of_cores (inject_cores s p) m
@[simp] theorem core_dropPkt (k : Nat) (m : Nat) : (s.dropPkt k).core m = s.core m := core_of_cores (dropPkt_cores s k) m
@[simp] theorem core_modPort (p : Port) (f : PciePort → PciePort) (m : Nat) : (s.modPort p f).core m = s.core m := core_of_cores (modPort_cores s p f) m
@[simp] theorem core_bumpAt (a n : Nat) (m : Nat) : (s.bumpAt a n).core m = s.core m := core_of_cores (bumpAt_cores s a n) m
@[simp] theorem core_bump (pg i n : Nat) (m : Nat) : (s.bump pg i n).core m = s.core m := core_of_cores (bump_cores s pg i n) m
@[simp] theorem core_sendMsix (p : Port) (v : Nat) (m : Nat) : (s.sendMsix p v).core m = s.core m := core_of_cores (sendMsix_cores s p v) m
@[simp] theorem core_vecLook (p : Port) (v : Nat) (again : Bool) (m : Nat) : (s.vecLook p v again).core m = s.core m := core_of_cores (vecLook_cores s p v again) m
@[simp] theorem core_pageLook (pg : Nat) (again : Bool) (m : Nat) : (s.pageLook pg again).core m = s.core m := core_of_cores (pageLook_cores s pg again) m
@[simp] theorem core_raise (pg : Nat) (m : Word) (m0 : Nat) : (s.raise pg m).core m0 = s.core m0 := core_of_cores (raise_cores s pg m) m0
@[simp] theorem core_evt (pg b : Nat) (m : Nat) : (s.evt pg b).core m = s.core m := core_of_cores (evt_cores s pg b) m
@[simp] theorem core_critW (c w v : Nat) (m : Nat) : (s.critW c w v).core m = s.core m := core_of_cores (critW_cores s c w v) m
@[simp] theorem core_setPt (P v : Nat) (m : Nat) : (s.setPt P v).core m = s.core m := core_of_cores (setPt_cores s P v) m
@[simp] theorem core_clearRecord (n : Nat) (i : StreamId) (m : Nat) : (s.clearRecord n i).core m = s.core m := core_of_cores (clearRecord_cores s n i) m

@[simp] theorem pod_setCore (n : Nat) (c : Core) (q : Nat) : (s.setCore n c).pod q = s.pod q := pod_of_podz (setCore_podz s n c) q
@[simp] theorem pod_modCore (n : Nat) (f : Core → Core) (q : Nat) : (s.modCore n f).pod q = s.pod q := pod_of_podz (modCore_podz s n f) q
@[simp] theorem pod_modPart (P : Nat) (f : Part → Part) (q : Nat) : (s.modPart P f).pod q = s.pod q := pod_of_podz (modPart_podz s P f) q
@[simp] theorem pod_modLink (k : Nat) (f : Link → Link) (q : Nat) : (s.modLink k f).pod q = s.pod q := pod_of_podz (modLink_podz s k f) q
@[simp] theorem pod_modVault (n : Nat) (f : Vault → Vault) (q : Nat) : (s.modVault n f).pod q = s.pod q := pod_of_podz (modVault_podz s n f) q
@[simp] theorem pod_emit (o : Out) (q : Nat) : (s.emit o).pod q = s.pod q := pod_of_podz (emit_podz s o) q
@[simp] theorem pod_setReg (k : Nat) (v : Word) (q : Nat) : (s.setReg k v).pod q = s.pod q := pod_of_podz (setReg_podz s k v) q
@[simp] theorem pod_setFld (k lo w v : Nat) (q : Nat) : (s.setFld k lo w v).pod q = s.pod q := pod_of_podz (setFld_podz s k lo w v) q
@[simp] theorem pod_orReg (k : Nat) (m : Word) (q : Nat) : (s.orReg k m).pod q = s.pod q := pod_of_podz (orReg_podz s k m) q
@[simp] theorem pod_setLock (pg : Nat) (b : Bool) (q : Nat) : (s.setLock pg b).pod q = s.pod q := pod_of_podz (setLock_podz s pg b) q
@[simp] theorem pod_setTri (c w : Nat) (t : Tri) (q : Nat) : (s.setTri c w t).pod q = s.pod q := pod_of_podz (setTri_podz s c w t) q
@[simp] theorem pod_inject (p : Packet) (q : Nat) : (s.inject p).pod q = s.pod q := pod_of_podz (inject_podz s p) q
@[simp] theorem pod_dropPkt (k : Nat) (q : Nat) : (s.dropPkt k).pod q = s.pod q := pod_of_podz (dropPkt_podz s k) q
@[simp] theorem pod_modStrm (n : Nat) (i : StreamId) (f : Stream → Stream) (q : Nat) : (s.modStrm n i f).pod q = s.pod q := pod_of_podz (modStrm_podz s n i f) q
@[simp] theorem pod_setFlag (n f kind src : Nat) (q : Nat) : (s.setFlag n f kind src).pod q = s.pod q := pod_of_podz (setFlag_podz s n f kind src) q
@[simp] theorem pod_clrFlag (n f : Nat) (q : Nat) : (s.clrFlag n f).pod q = s.pod q := pod_of_podz (clrFlag_podz s n f) q
@[simp] theorem pod_closeReq (n t : Nat) (q : Nat) : (s.closeReq n t).pod q = s.pod q := pod_of_podz (closeReq_podz s n t) q
@[simp] theorem pod_modPort (p : Port) (f : PciePort → PciePort) (q : Nat) : (s.modPort p f).pod q = s.pod q := pod_of_podz (modPort_podz s p f) q
@[simp] theorem pod_bumpAt (a n : Nat) (q : Nat) : (s.bumpAt a n).pod q = s.pod q := pod_of_podz (bumpAt_podz s a n) q
@[simp] theorem pod_bump (pg i n : Nat) (q : Nat) : (s.bump pg i n).pod q = s.pod q := pod_of_podz (bump_podz s pg i n) q
@[simp] theorem pod_sendMsix (p : Port) (v : Nat) (q : Nat) : (s.sendMsix p v).pod q = s.pod q := pod_of_podz (sendMsix_podz s p v) q
@[simp] theorem pod_vecLook (p : Port) (v : Nat) (again : Bool) (q : Nat) : (s.vecLook p v again).pod q = s.pod q := pod_of_podz (vecLook_podz s p v again) q
@[simp] theorem pod_pageLook (pg : Nat) (again : Bool) (q : Nat) : (s.pageLook pg again).pod q = s.pod q := pod_of_podz (pageLook_podz s pg again) q
@[simp] theorem pod_raise (pg : Nat) (m : Word) (q : Nat) : (s.raise pg m).pod q = s.pod q := pod_of_podz (raise_podz s pg m) q
@[simp] theorem pod_evt (pg b : Nat) (q : Nat) : (s.evt pg b).pod q = s.pod q := pod_of_podz (evt_podz s pg b) q
@[simp] theorem pod_critW (c w v : Nat) (q : Nat) : (s.critW c w v).pod q = s.pod q := pod_of_podz (critW_podz s c w v) q
@[simp] theorem pod_setPt (P v : Nat) (q : Nat) : (s.setPt P v).pod q = s.pod q := pod_of_podz (setPt_podz s P v) q
@[simp] theorem pod_stall (n : Nat) (i : StreamId) (k c f : Nat) (e : Bool) (q : Nat) : (s.stall n i k c f e).pod q = s.pod q := pod_of_podz (stall_podz s n i k c f e) q
@[simp] theorem pod_complete (n : Nat) (e : Bool) (f src : Nat) (q : Nat) : (s.complete n e f src).pod q = s.pod q := pod_of_podz (complete_podz s n e f src) q
@[simp] theorem pod_flagTo (n f : Nat) (c : Bool) (k src : Nat) (q : Nat) : (s.flagTo n f c k src).pod q = s.pod q := pod_of_podz (flagTo_podz s n f c k src) q
@[simp] theorem pod_clearRecord (n : Nat) (i : StreamId) (q : Nat) : (s.clearRecord n i).pod q = s.pod q := pod_of_podz (clearRecord_podz s n i) q

@[simp] theorem part_setCore (n : Nat) (c : Core) (Q : Nat) : (s.setCore n c).part Q = s.part Q := part_of_partz (setCore_partz s n c) Q
@[simp] theorem part_modCore (n : Nat) (f : Core → Core) (Q : Nat) : (s.modCore n f).part Q = s.part Q := part_of_partz (modCore_partz s n f) Q
@[simp] theorem part_modPod (p : Nat) (f : Pod → Pod) (Q : Nat) : (s.modPod p f).part Q = s.part Q := part_of_partz (modPod_partz s p f) Q
@[simp] theorem part_modLink (k : Nat) (f : Link → Link) (Q : Nat) : (s.modLink k f).part Q = s.part Q := part_of_partz (modLink_partz s k f) Q
@[simp] theorem part_modVault (n : Nat) (f : Vault → Vault) (Q : Nat) : (s.modVault n f).part Q = s.part Q := part_of_partz (modVault_partz s n f) Q
@[simp] theorem part_emit (o : Out) (Q : Nat) : (s.emit o).part Q = s.part Q := part_of_partz (emit_partz s o) Q
@[simp] theorem part_setReg (k : Nat) (v : Word) (Q : Nat) : (s.setReg k v).part Q = s.part Q := part_of_partz (setReg_partz s k v) Q
@[simp] theorem part_setFld (k lo w v : Nat) (Q : Nat) : (s.setFld k lo w v).part Q = s.part Q := part_of_partz (setFld_partz s k lo w v) Q
@[simp] theorem part_orReg (k : Nat) (m : Word) (Q : Nat) : (s.orReg k m).part Q = s.part Q := part_of_partz (orReg_partz s k m) Q
@[simp] theorem part_setLock (pg : Nat) (b : Bool) (Q : Nat) : (s.setLock pg b).part Q = s.part Q := part_of_partz (setLock_partz s pg b) Q
@[simp] theorem part_setTri (c w : Nat) (t : Tri) (Q : Nat) : (s.setTri c w t).part Q = s.part Q := part_of_partz (setTri_partz s c w t) Q
@[simp] theorem part_inject (p : Packet) (Q : Nat) : (s.inject p).part Q = s.part Q := part_of_partz (inject_partz s p) Q
@[simp] theorem part_dropPkt (k : Nat) (Q : Nat) : (s.dropPkt k).part Q = s.part Q := part_of_partz (dropPkt_partz s k) Q
@[simp] theorem part_modStrm (n : Nat) (i : StreamId) (f : Stream → Stream) (Q : Nat) : (s.modStrm n i f).part Q = s.part Q := part_of_partz (modStrm_partz s n i f) Q
@[simp] theorem part_setFlag (n f kind src : Nat) (Q : Nat) : (s.setFlag n f kind src).part Q = s.part Q := part_of_partz (setFlag_partz s n f kind src) Q
@[simp] theorem part_clrFlag (n f : Nat) (Q : Nat) : (s.clrFlag n f).part Q = s.part Q := part_of_partz (clrFlag_partz s n f) Q
@[simp] theorem part_closeReq (n t : Nat) (Q : Nat) : (s.closeReq n t).part Q = s.part Q := part_of_partz (closeReq_partz s n t) Q
@[simp] theorem part_modPort (p : Port) (f : PciePort → PciePort) (Q : Nat) : (s.modPort p f).part Q = s.part Q := part_of_partz (modPort_partz s p f) Q
@[simp] theorem part_bumpAt (a n : Nat) (Q : Nat) : (s.bumpAt a n).part Q = s.part Q := part_of_partz (bumpAt_partz s a n) Q
@[simp] theorem part_bump (pg i n : Nat) (Q : Nat) : (s.bump pg i n).part Q = s.part Q := part_of_partz (bump_partz s pg i n) Q
@[simp] theorem part_sendMsix (p : Port) (v : Nat) (Q : Nat) : (s.sendMsix p v).part Q = s.part Q := part_of_partz (sendMsix_partz s p v) Q
@[simp] theorem part_vecLook (p : Port) (v : Nat) (again : Bool) (Q : Nat) : (s.vecLook p v again).part Q = s.part Q := part_of_partz (vecLook_partz s p v again) Q
@[simp] theorem part_pageLook (pg : Nat) (again : Bool) (Q : Nat) : (s.pageLook pg again).part Q = s.part Q := part_of_partz (pageLook_partz s pg again) Q
@[simp] theorem part_raise (pg : Nat) (m : Word) (Q : Nat) : (s.raise pg m).part Q = s.part Q := part_of_partz (raise_partz s pg m) Q
@[simp] theorem part_evt (pg b : Nat) (Q : Nat) : (s.evt pg b).part Q = s.part Q := part_of_partz (evt_partz s pg b) Q
@[simp] theorem part_critW (c w v : Nat) (Q : Nat) : (s.critW c w v).part Q = s.part Q := part_of_partz (critW_partz s c w v) Q
@[simp] theorem part_setPt (P v : Nat) (Q : Nat) : (s.setPt P v).part Q = s.part Q := part_of_partz (setPt_partz s P v) Q
@[simp] theorem part_stall (n : Nat) (i : StreamId) (k c f : Nat) (e : Bool) (Q : Nat) : (s.stall n i k c f e).part Q = s.part Q := part_of_partz (stall_partz s n i k c f e) Q
@[simp] theorem part_complete (n : Nat) (e : Bool) (f src : Nat) (Q : Nat) : (s.complete n e f src).part Q = s.part Q := part_of_partz (complete_partz s n e f src) Q
@[simp] theorem part_flagTo (n f : Nat) (c : Bool) (k src : Nat) (Q : Nat) : (s.flagTo n f c k src).part Q = s.part Q := part_of_partz (flagTo_partz s n f c k src) Q
@[simp] theorem part_clearRecord (n : Nat) (i : StreamId) (Q : Nat) : (s.clearRecord n i).part Q = s.part Q := part_of_partz (clearRecord_partz s n i) Q

@[simp] theorem link_setCore (n : Nat) (c : Core) (j : Nat) : (s.setCore n c).link j = s.link j := link_of_links (setCore_links s n c) j
@[simp] theorem link_modCore (n : Nat) (f : Core → Core) (j : Nat) : (s.modCore n f).link j = s.link j := link_of_links (modCore_links s n f) j
@[simp] theorem link_modPod (p : Nat) (f : Pod → Pod) (j : Nat) : (s.modPod p f).link j = s.link j := link_of_links (modPod_links s p f) j
@[simp] theorem link_modPart (P : Nat) (f : Part → Part) (j : Nat) : (s.modPart P f).link j = s.link j := link_of_links (modPart_links s P f) j
@[simp] theorem link_modVault (n : Nat) (f : Vault → Vault) (j : Nat) : (s.modVault n f).link j = s.link j := link_of_links (modVault_links s n f) j
@[simp] theorem link_emit (o : Out) (j : Nat) : (s.emit o).link j = s.link j := link_of_links (emit_links s o) j
@[simp] theorem link_setReg (k : Nat) (v : Word) (j : Nat) : (s.setReg k v).link j = s.link j := link_of_links (setReg_links s k v) j
@[simp] theorem link_setFld (k lo w v : Nat) (j : Nat) : (s.setFld k lo w v).link j = s.link j := link_of_links (setFld_links s k lo w v) j
@[simp] theorem link_orReg (k : Nat) (m : Word) (j : Nat) : (s.orReg k m).link j = s.link j := link_of_links (orReg_links s k m) j
@[simp] theorem link_setLock (pg : Nat) (b : Bool) (j : Nat) : (s.setLock pg b).link j = s.link j := link_of_links (setLock_links s pg b) j
@[simp] theorem link_setTri (c w : Nat) (t : Tri) (j : Nat) : (s.setTri c w t).link j = s.link j := link_of_links (setTri_links s c w t) j
@[simp] theorem link_inject (p : Packet) (j : Nat) : (s.inject p).link j = s.link j := link_of_links (inject_links s p) j
@[simp] theorem link_dropPkt (k : Nat) (j : Nat) : (s.dropPkt k).link j = s.link j := link_of_links (dropPkt_links s k) j
@[simp] theorem link_modStrm (n : Nat) (i : StreamId) (f : Stream → Stream) (j : Nat) : (s.modStrm n i f).link j = s.link j := link_of_links (modStrm_links s n i f) j
@[simp] theorem link_setFlag (n f kind src : Nat) (j : Nat) : (s.setFlag n f kind src).link j = s.link j := link_of_links (setFlag_links s n f kind src) j
@[simp] theorem link_clrFlag (n f : Nat) (j : Nat) : (s.clrFlag n f).link j = s.link j := link_of_links (clrFlag_links s n f) j
@[simp] theorem link_closeReq (n t : Nat) (j : Nat) : (s.closeReq n t).link j = s.link j := link_of_links (closeReq_links s n t) j
@[simp] theorem link_modPort (p : Port) (f : PciePort → PciePort) (j : Nat) : (s.modPort p f).link j = s.link j := link_of_links (modPort_links s p f) j
@[simp] theorem link_bumpAt (a n : Nat) (j : Nat) : (s.bumpAt a n).link j = s.link j := link_of_links (bumpAt_links s a n) j
@[simp] theorem link_bump (pg i n : Nat) (j : Nat) : (s.bump pg i n).link j = s.link j := link_of_links (bump_links s pg i n) j
@[simp] theorem link_sendMsix (p : Port) (v : Nat) (j : Nat) : (s.sendMsix p v).link j = s.link j := link_of_links (sendMsix_links s p v) j
@[simp] theorem link_vecLook (p : Port) (v : Nat) (again : Bool) (j : Nat) : (s.vecLook p v again).link j = s.link j := link_of_links (vecLook_links s p v again) j
@[simp] theorem link_pageLook (pg : Nat) (again : Bool) (j : Nat) : (s.pageLook pg again).link j = s.link j := link_of_links (pageLook_links s pg again) j
@[simp] theorem link_raise (pg : Nat) (m : Word) (j : Nat) : (s.raise pg m).link j = s.link j := link_of_links (raise_links s pg m) j
@[simp] theorem link_evt (pg b : Nat) (j : Nat) : (s.evt pg b).link j = s.link j := link_of_links (evt_links s pg b) j
@[simp] theorem link_critW (c w v : Nat) (j : Nat) : (s.critW c w v).link j = s.link j := link_of_links (critW_links s c w v) j
@[simp] theorem link_setPt (P v : Nat) (j : Nat) : (s.setPt P v).link j = s.link j := link_of_links (setPt_links s P v) j
@[simp] theorem link_stall (n : Nat) (i : StreamId) (k c f : Nat) (e : Bool) (j : Nat) : (s.stall n i k c f e).link j = s.link j := link_of_links (stall_links s n i k c f e) j
@[simp] theorem link_complete (n : Nat) (e : Bool) (f src : Nat) (j : Nat) : (s.complete n e f src).link j = s.link j := link_of_links (complete_links s n e f src) j
@[simp] theorem link_flagTo (n f : Nat) (c : Bool) (k src : Nat) (j : Nat) : (s.flagTo n f c k src).link j = s.link j := link_of_links (flagTo_links s n f c k src) j
@[simp] theorem link_clearRecord (n : Nat) (i : StreamId) (j : Nat) : (s.clearRecord n i).link j = s.link j := link_of_links (clearRecord_links s n i) j

@[simp] theorem port_setCore (n : Nat) (c : Core) (q : Port) : (s.setCore n c).port q = s.port q := port_of_portA (setCore_portA s n c) (setCore_portB s n c) q
@[simp] theorem port_modCore (n : Nat) (f : Core → Core) (q : Port) : (s.modCore n f).port q = s.port q := port_of_portA (modCore_portA s n f) (modCore_portB s n f) q
@[simp] theorem port_modPod (p : Nat) (f : Pod → Pod) (q : Port) : (s.modPod p f).port q = s.port q := port_of_portA (modPod_portA s p f) (modPod_portB s p f) q
@[simp] theorem port_modPart (P : Nat) (f : Part → Part) (q : Port) : (s.modPart P f).port q = s.port q := port_of_portA (modPart_portA s P f) (modPart_portB s P f) q
@[simp] theorem port_modLink (k : Nat) (f : Link → Link) (q : Port) : (s.modLink k f).port q = s.port q := port_of_portA (modLink_portA s k f) (modLink_portB s k f) q
@[simp] theorem port_modVault (n : Nat) (f : Vault → Vault) (q : Port) : (s.modVault n f).port q = s.port q := port_of_portA (modVault_portA s n f) (modVault_portB s n f) q
@[simp] theorem port_emit (o : Out) (q : Port) : (s.emit o).port q = s.port q := port_of_portA (emit_portA s o) (emit_portB s o) q
@[simp] theorem port_setReg (k : Nat) (v : Word) (q : Port) : (s.setReg k v).port q = s.port q := port_of_portA (setReg_portA s k v) (setReg_portB s k v) q
@[simp] theorem port_setFld (k lo w v : Nat) (q : Port) : (s.setFld k lo w v).port q = s.port q := port_of_portA (setFld_portA s k lo w v) (setFld_portB s k lo w v) q
@[simp] theorem port_orReg (k : Nat) (m : Word) (q : Port) : (s.orReg k m).port q = s.port q := port_of_portA (orReg_portA s k m) (orReg_portB s k m) q
@[simp] theorem port_setLock (pg : Nat) (b : Bool) (q : Port) : (s.setLock pg b).port q = s.port q := port_of_portA (setLock_portA s pg b) (setLock_portB s pg b) q
@[simp] theorem port_setTri (c w : Nat) (t : Tri) (q : Port) : (s.setTri c w t).port q = s.port q := port_of_portA (setTri_portA s c w t) (setTri_portB s c w t) q
@[simp] theorem port_inject (p : Packet) (q : Port) : (s.inject p).port q = s.port q := port_of_portA (inject_portA s p) (inject_portB s p) q
@[simp] theorem port_dropPkt (k : Nat) (q : Port) : (s.dropPkt k).port q = s.port q := port_of_portA (dropPkt_portA s k) (dropPkt_portB s k) q
@[simp] theorem port_modStrm (n : Nat) (i : StreamId) (f : Stream → Stream) (q : Port) : (s.modStrm n i f).port q = s.port q := port_of_portA (modStrm_portA s n i f) (modStrm_portB s n i f) q
@[simp] theorem port_setFlag (n f kind src : Nat) (q : Port) : (s.setFlag n f kind src).port q = s.port q := port_of_portA (setFlag_portA s n f kind src) (setFlag_portB s n f kind src) q
@[simp] theorem port_clrFlag (n f : Nat) (q : Port) : (s.clrFlag n f).port q = s.port q := port_of_portA (clrFlag_portA s n f) (clrFlag_portB s n f) q
@[simp] theorem port_closeReq (n t : Nat) (q : Port) : (s.closeReq n t).port q = s.port q := port_of_portA (closeReq_portA s n t) (closeReq_portB s n t) q
@[simp] theorem port_bumpAt (a n : Nat) (q : Port) : (s.bumpAt a n).port q = s.port q := port_of_portA (bumpAt_portA s a n) (bumpAt_portB s a n) q
@[simp] theorem port_bump (pg i n : Nat) (q : Port) : (s.bump pg i n).port q = s.port q := port_of_portA (bump_portA s pg i n) (bump_portB s pg i n) q
@[simp] theorem port_sendMsix (p : Port) (v : Nat) (q : Port) : (s.sendMsix p v).port q = s.port q := port_of_portA (sendMsix_portA s p v) (sendMsix_portB s p v) q
@[simp] theorem port_stall (n : Nat) (i : StreamId) (k c f : Nat) (e : Bool) (q : Port) : (s.stall n i k c f e).port q = s.port q := port_of_portA (stall_portA s n i k c f e) (stall_portB s n i k c f e) q
@[simp] theorem port_complete (n : Nat) (e : Bool) (f src : Nat) (q : Port) : (s.complete n e f src).port q = s.port q := port_of_portA (complete_portA s n e f src) (complete_portB s n e f src) q
@[simp] theorem port_flagTo (n f : Nat) (c : Bool) (k src : Nat) (q : Port) : (s.flagTo n f c k src).port q = s.port q := port_of_portA (flagTo_portA s n f c k src) (flagTo_portB s n f c k src) q
@[simp] theorem port_clearRecord (n : Nat) (i : StreamId) (q : Port) : (s.clearRecord n i).port q = s.port q := port_of_portA (clearRecord_portA s n i) (clearRecord_portB s n i) q

@[simp] theorem reg_setCore (n : Nat) (c : Core) (key : Nat) : (s.setCore n c).reg key = s.reg key := reg_of_regs (setCore_regs s n c) key
@[simp] theorem reg_modCore (n : Nat) (f : Core → Core) (key : Nat) : (s.modCore n f).reg key = s.reg key := reg_of_regs (modCore_regs s n f) key
@[simp] theorem reg_modPod (p : Nat) (f : Pod → Pod) (key : Nat) : (s.modPod p f).reg key = s.reg key := reg_of_regs (modPod_regs s p f) key
@[simp] theorem reg_modPart (P : Nat) (f : Part → Part) (key : Nat) : (s.modPart P f).reg key = s.reg key := reg_of_regs (modPart_regs s P f) key
@[simp] theorem reg_modLink (k : Nat) (f : Link → Link) (key : Nat) : (s.modLink k f).reg key = s.reg key := reg_of_regs (modLink_regs s k f) key
@[simp] theorem reg_modVault (n : Nat) (f : Vault → Vault) (key : Nat) : (s.modVault n f).reg key = s.reg key := reg_of_regs (modVault_regs s n f) key
@[simp] theorem reg_emit (o : Out) (key : Nat) : (s.emit o).reg key = s.reg key := reg_of_regs (emit_regs s o) key
@[simp] theorem reg_setLock (pg : Nat) (b : Bool) (key : Nat) : (s.setLock pg b).reg key = s.reg key := reg_of_regs (setLock_regs s pg b) key
@[simp] theorem reg_setTri (c w : Nat) (t : Tri) (key : Nat) : (s.setTri c w t).reg key = s.reg key := reg_of_regs (setTri_regs s c w t) key
@[simp] theorem reg_inject (p : Packet) (key : Nat) : (s.inject p).reg key = s.reg key := reg_of_regs (inject_regs s p) key
@[simp] theorem reg_dropPkt (k : Nat) (key : Nat) : (s.dropPkt k).reg key = s.reg key := reg_of_regs (dropPkt_regs s k) key
@[simp] theorem reg_modStrm (n : Nat) (i : StreamId) (f : Stream → Stream) (key : Nat) : (s.modStrm n i f).reg key = s.reg key := reg_of_regs (modStrm_regs s n i f) key
@[simp] theorem reg_clrFlag (n f : Nat) (key : Nat) : (s.clrFlag n f).reg key = s.reg key := reg_of_regs (clrFlag_regs s n f) key
@[simp] theorem reg_closeReq (n t : Nat) (key : Nat) : (s.closeReq n t).reg key = s.reg key := reg_of_regs (closeReq_regs s n t) key
@[simp] theorem reg_modPort (p : Port) (f : PciePort → PciePort) (key : Nat) : (s.modPort p f).reg key = s.reg key := reg_of_regs (modPort_regs s p f) key
@[simp] theorem reg_bumpAt (a n : Nat) (key : Nat) : (s.bumpAt a n).reg key = s.reg key := reg_of_regs (bumpAt_regs s a n) key
@[simp] theorem reg_bump (pg i n : Nat) (key : Nat) : (s.bump pg i n).reg key = s.reg key := reg_of_regs (bump_regs s pg i n) key
@[simp] theorem reg_sendMsix (p : Port) (v : Nat) (key : Nat) : (s.sendMsix p v).reg key = s.reg key := reg_of_regs (sendMsix_regs s p v) key
@[simp] theorem reg_vecLook (p : Port) (v : Nat) (again : Bool) (key : Nat) : (s.vecLook p v again).reg key = s.reg key := reg_of_regs (vecLook_regs s p v again) key
@[simp] theorem reg_pageLook (pg : Nat) (again : Bool) (key : Nat) : (s.pageLook pg again).reg key = s.reg key := reg_of_regs (pageLook_regs s pg again) key
@[simp] theorem reg_stall (n : Nat) (i : StreamId) (k c f : Nat) (e : Bool) (key : Nat) : (s.stall n i k c f e).reg key = s.reg key := reg_of_regs (stall_regs s n i k c f e) key

@[simp] theorem regN_setCore (n : Nat) (c : Core) (key : Nat) : (s.setCore n c).regN key = s.regN key := regN_of_regs (setCore_regs s n c) key
@[simp] theorem regN_modCore (n : Nat) (f : Core → Core) (key : Nat) : (s.modCore n f).regN key = s.regN key := regN_of_regs (modCore_regs s n f) key
@[simp] theorem regN_modPod (p : Nat) (f : Pod → Pod) (key : Nat) : (s.modPod p f).regN key = s.regN key := regN_of_regs (modPod_regs s p f) key
@[simp] theorem regN_modPart (P : Nat) (f : Part → Part) (key : Nat) : (s.modPart P f).regN key = s.regN key := regN_of_regs (modPart_regs s P f) key
@[simp] theorem regN_modLink (k : Nat) (f : Link → Link) (key : Nat) : (s.modLink k f).regN key = s.regN key := regN_of_regs (modLink_regs s k f) key
@[simp] theorem regN_modVault (n : Nat) (f : Vault → Vault) (key : Nat) : (s.modVault n f).regN key = s.regN key := regN_of_regs (modVault_regs s n f) key
@[simp] theorem regN_emit (o : Out) (key : Nat) : (s.emit o).regN key = s.regN key := regN_of_regs (emit_regs s o) key
@[simp] theorem regN_setLock (pg : Nat) (b : Bool) (key : Nat) : (s.setLock pg b).regN key = s.regN key := regN_of_regs (setLock_regs s pg b) key
@[simp] theorem regN_setTri (c w : Nat) (t : Tri) (key : Nat) : (s.setTri c w t).regN key = s.regN key := regN_of_regs (setTri_regs s c w t) key
@[simp] theorem regN_inject (p : Packet) (key : Nat) : (s.inject p).regN key = s.regN key := regN_of_regs (inject_regs s p) key
@[simp] theorem regN_dropPkt (k : Nat) (key : Nat) : (s.dropPkt k).regN key = s.regN key := regN_of_regs (dropPkt_regs s k) key
@[simp] theorem regN_modStrm (n : Nat) (i : StreamId) (f : Stream → Stream) (key : Nat) : (s.modStrm n i f).regN key = s.regN key := regN_of_regs (modStrm_regs s n i f) key
@[simp] theorem regN_clrFlag (n f : Nat) (key : Nat) : (s.clrFlag n f).regN key = s.regN key := regN_of_regs (clrFlag_regs s n f) key
@[simp] theorem regN_closeReq (n t : Nat) (key : Nat) : (s.closeReq n t).regN key = s.regN key := regN_of_regs (closeReq_regs s n t) key
@[simp] theorem regN_modPort (p : Port) (f : PciePort → PciePort) (key : Nat) : (s.modPort p f).regN key = s.regN key := regN_of_regs (modPort_regs s p f) key
@[simp] theorem regN_bumpAt (a n : Nat) (key : Nat) : (s.bumpAt a n).regN key = s.regN key := regN_of_regs (bumpAt_regs s a n) key
@[simp] theorem regN_bump (pg i n : Nat) (key : Nat) : (s.bump pg i n).regN key = s.regN key := regN_of_regs (bump_regs s pg i n) key
@[simp] theorem regN_sendMsix (p : Port) (v : Nat) (key : Nat) : (s.sendMsix p v).regN key = s.regN key := regN_of_regs (sendMsix_regs s p v) key
@[simp] theorem regN_vecLook (p : Port) (v : Nat) (again : Bool) (key : Nat) : (s.vecLook p v again).regN key = s.regN key := regN_of_regs (vecLook_regs s p v again) key
@[simp] theorem regN_pageLook (pg : Nat) (again : Bool) (key : Nat) : (s.pageLook pg again).regN key = s.regN key := regN_of_regs (pageLook_regs s pg again) key
@[simp] theorem regN_stall (n : Nat) (i : StreamId) (k c f : Nat) (e : Bool) (key : Nat) : (s.stall n i k c f e).regN key = s.regN key := regN_of_regs (stall_regs s n i k c f e) key

@[simp] theorem ctr_setCore (n : Nat) (c : Core) (a' : Nat) : (s.setCore n c).ctr a' = s.ctr a' := ctr_of_ctrs (setCore_ctrs s n c) a'
@[simp] theorem ctr_modCore (n : Nat) (f : Core → Core) (a' : Nat) : (s.modCore n f).ctr a' = s.ctr a' := ctr_of_ctrs (modCore_ctrs s n f) a'
@[simp] theorem ctr_modPod (p : Nat) (f : Pod → Pod) (a' : Nat) : (s.modPod p f).ctr a' = s.ctr a' := ctr_of_ctrs (modPod_ctrs s p f) a'
@[simp] theorem ctr_modPart (P : Nat) (f : Part → Part) (a' : Nat) : (s.modPart P f).ctr a' = s.ctr a' := ctr_of_ctrs (modPart_ctrs s P f) a'
@[simp] theorem ctr_modLink (k : Nat) (f : Link → Link) (a' : Nat) : (s.modLink k f).ctr a' = s.ctr a' := ctr_of_ctrs (modLink_ctrs s k f) a'
@[simp] theorem ctr_modVault (n : Nat) (f : Vault → Vault) (a' : Nat) : (s.modVault n f).ctr a' = s.ctr a' := ctr_of_ctrs (modVault_ctrs s n f) a'
@[simp] theorem ctr_emit (o : Out) (a' : Nat) : (s.emit o).ctr a' = s.ctr a' := ctr_of_ctrs (emit_ctrs s o) a'
@[simp] theorem ctr_setReg (k : Nat) (v : Word) (a' : Nat) : (s.setReg k v).ctr a' = s.ctr a' := ctr_of_ctrs (setReg_ctrs s k v) a'
@[simp] theorem ctr_setFld (k lo w v : Nat) (a' : Nat) : (s.setFld k lo w v).ctr a' = s.ctr a' := ctr_of_ctrs (setFld_ctrs s k lo w v) a'
@[simp] theorem ctr_orReg (k : Nat) (m : Word) (a' : Nat) : (s.orReg k m).ctr a' = s.ctr a' := ctr_of_ctrs (orReg_ctrs s k m) a'
@[simp] theorem ctr_setLock (pg : Nat) (b : Bool) (a' : Nat) : (s.setLock pg b).ctr a' = s.ctr a' := ctr_of_ctrs (setLock_ctrs s pg b) a'
@[simp] theorem ctr_setTri (c w : Nat) (t : Tri) (a' : Nat) : (s.setTri c w t).ctr a' = s.ctr a' := ctr_of_ctrs (setTri_ctrs s c w t) a'
@[simp] theorem ctr_inject (p : Packet) (a' : Nat) : (s.inject p).ctr a' = s.ctr a' := ctr_of_ctrs (inject_ctrs s p) a'
@[simp] theorem ctr_dropPkt (k : Nat) (a' : Nat) : (s.dropPkt k).ctr a' = s.ctr a' := ctr_of_ctrs (dropPkt_ctrs s k) a'
@[simp] theorem ctr_modStrm (n : Nat) (i : StreamId) (f : Stream → Stream) (a' : Nat) : (s.modStrm n i f).ctr a' = s.ctr a' := ctr_of_ctrs (modStrm_ctrs s n i f) a'
@[simp] theorem ctr_setFlag (n f kind src : Nat) (a' : Nat) : (s.setFlag n f kind src).ctr a' = s.ctr a' := ctr_of_ctrs (setFlag_ctrs s n f kind src) a'
@[simp] theorem ctr_clrFlag (n f : Nat) (a' : Nat) : (s.clrFlag n f).ctr a' = s.ctr a' := ctr_of_ctrs (clrFlag_ctrs s n f) a'
@[simp] theorem ctr_closeReq (n t : Nat) (a' : Nat) : (s.closeReq n t).ctr a' = s.ctr a' := ctr_of_ctrs (closeReq_ctrs s n t) a'
@[simp] theorem ctr_modPort (p : Port) (f : PciePort → PciePort) (a' : Nat) : (s.modPort p f).ctr a' = s.ctr a' := ctr_of_ctrs (modPort_ctrs s p f) a'
@[simp] theorem ctr_complete (n : Nat) (e : Bool) (f src : Nat) (a' : Nat) : (s.complete n e f src).ctr a' = s.ctr a' := ctr_of_ctrs (complete_ctrs s n e f src) a'
@[simp] theorem ctr_flagTo (n f : Nat) (c : Bool) (k src : Nat) (a' : Nat) : (s.flagTo n f c k src).ctr a' = s.ctr a' := ctr_of_ctrs (flagTo_ctrs s n f c k src) a'
@[simp] theorem ctr_clearRecord (n : Nat) (i : StreamId) (a' : Nat) : (s.clearRecord n i).ctr a' = s.ctr a' := ctr_of_ctrs (clearRecord_ctrs s n i) a'

@[simp] theorem tri_setCore (n : Nat) (c : Core) (x y : Nat) : (s.setCore n c).tri x y = s.tri x y := tri_of_crit (setCore_crit s n c) x y
@[simp] theorem tri_modCore (n : Nat) (f : Core → Core) (x y : Nat) : (s.modCore n f).tri x y = s.tri x y := tri_of_crit (modCore_crit s n f) x y
@[simp] theorem tri_modPod (p : Nat) (f : Pod → Pod) (x y : Nat) : (s.modPod p f).tri x y = s.tri x y := tri_of_crit (modPod_crit s p f) x y
@[simp] theorem tri_modPart (P : Nat) (f : Part → Part) (x y : Nat) : (s.modPart P f).tri x y = s.tri x y := tri_of_crit (modPart_crit s P f) x y
@[simp] theorem tri_modLink (k : Nat) (f : Link → Link) (x y : Nat) : (s.modLink k f).tri x y = s.tri x y := tri_of_crit (modLink_crit s k f) x y
@[simp] theorem tri_modVault (n : Nat) (f : Vault → Vault) (x y : Nat) : (s.modVault n f).tri x y = s.tri x y := tri_of_crit (modVault_crit s n f) x y
@[simp] theorem tri_emit (o : Out) (x y : Nat) : (s.emit o).tri x y = s.tri x y := tri_of_crit (emit_crit s o) x y
@[simp] theorem tri_setReg (k : Nat) (v : Word) (x y : Nat) : (s.setReg k v).tri x y = s.tri x y := tri_of_crit (setReg_crit s k v) x y
@[simp] theorem tri_setFld (k lo w v : Nat) (x y : Nat) : (s.setFld k lo w v).tri x y = s.tri x y := tri_of_crit (setFld_crit s k lo w v) x y
@[simp] theorem tri_orReg (k : Nat) (m : Word) (x y : Nat) : (s.orReg k m).tri x y = s.tri x y := tri_of_crit (orReg_crit s k m) x y
@[simp] theorem tri_setLock (pg : Nat) (b : Bool) (x y : Nat) : (s.setLock pg b).tri x y = s.tri x y := tri_of_crit (setLock_crit s pg b) x y
@[simp] theorem tri_inject (p : Packet) (x y : Nat) : (s.inject p).tri x y = s.tri x y := tri_of_crit (inject_crit s p) x y
@[simp] theorem tri_dropPkt (k : Nat) (x y : Nat) : (s.dropPkt k).tri x y = s.tri x y := tri_of_crit (dropPkt_crit s k) x y
@[simp] theorem tri_modStrm (n : Nat) (i : StreamId) (f : Stream → Stream) (x y : Nat) : (s.modStrm n i f).tri x y = s.tri x y := tri_of_crit (modStrm_crit s n i f) x y
@[simp] theorem tri_setFlag (n f kind src : Nat) (x y : Nat) : (s.setFlag n f kind src).tri x y = s.tri x y := tri_of_crit (setFlag_crit s n f kind src) x y
@[simp] theorem tri_clrFlag (n f : Nat) (x y : Nat) : (s.clrFlag n f).tri x y = s.tri x y := tri_of_crit (clrFlag_crit s n f) x y
@[simp] theorem tri_closeReq (n t : Nat) (x y : Nat) : (s.closeReq n t).tri x y = s.tri x y := tri_of_crit (closeReq_crit s n t) x y
@[simp] theorem tri_modPort (p : Port) (f : PciePort → PciePort) (x y : Nat) : (s.modPort p f).tri x y = s.tri x y := tri_of_crit (modPort_crit s p f) x y
@[simp] theorem tri_bumpAt (a n : Nat) (x y : Nat) : (s.bumpAt a n).tri x y = s.tri x y := tri_of_crit (bumpAt_crit s a n) x y
@[simp] theorem tri_bump (pg i n : Nat) (x y : Nat) : (s.bump pg i n).tri x y = s.tri x y := tri_of_crit (bump_crit s pg i n) x y
@[simp] theorem tri_sendMsix (p : Port) (v : Nat) (x y : Nat) : (s.sendMsix p v).tri x y = s.tri x y := tri_of_crit (sendMsix_crit s p v) x y
@[simp] theorem tri_vecLook (p : Port) (v : Nat) (again : Bool) (x y : Nat) : (s.vecLook p v again).tri x y = s.tri x y := tri_of_crit (vecLook_crit s p v again) x y
@[simp] theorem tri_pageLook (pg : Nat) (again : Bool) (x y : Nat) : (s.pageLook pg again).tri x y = s.tri x y := tri_of_crit (pageLook_crit s pg again) x y
@[simp] theorem tri_raise (pg : Nat) (m : Word) (x y : Nat) : (s.raise pg m).tri x y = s.tri x y := tri_of_crit (raise_crit s pg m) x y
@[simp] theorem tri_evt (pg b : Nat) (x y : Nat) : (s.evt pg b).tri x y = s.tri x y := tri_of_crit (evt_crit s pg b) x y
@[simp] theorem tri_stall (n : Nat) (i : StreamId) (k c f : Nat) (e : Bool) (x y : Nat) : (s.stall n i k c f e).tri x y = s.tri x y := tri_of_crit (stall_crit s n i k c f e) x y
@[simp] theorem tri_complete (n : Nat) (e : Bool) (f src : Nat) (x y : Nat) : (s.complete n e f src).tri x y = s.tri x y := tri_of_crit (complete_crit s n e f src) x y
@[simp] theorem tri_flagTo (n f : Nat) (c : Bool) (k src : Nat) (x y : Nat) : (s.flagTo n f c k src).tri x y = s.tri x y := tri_of_crit (flagTo_crit s n f c k src) x y
@[simp] theorem tri_clearRecord (n : Nat) (i : StreamId) (x y : Nat) : (s.clearRecord n i).tri x y = s.tri x y := tri_of_crit (clearRecord_crit s n i) x y

@[simp] theorem critR_setCore (n : Nat) (c : Core) (x y : Nat) : (s.setCore n c).critR x y = s.critR x y := critR_of_crit (setCore_crit s n c) x y
@[simp] theorem critR_modCore (n : Nat) (f : Core → Core) (x y : Nat) : (s.modCore n f).critR x y = s.critR x y := critR_of_crit (modCore_crit s n f) x y
@[simp] theorem critR_modPod (p : Nat) (f : Pod → Pod) (x y : Nat) : (s.modPod p f).critR x y = s.critR x y := critR_of_crit (modPod_crit s p f) x y
@[simp] theorem critR_modPart (P : Nat) (f : Part → Part) (x y : Nat) : (s.modPart P f).critR x y = s.critR x y := critR_of_crit (modPart_crit s P f) x y
@[simp] theorem critR_modLink (k : Nat) (f : Link → Link) (x y : Nat) : (s.modLink k f).critR x y = s.critR x y := critR_of_crit (modLink_crit s k f) x y
@[simp] theorem critR_modVault (n : Nat) (f : Vault → Vault) (x y : Nat) : (s.modVault n f).critR x y = s.critR x y := critR_of_crit (modVault_crit s n f) x y
@[simp] theorem critR_emit (o : Out) (x y : Nat) : (s.emit o).critR x y = s.critR x y := critR_of_crit (emit_crit s o) x y
@[simp] theorem critR_setReg (k : Nat) (v : Word) (x y : Nat) : (s.setReg k v).critR x y = s.critR x y := critR_of_crit (setReg_crit s k v) x y
@[simp] theorem critR_setFld (k lo w v : Nat) (x y : Nat) : (s.setFld k lo w v).critR x y = s.critR x y := critR_of_crit (setFld_crit s k lo w v) x y
@[simp] theorem critR_orReg (k : Nat) (m : Word) (x y : Nat) : (s.orReg k m).critR x y = s.critR x y := critR_of_crit (orReg_crit s k m) x y
@[simp] theorem critR_setLock (pg : Nat) (b : Bool) (x y : Nat) : (s.setLock pg b).critR x y = s.critR x y := critR_of_crit (setLock_crit s pg b) x y
@[simp] theorem critR_inject (p : Packet) (x y : Nat) : (s.inject p).critR x y = s.critR x y := critR_of_crit (inject_crit s p) x y
@[simp] theorem critR_dropPkt (k : Nat) (x y : Nat) : (s.dropPkt k).critR x y = s.critR x y := critR_of_crit (dropPkt_crit s k) x y
@[simp] theorem critR_modStrm (n : Nat) (i : StreamId) (f : Stream → Stream) (x y : Nat) : (s.modStrm n i f).critR x y = s.critR x y := critR_of_crit (modStrm_crit s n i f) x y
@[simp] theorem critR_setFlag (n f kind src : Nat) (x y : Nat) : (s.setFlag n f kind src).critR x y = s.critR x y := critR_of_crit (setFlag_crit s n f kind src) x y
@[simp] theorem critR_clrFlag (n f : Nat) (x y : Nat) : (s.clrFlag n f).critR x y = s.critR x y := critR_of_crit (clrFlag_crit s n f) x y
@[simp] theorem critR_closeReq (n t : Nat) (x y : Nat) : (s.closeReq n t).critR x y = s.critR x y := critR_of_crit (closeReq_crit s n t) x y
@[simp] theorem critR_modPort (p : Port) (f : PciePort → PciePort) (x y : Nat) : (s.modPort p f).critR x y = s.critR x y := critR_of_crit (modPort_crit s p f) x y
@[simp] theorem critR_bumpAt (a n : Nat) (x y : Nat) : (s.bumpAt a n).critR x y = s.critR x y := critR_of_crit (bumpAt_crit s a n) x y
@[simp] theorem critR_bump (pg i n : Nat) (x y : Nat) : (s.bump pg i n).critR x y = s.critR x y := critR_of_crit (bump_crit s pg i n) x y
@[simp] theorem critR_sendMsix (p : Port) (v : Nat) (x y : Nat) : (s.sendMsix p v).critR x y = s.critR x y := critR_of_crit (sendMsix_crit s p v) x y
@[simp] theorem critR_vecLook (p : Port) (v : Nat) (again : Bool) (x y : Nat) : (s.vecLook p v again).critR x y = s.critR x y := critR_of_crit (vecLook_crit s p v again) x y
@[simp] theorem critR_pageLook (pg : Nat) (again : Bool) (x y : Nat) : (s.pageLook pg again).critR x y = s.critR x y := critR_of_crit (pageLook_crit s pg again) x y
@[simp] theorem critR_raise (pg : Nat) (m : Word) (x y : Nat) : (s.raise pg m).critR x y = s.critR x y := critR_of_crit (raise_crit s pg m) x y
@[simp] theorem critR_evt (pg b : Nat) (x y : Nat) : (s.evt pg b).critR x y = s.critR x y := critR_of_crit (evt_crit s pg b) x y
@[simp] theorem critR_stall (n : Nat) (i : StreamId) (k c f : Nat) (e : Bool) (x y : Nat) : (s.stall n i k c f e).critR x y = s.critR x y := critR_of_crit (stall_crit s n i k c f e) x y
@[simp] theorem critR_complete (n : Nat) (e : Bool) (f src : Nat) (x y : Nat) : (s.complete n e f src).critR x y = s.critR x y := critR_of_crit (complete_crit s n e f src) x y
@[simp] theorem critR_flagTo (n f : Nat) (c : Bool) (k src : Nat) (x y : Nat) : (s.flagTo n f c k src).critR x y = s.critR x y := critR_of_crit (flagTo_crit s n f c k src) x y
@[simp] theorem critR_clearRecord (n : Nat) (i : StreamId) (x y : Nat) : (s.clearRecord n i).critR x y = s.critR x y := critR_of_crit (clearRecord_crit s n i) x y

@[simp] theorem owner_setCore (n : Nat) (c : Core) (q : Nat) : (s.setCore n c).owner q = s.owner q := owner_of_crit (setCore_crit s n c) q
@[simp] theorem owner_modCore (n : Nat) (f : Core → Core) (q : Nat) : (s.modCore n f).owner q = s.owner q := owner_of_crit (modCore_crit s n f) q
@[simp] theorem owner_modPod (p : Nat) (f : Pod → Pod) (q : Nat) : (s.modPod p f).owner q = s.owner q := owner_of_crit (modPod_crit s p f) q
@[simp] theorem owner_modPart (P : Nat) (f : Part → Part) (q : Nat) : (s.modPart P f).owner q = s.owner q := owner_of_crit (modPart_crit s P f) q
@[simp] theorem owner_modLink (k : Nat) (f : Link → Link) (q : Nat) : (s.modLink k f).owner q = s.owner q := owner_of_crit (modLink_crit s k f) q
@[simp] theorem owner_modVault (n : Nat) (f : Vault → Vault) (q : Nat) : (s.modVault n f).owner q = s.owner q := owner_of_crit (modVault_crit s n f) q
@[simp] theorem owner_emit (o : Out) (q : Nat) : (s.emit o).owner q = s.owner q := owner_of_crit (emit_crit s o) q
@[simp] theorem owner_setReg (k : Nat) (v : Word) (q : Nat) : (s.setReg k v).owner q = s.owner q := owner_of_crit (setReg_crit s k v) q
@[simp] theorem owner_setFld (k lo w v : Nat) (q : Nat) : (s.setFld k lo w v).owner q = s.owner q := owner_of_crit (setFld_crit s k lo w v) q
@[simp] theorem owner_orReg (k : Nat) (m : Word) (q : Nat) : (s.orReg k m).owner q = s.owner q := owner_of_crit (orReg_crit s k m) q
@[simp] theorem owner_setLock (pg : Nat) (b : Bool) (q : Nat) : (s.setLock pg b).owner q = s.owner q := owner_of_crit (setLock_crit s pg b) q
@[simp] theorem owner_inject (p : Packet) (q : Nat) : (s.inject p).owner q = s.owner q := owner_of_crit (inject_crit s p) q
@[simp] theorem owner_dropPkt (k : Nat) (q : Nat) : (s.dropPkt k).owner q = s.owner q := owner_of_crit (dropPkt_crit s k) q
@[simp] theorem owner_modStrm (n : Nat) (i : StreamId) (f : Stream → Stream) (q : Nat) : (s.modStrm n i f).owner q = s.owner q := owner_of_crit (modStrm_crit s n i f) q
@[simp] theorem owner_setFlag (n f kind src : Nat) (q : Nat) : (s.setFlag n f kind src).owner q = s.owner q := owner_of_crit (setFlag_crit s n f kind src) q
@[simp] theorem owner_clrFlag (n f : Nat) (q : Nat) : (s.clrFlag n f).owner q = s.owner q := owner_of_crit (clrFlag_crit s n f) q
@[simp] theorem owner_closeReq (n t : Nat) (q : Nat) : (s.closeReq n t).owner q = s.owner q := owner_of_crit (closeReq_crit s n t) q
@[simp] theorem owner_modPort (p : Port) (f : PciePort → PciePort) (q : Nat) : (s.modPort p f).owner q = s.owner q := owner_of_crit (modPort_crit s p f) q
@[simp] theorem owner_bumpAt (a n : Nat) (q : Nat) : (s.bumpAt a n).owner q = s.owner q := owner_of_crit (bumpAt_crit s a n) q
@[simp] theorem owner_bump (pg i n : Nat) (q : Nat) : (s.bump pg i n).owner q = s.owner q := owner_of_crit (bump_crit s pg i n) q
@[simp] theorem owner_sendMsix (p : Port) (v : Nat) (q : Nat) : (s.sendMsix p v).owner q = s.owner q := owner_of_crit (sendMsix_crit s p v) q
@[simp] theorem owner_vecLook (p : Port) (v : Nat) (again : Bool) (q : Nat) : (s.vecLook p v again).owner q = s.owner q := owner_of_crit (vecLook_crit s p v again) q
@[simp] theorem owner_pageLook (pg : Nat) (again : Bool) (q : Nat) : (s.pageLook pg again).owner q = s.owner q := owner_of_crit (pageLook_crit s pg again) q
@[simp] theorem owner_raise (pg : Nat) (m : Word) (q : Nat) : (s.raise pg m).owner q = s.owner q := owner_of_crit (raise_crit s pg m) q
@[simp] theorem owner_evt (pg b : Nat) (q : Nat) : (s.evt pg b).owner q = s.owner q := owner_of_crit (evt_crit s pg b) q
@[simp] theorem owner_stall (n : Nat) (i : StreamId) (k c f : Nat) (e : Bool) (q : Nat) : (s.stall n i k c f e).owner q = s.owner q := owner_of_crit (stall_crit s n i k c f e) q
@[simp] theorem owner_complete (n : Nat) (e : Bool) (f src : Nat) (q : Nat) : (s.complete n e f src).owner q = s.owner q := owner_of_crit (complete_crit s n e f src) q
@[simp] theorem owner_flagTo (n f : Nat) (c : Bool) (k src : Nat) (q : Nat) : (s.flagTo n f c k src).owner q = s.owner q := owner_of_crit (flagTo_crit s n f c k src) q
@[simp] theorem owner_clearRecord (n : Nat) (i : StreamId) (q : Nat) : (s.clearRecord n i).owner q = s.owner q := owner_of_crit (clearRecord_crit s n i) q

@[simp] theorem ptEntry_setCore (n : Nat) (c : Core) (Q : Nat) : (s.setCore n c).ptEntry Q = s.ptEntry Q := ptEntry_of_crit (setCore_crit s n c) Q
@[simp] theorem ptEntry_modCore (n : Nat) (f : Core → Core) (Q : Nat) : (s.modCore n f).ptEntry Q = s.ptEntry Q := ptEntry_of_crit (modCore_crit s n f) Q
@[simp] theorem ptEntry_modPod (p : Nat) (f : Pod → Pod) (Q : Nat) : (s.modPod p f).ptEntry Q = s.ptEntry Q := ptEntry_of_crit (modPod_crit s p f) Q
@[simp] theorem ptEntry_modPart (P : Nat) (f : Part → Part) (Q : Nat) : (s.modPart P f).ptEntry Q = s.ptEntry Q := ptEntry_of_crit (modPart_crit s P f) Q
@[simp] theorem ptEntry_modLink (k : Nat) (f : Link → Link) (Q : Nat) : (s.modLink k f).ptEntry Q = s.ptEntry Q := ptEntry_of_crit (modLink_crit s k f) Q
@[simp] theorem ptEntry_modVault (n : Nat) (f : Vault → Vault) (Q : Nat) : (s.modVault n f).ptEntry Q = s.ptEntry Q := ptEntry_of_crit (modVault_crit s n f) Q
@[simp] theorem ptEntry_emit (o : Out) (Q : Nat) : (s.emit o).ptEntry Q = s.ptEntry Q := ptEntry_of_crit (emit_crit s o) Q
@[simp] theorem ptEntry_setReg (k : Nat) (v : Word) (Q : Nat) : (s.setReg k v).ptEntry Q = s.ptEntry Q := ptEntry_of_crit (setReg_crit s k v) Q
@[simp] theorem ptEntry_setFld (k lo w v : Nat) (Q : Nat) : (s.setFld k lo w v).ptEntry Q = s.ptEntry Q := ptEntry_of_crit (setFld_crit s k lo w v) Q
@[simp] theorem ptEntry_orReg (k : Nat) (m : Word) (Q : Nat) : (s.orReg k m).ptEntry Q = s.ptEntry Q := ptEntry_of_crit (orReg_crit s k m) Q
@[simp] theorem ptEntry_setLock (pg : Nat) (b : Bool) (Q : Nat) : (s.setLock pg b).ptEntry Q = s.ptEntry Q := ptEntry_of_crit (setLock_crit s pg b) Q
@[simp] theorem ptEntry_inject (p : Packet) (Q : Nat) : (s.inject p).ptEntry Q = s.ptEntry Q := ptEntry_of_crit (inject_crit s p) Q
@[simp] theorem ptEntry_dropPkt (k : Nat) (Q : Nat) : (s.dropPkt k).ptEntry Q = s.ptEntry Q := ptEntry_of_crit (dropPkt_crit s k) Q
@[simp] theorem ptEntry_modStrm (n : Nat) (i : StreamId) (f : Stream → Stream) (Q : Nat) : (s.modStrm n i f).ptEntry Q = s.ptEntry Q := ptEntry_of_crit (modStrm_crit s n i f) Q
@[simp] theorem ptEntry_setFlag (n f kind src : Nat) (Q : Nat) : (s.setFlag n f kind src).ptEntry Q = s.ptEntry Q := ptEntry_of_crit (setFlag_crit s n f kind src) Q
@[simp] theorem ptEntry_clrFlag (n f : Nat) (Q : Nat) : (s.clrFlag n f).ptEntry Q = s.ptEntry Q := ptEntry_of_crit (clrFlag_crit s n f) Q
@[simp] theorem ptEntry_closeReq (n t : Nat) (Q : Nat) : (s.closeReq n t).ptEntry Q = s.ptEntry Q := ptEntry_of_crit (closeReq_crit s n t) Q
@[simp] theorem ptEntry_modPort (p : Port) (f : PciePort → PciePort) (Q : Nat) : (s.modPort p f).ptEntry Q = s.ptEntry Q := ptEntry_of_crit (modPort_crit s p f) Q
@[simp] theorem ptEntry_bumpAt (a n : Nat) (Q : Nat) : (s.bumpAt a n).ptEntry Q = s.ptEntry Q := ptEntry_of_crit (bumpAt_crit s a n) Q
@[simp] theorem ptEntry_bump (pg i n : Nat) (Q : Nat) : (s.bump pg i n).ptEntry Q = s.ptEntry Q := ptEntry_of_crit (bump_crit s pg i n) Q
@[simp] theorem ptEntry_sendMsix (p : Port) (v : Nat) (Q : Nat) : (s.sendMsix p v).ptEntry Q = s.ptEntry Q := ptEntry_of_crit (sendMsix_crit s p v) Q
@[simp] theorem ptEntry_vecLook (p : Port) (v : Nat) (again : Bool) (Q : Nat) : (s.vecLook p v again).ptEntry Q = s.ptEntry Q := ptEntry_of_crit (vecLook_crit s p v again) Q
@[simp] theorem ptEntry_pageLook (pg : Nat) (again : Bool) (Q : Nat) : (s.pageLook pg again).ptEntry Q = s.ptEntry Q := ptEntry_of_crit (pageLook_crit s pg again) Q
@[simp] theorem ptEntry_raise (pg : Nat) (m : Word) (Q : Nat) : (s.raise pg m).ptEntry Q = s.ptEntry Q := ptEntry_of_crit (raise_crit s pg m) Q
@[simp] theorem ptEntry_evt (pg b : Nat) (Q : Nat) : (s.evt pg b).ptEntry Q = s.ptEntry Q := ptEntry_of_crit (evt_crit s pg b) Q
@[simp] theorem ptEntry_stall (n : Nat) (i : StreamId) (k c f : Nat) (e : Bool) (Q : Nat) : (s.stall n i k c f e).ptEntry Q = s.ptEntry Q := ptEntry_of_crit (stall_crit s n i k c f e) Q
@[simp] theorem ptEntry_complete (n : Nat) (e : Bool) (f src : Nat) (Q : Nat) : (s.complete n e f src).ptEntry Q = s.ptEntry Q := ptEntry_of_crit (complete_crit s n e f src) Q
@[simp] theorem ptEntry_flagTo (n f : Nat) (c : Bool) (k src : Nat) (Q : Nat) : (s.flagTo n f c k src).ptEntry Q = s.ptEntry Q := ptEntry_of_crit (flagTo_crit s n f c k src) Q
@[simp] theorem ptEntry_clearRecord (n : Nat) (i : StreamId) (Q : Nat) : (s.clearRecord n i).ptEntry Q = s.ptEntry Q := ptEntry_of_crit (clearRecord_crit s n i) Q

@[simp] theorem corePart_setCore (n : Nat) (c : Core) (m : Nat) : (s.setCore n c).corePart m = s.corePart m := corePart_of_crit (setCore_crit s n c) m
@[simp] theorem corePart_modCore (n : Nat) (f : Core → Core) (m : Nat) : (s.modCore n f).corePart m = s.corePart m := corePart_of_crit (modCore_crit s n f) m
@[simp] theorem corePart_modPod (p : Nat) (f : Pod → Pod) (m : Nat) : (s.modPod p f).corePart m = s.corePart m := corePart_of_crit (modPod_crit s p f) m
@[simp] theorem corePart_modPart (P : Nat) (f : Part → Part) (m : Nat) : (s.modPart P f).corePart m = s.corePart m := corePart_of_crit (modPart_crit s P f) m
@[simp] theorem corePart_modLink (k : Nat) (f : Link → Link) (m : Nat) : (s.modLink k f).corePart m = s.corePart m := corePart_of_crit (modLink_crit s k f) m
@[simp] theorem corePart_modVault (n : Nat) (f : Vault → Vault) (m : Nat) : (s.modVault n f).corePart m = s.corePart m := corePart_of_crit (modVault_crit s n f) m
@[simp] theorem corePart_emit (o : Out) (m : Nat) : (s.emit o).corePart m = s.corePart m := corePart_of_crit (emit_crit s o) m
@[simp] theorem corePart_setReg (k : Nat) (v : Word) (m : Nat) : (s.setReg k v).corePart m = s.corePart m := corePart_of_crit (setReg_crit s k v) m
@[simp] theorem corePart_setFld (k lo w v : Nat) (m : Nat) : (s.setFld k lo w v).corePart m = s.corePart m := corePart_of_crit (setFld_crit s k lo w v) m
@[simp] theorem corePart_orReg (k : Nat) (m : Word) (m0 : Nat) : (s.orReg k m).corePart m0 = s.corePart m0 := corePart_of_crit (orReg_crit s k m) m0
@[simp] theorem corePart_setLock (pg : Nat) (b : Bool) (m : Nat) : (s.setLock pg b).corePart m = s.corePart m := corePart_of_crit (setLock_crit s pg b) m
@[simp] theorem corePart_inject (p : Packet) (m : Nat) : (s.inject p).corePart m = s.corePart m := corePart_of_crit (inject_crit s p) m
@[simp] theorem corePart_dropPkt (k : Nat) (m : Nat) : (s.dropPkt k).corePart m = s.corePart m := corePart_of_crit (dropPkt_crit s k) m
@[simp] theorem corePart_modStrm (n : Nat) (i : StreamId) (f : Stream → Stream) (m : Nat) : (s.modStrm n i f).corePart m = s.corePart m := corePart_of_crit (modStrm_crit s n i f) m
@[simp] theorem corePart_setFlag (n f kind src : Nat) (m : Nat) : (s.setFlag n f kind src).corePart m = s.corePart m := corePart_of_crit (setFlag_crit s n f kind src) m
@[simp] theorem corePart_clrFlag (n f : Nat) (m : Nat) : (s.clrFlag n f).corePart m = s.corePart m := corePart_of_crit (clrFlag_crit s n f) m
@[simp] theorem corePart_closeReq (n t : Nat) (m : Nat) : (s.closeReq n t).corePart m = s.corePart m := corePart_of_crit (closeReq_crit s n t) m
@[simp] theorem corePart_modPort (p : Port) (f : PciePort → PciePort) (m : Nat) : (s.modPort p f).corePart m = s.corePart m := corePart_of_crit (modPort_crit s p f) m
@[simp] theorem corePart_bumpAt (a n : Nat) (m : Nat) : (s.bumpAt a n).corePart m = s.corePart m := corePart_of_crit (bumpAt_crit s a n) m
@[simp] theorem corePart_bump (pg i n : Nat) (m : Nat) : (s.bump pg i n).corePart m = s.corePart m := corePart_of_crit (bump_crit s pg i n) m
@[simp] theorem corePart_sendMsix (p : Port) (v : Nat) (m : Nat) : (s.sendMsix p v).corePart m = s.corePart m := corePart_of_crit (sendMsix_crit s p v) m
@[simp] theorem corePart_vecLook (p : Port) (v : Nat) (again : Bool) (m : Nat) : (s.vecLook p v again).corePart m = s.corePart m := corePart_of_crit (vecLook_crit s p v again) m
@[simp] theorem corePart_pageLook (pg : Nat) (again : Bool) (m : Nat) : (s.pageLook pg again).corePart m = s.corePart m := corePart_of_crit (pageLook_crit s pg again) m
@[simp] theorem corePart_raise (pg : Nat) (m : Word) (m0 : Nat) : (s.raise pg m).corePart m0 = s.corePart m0 := corePart_of_crit (raise_crit s pg m) m0
@[simp] theorem corePart_evt (pg b : Nat) (m : Nat) : (s.evt pg b).corePart m = s.corePart m := corePart_of_crit (evt_crit s pg b) m
@[simp] theorem corePart_stall (n : Nat) (i : StreamId) (k c f : Nat) (e : Bool) (m : Nat) : (s.stall n i k c f e).corePart m = s.corePart m := corePart_of_crit (stall_crit s n i k c f e) m
@[simp] theorem corePart_complete (n : Nat) (e : Bool) (f src : Nat) (m : Nat) : (s.complete n e f src).corePart m = s.corePart m := corePart_of_crit (complete_crit s n e f src) m
@[simp] theorem corePart_flagTo (n f : Nat) (c : Bool) (k src : Nat) (m : Nat) : (s.flagTo n f c k src).corePart m = s.corePart m := corePart_of_crit (flagTo_crit s n f c k src) m
@[simp] theorem corePart_clearRecord (n : Nat) (i : StreamId) (m : Nat) : (s.clearRecord n i).corePart m = s.corePart m := corePart_of_crit (clearRecord_crit s n i) m

@[simp] theorem ptState_setCore (n : Nat) (c : Core) (Q : Nat) : (s.setCore n c).ptState Q = s.ptState Q := ptState_of_crit (setCore_crit s n c) Q
@[simp] theorem ptState_modCore (n : Nat) (f : Core → Core) (Q : Nat) : (s.modCore n f).ptState Q = s.ptState Q := ptState_of_crit (modCore_crit s n f) Q
@[simp] theorem ptState_modPod (p : Nat) (f : Pod → Pod) (Q : Nat) : (s.modPod p f).ptState Q = s.ptState Q := ptState_of_crit (modPod_crit s p f) Q
@[simp] theorem ptState_modPart (P : Nat) (f : Part → Part) (Q : Nat) : (s.modPart P f).ptState Q = s.ptState Q := ptState_of_crit (modPart_crit s P f) Q
@[simp] theorem ptState_modLink (k : Nat) (f : Link → Link) (Q : Nat) : (s.modLink k f).ptState Q = s.ptState Q := ptState_of_crit (modLink_crit s k f) Q
@[simp] theorem ptState_modVault (n : Nat) (f : Vault → Vault) (Q : Nat) : (s.modVault n f).ptState Q = s.ptState Q := ptState_of_crit (modVault_crit s n f) Q
@[simp] theorem ptState_emit (o : Out) (Q : Nat) : (s.emit o).ptState Q = s.ptState Q := ptState_of_crit (emit_crit s o) Q
@[simp] theorem ptState_setReg (k : Nat) (v : Word) (Q : Nat) : (s.setReg k v).ptState Q = s.ptState Q := ptState_of_crit (setReg_crit s k v) Q
@[simp] theorem ptState_setFld (k lo w v : Nat) (Q : Nat) : (s.setFld k lo w v).ptState Q = s.ptState Q := ptState_of_crit (setFld_crit s k lo w v) Q
@[simp] theorem ptState_orReg (k : Nat) (m : Word) (Q : Nat) : (s.orReg k m).ptState Q = s.ptState Q := ptState_of_crit (orReg_crit s k m) Q
@[simp] theorem ptState_setLock (pg : Nat) (b : Bool) (Q : Nat) : (s.setLock pg b).ptState Q = s.ptState Q := ptState_of_crit (setLock_crit s pg b) Q
@[simp] theorem ptState_inject (p : Packet) (Q : Nat) : (s.inject p).ptState Q = s.ptState Q := ptState_of_crit (inject_crit s p) Q
@[simp] theorem ptState_dropPkt (k : Nat) (Q : Nat) : (s.dropPkt k).ptState Q = s.ptState Q := ptState_of_crit (dropPkt_crit s k) Q
@[simp] theorem ptState_modStrm (n : Nat) (i : StreamId) (f : Stream → Stream) (Q : Nat) : (s.modStrm n i f).ptState Q = s.ptState Q := ptState_of_crit (modStrm_crit s n i f) Q
@[simp] theorem ptState_setFlag (n f kind src : Nat) (Q : Nat) : (s.setFlag n f kind src).ptState Q = s.ptState Q := ptState_of_crit (setFlag_crit s n f kind src) Q
@[simp] theorem ptState_clrFlag (n f : Nat) (Q : Nat) : (s.clrFlag n f).ptState Q = s.ptState Q := ptState_of_crit (clrFlag_crit s n f) Q
@[simp] theorem ptState_closeReq (n t : Nat) (Q : Nat) : (s.closeReq n t).ptState Q = s.ptState Q := ptState_of_crit (closeReq_crit s n t) Q
@[simp] theorem ptState_modPort (p : Port) (f : PciePort → PciePort) (Q : Nat) : (s.modPort p f).ptState Q = s.ptState Q := ptState_of_crit (modPort_crit s p f) Q
@[simp] theorem ptState_bumpAt (a n : Nat) (Q : Nat) : (s.bumpAt a n).ptState Q = s.ptState Q := ptState_of_crit (bumpAt_crit s a n) Q
@[simp] theorem ptState_bump (pg i n : Nat) (Q : Nat) : (s.bump pg i n).ptState Q = s.ptState Q := ptState_of_crit (bump_crit s pg i n) Q
@[simp] theorem ptState_sendMsix (p : Port) (v : Nat) (Q : Nat) : (s.sendMsix p v).ptState Q = s.ptState Q := ptState_of_crit (sendMsix_crit s p v) Q
@[simp] theorem ptState_vecLook (p : Port) (v : Nat) (again : Bool) (Q : Nat) : (s.vecLook p v again).ptState Q = s.ptState Q := ptState_of_crit (vecLook_crit s p v again) Q
@[simp] theorem ptState_pageLook (pg : Nat) (again : Bool) (Q : Nat) : (s.pageLook pg again).ptState Q = s.ptState Q := ptState_of_crit (pageLook_crit s pg again) Q
@[simp] theorem ptState_raise (pg : Nat) (m : Word) (Q : Nat) : (s.raise pg m).ptState Q = s.ptState Q := ptState_of_crit (raise_crit s pg m) Q
@[simp] theorem ptState_evt (pg b : Nat) (Q : Nat) : (s.evt pg b).ptState Q = s.ptState Q := ptState_of_crit (evt_crit s pg b) Q
@[simp] theorem ptState_stall (n : Nat) (i : StreamId) (k c f : Nat) (e : Bool) (Q : Nat) : (s.stall n i k c f e).ptState Q = s.ptState Q := ptState_of_crit (stall_crit s n i k c f e) Q
@[simp] theorem ptState_complete (n : Nat) (e : Bool) (f src : Nat) (Q : Nat) : (s.complete n e f src).ptState Q = s.ptState Q := ptState_of_crit (complete_crit s n e f src) Q
@[simp] theorem ptState_flagTo (n f : Nat) (c : Bool) (k src : Nat) (Q : Nat) : (s.flagTo n f c k src).ptState Q = s.ptState Q := ptState_of_crit (flagTo_crit s n f c k src) Q
@[simp] theorem ptState_clearRecord (n : Nat) (i : StreamId) (Q : Nat) : (s.clearRecord n i).ptState Q = s.ptState Q := ptState_of_crit (clearRecord_crit s n i) Q

@[simp] theorem ptPort_setCore (n : Nat) (c : Core) (Q : Nat) : (s.setCore n c).ptPort Q = s.ptPort Q := ptPort_of_crit (setCore_crit s n c) Q
@[simp] theorem ptPort_modCore (n : Nat) (f : Core → Core) (Q : Nat) : (s.modCore n f).ptPort Q = s.ptPort Q := ptPort_of_crit (modCore_crit s n f) Q
@[simp] theorem ptPort_modPod (p : Nat) (f : Pod → Pod) (Q : Nat) : (s.modPod p f).ptPort Q = s.ptPort Q := ptPort_of_crit (modPod_crit s p f) Q
@[simp] theorem ptPort_modPart (P : Nat) (f : Part → Part) (Q : Nat) : (s.modPart P f).ptPort Q = s.ptPort Q := ptPort_of_crit (modPart_crit s P f) Q
@[simp] theorem ptPort_modLink (k : Nat) (f : Link → Link) (Q : Nat) : (s.modLink k f).ptPort Q = s.ptPort Q := ptPort_of_crit (modLink_crit s k f) Q
@[simp] theorem ptPort_modVault (n : Nat) (f : Vault → Vault) (Q : Nat) : (s.modVault n f).ptPort Q = s.ptPort Q := ptPort_of_crit (modVault_crit s n f) Q
@[simp] theorem ptPort_emit (o : Out) (Q : Nat) : (s.emit o).ptPort Q = s.ptPort Q := ptPort_of_crit (emit_crit s o) Q
@[simp] theorem ptPort_setReg (k : Nat) (v : Word) (Q : Nat) : (s.setReg k v).ptPort Q = s.ptPort Q := ptPort_of_crit (setReg_crit s k v) Q
@[simp] theorem ptPort_setFld (k lo w v : Nat) (Q : Nat) : (s.setFld k lo w v).ptPort Q = s.ptPort Q := ptPort_of_crit (setFld_crit s k lo w v) Q
@[simp] theorem ptPort_orReg (k : Nat) (m : Word) (Q : Nat) : (s.orReg k m).ptPort Q = s.ptPort Q := ptPort_of_crit (orReg_crit s k m) Q
@[simp] theorem ptPort_setLock (pg : Nat) (b : Bool) (Q : Nat) : (s.setLock pg b).ptPort Q = s.ptPort Q := ptPort_of_crit (setLock_crit s pg b) Q
@[simp] theorem ptPort_inject (p : Packet) (Q : Nat) : (s.inject p).ptPort Q = s.ptPort Q := ptPort_of_crit (inject_crit s p) Q
@[simp] theorem ptPort_dropPkt (k : Nat) (Q : Nat) : (s.dropPkt k).ptPort Q = s.ptPort Q := ptPort_of_crit (dropPkt_crit s k) Q
@[simp] theorem ptPort_modStrm (n : Nat) (i : StreamId) (f : Stream → Stream) (Q : Nat) : (s.modStrm n i f).ptPort Q = s.ptPort Q := ptPort_of_crit (modStrm_crit s n i f) Q
@[simp] theorem ptPort_setFlag (n f kind src : Nat) (Q : Nat) : (s.setFlag n f kind src).ptPort Q = s.ptPort Q := ptPort_of_crit (setFlag_crit s n f kind src) Q
@[simp] theorem ptPort_clrFlag (n f : Nat) (Q : Nat) : (s.clrFlag n f).ptPort Q = s.ptPort Q := ptPort_of_crit (clrFlag_crit s n f) Q
@[simp] theorem ptPort_closeReq (n t : Nat) (Q : Nat) : (s.closeReq n t).ptPort Q = s.ptPort Q := ptPort_of_crit (closeReq_crit s n t) Q
@[simp] theorem ptPort_modPort (p : Port) (f : PciePort → PciePort) (Q : Nat) : (s.modPort p f).ptPort Q = s.ptPort Q := ptPort_of_crit (modPort_crit s p f) Q
@[simp] theorem ptPort_bumpAt (a n : Nat) (Q : Nat) : (s.bumpAt a n).ptPort Q = s.ptPort Q := ptPort_of_crit (bumpAt_crit s a n) Q
@[simp] theorem ptPort_bump (pg i n : Nat) (Q : Nat) : (s.bump pg i n).ptPort Q = s.ptPort Q := ptPort_of_crit (bump_crit s pg i n) Q
@[simp] theorem ptPort_sendMsix (p : Port) (v : Nat) (Q : Nat) : (s.sendMsix p v).ptPort Q = s.ptPort Q := ptPort_of_crit (sendMsix_crit s p v) Q
@[simp] theorem ptPort_vecLook (p : Port) (v : Nat) (again : Bool) (Q : Nat) : (s.vecLook p v again).ptPort Q = s.ptPort Q := ptPort_of_crit (vecLook_crit s p v again) Q
@[simp] theorem ptPort_pageLook (pg : Nat) (again : Bool) (Q : Nat) : (s.pageLook pg again).ptPort Q = s.ptPort Q := ptPort_of_crit (pageLook_crit s pg again) Q
@[simp] theorem ptPort_raise (pg : Nat) (m : Word) (Q : Nat) : (s.raise pg m).ptPort Q = s.ptPort Q := ptPort_of_crit (raise_crit s pg m) Q
@[simp] theorem ptPort_evt (pg b : Nat) (Q : Nat) : (s.evt pg b).ptPort Q = s.ptPort Q := ptPort_of_crit (evt_crit s pg b) Q
@[simp] theorem ptPort_stall (n : Nat) (i : StreamId) (k c f : Nat) (e : Bool) (Q : Nat) : (s.stall n i k c f e).ptPort Q = s.ptPort Q := ptPort_of_crit (stall_crit s n i k c f e) Q
@[simp] theorem ptPort_complete (n : Nat) (e : Bool) (f src : Nat) (Q : Nat) : (s.complete n e f src).ptPort Q = s.ptPort Q := ptPort_of_crit (complete_crit s n e f src) Q
@[simp] theorem ptPort_flagTo (n f : Nat) (c : Bool) (k src : Nat) (Q : Nat) : (s.flagTo n f c k src).ptPort Q = s.ptPort Q := ptPort_of_crit (flagTo_crit s n f c k src) Q
@[simp] theorem ptPort_clearRecord (n : Nat) (i : StreamId) (Q : Nat) : (s.clearRecord n i).ptPort Q = s.ptPort Q := ptPort_of_crit (clearRecord_crit s n i) Q

@[simp] theorem ptCols_setCore (n : Nat) (c : Core) (Q : Nat) : (s.setCore n c).ptCols Q = s.ptCols Q := ptCols_of_crit (setCore_crit s n c) Q
@[simp] theorem ptCols_modCore (n : Nat) (f : Core → Core) (Q : Nat) : (s.modCore n f).ptCols Q = s.ptCols Q := ptCols_of_crit (modCore_crit s n f) Q
@[simp] theorem ptCols_modPod (p : Nat) (f : Pod → Pod) (Q : Nat) : (s.modPod p f).ptCols Q = s.ptCols Q := ptCols_of_crit (modPod_crit s p f) Q
@[simp] theorem ptCols_modPart (P : Nat) (f : Part → Part) (Q : Nat) : (s.modPart P f).ptCols Q = s.ptCols Q := ptCols_of_crit (modPart_crit s P f) Q
@[simp] theorem ptCols_modLink (k : Nat) (f : Link → Link) (Q : Nat) : (s.modLink k f).ptCols Q = s.ptCols Q := ptCols_of_crit (modLink_crit s k f) Q
@[simp] theorem ptCols_modVault (n : Nat) (f : Vault → Vault) (Q : Nat) : (s.modVault n f).ptCols Q = s.ptCols Q := ptCols_of_crit (modVault_crit s n f) Q
@[simp] theorem ptCols_emit (o : Out) (Q : Nat) : (s.emit o).ptCols Q = s.ptCols Q := ptCols_of_crit (emit_crit s o) Q
@[simp] theorem ptCols_setReg (k : Nat) (v : Word) (Q : Nat) : (s.setReg k v).ptCols Q = s.ptCols Q := ptCols_of_crit (setReg_crit s k v) Q
@[simp] theorem ptCols_setFld (k lo w v : Nat) (Q : Nat) : (s.setFld k lo w v).ptCols Q = s.ptCols Q := ptCols_of_crit (setFld_crit s k lo w v) Q
@[simp] theorem ptCols_orReg (k : Nat) (m : Word) (Q : Nat) : (s.orReg k m).ptCols Q = s.ptCols Q := ptCols_of_crit (orReg_crit s k m) Q
@[simp] theorem ptCols_setLock (pg : Nat) (b : Bool) (Q : Nat) : (s.setLock pg b).ptCols Q = s.ptCols Q := ptCols_of_crit (setLock_crit s pg b) Q
@[simp] theorem ptCols_inject (p : Packet) (Q : Nat) : (s.inject p).ptCols Q = s.ptCols Q := ptCols_of_crit (inject_crit s p) Q
@[simp] theorem ptCols_dropPkt (k : Nat) (Q : Nat) : (s.dropPkt k).ptCols Q = s.ptCols Q := ptCols_of_crit (dropPkt_crit s k) Q
@[simp] theorem ptCols_modStrm (n : Nat) (i : StreamId) (f : Stream → Stream) (Q : Nat) : (s.modStrm n i f).ptCols Q = s.ptCols Q := ptCols_of_crit (modStrm_crit s n i f) Q
@[simp] theorem ptCols_setFlag (n f kind src : Nat) (Q : Nat) : (s.setFlag n f kind src).ptCols Q = s.ptCols Q := ptCols_of_crit (setFlag_crit s n f kind src) Q
@[simp] theorem ptCols_clrFlag (n f : Nat) (Q : Nat) : (s.clrFlag n f).ptCols Q = s.ptCols Q := ptCols_of_crit (clrFlag_crit s n f) Q
@[simp] theorem ptCols_closeReq (n t : Nat) (Q : Nat) : (s.closeReq n t).ptCols Q = s.ptCols Q := ptCols_of_crit (closeReq_crit s n t) Q
@[simp] theorem ptCols_modPort (p : Port) (f : PciePort → PciePort) (Q : Nat) : (s.modPort p f).ptCols Q = s.ptCols Q := ptCols_of_crit (modPort_crit s p f) Q
@[simp] theorem ptCols_bumpAt (a n : Nat) (Q : Nat) : (s.bumpAt a n).ptCols Q = s.ptCols Q := ptCols_of_crit (bumpAt_crit s a n) Q
@[simp] theorem ptCols_bump (pg i n : Nat) (Q : Nat) : (s.bump pg i n).ptCols Q = s.ptCols Q := ptCols_of_crit (bump_crit s pg i n) Q
@[simp] theorem ptCols_sendMsix (p : Port) (v : Nat) (Q : Nat) : (s.sendMsix p v).ptCols Q = s.ptCols Q := ptCols_of_crit (sendMsix_crit s p v) Q
@[simp] theorem ptCols_vecLook (p : Port) (v : Nat) (again : Bool) (Q : Nat) : (s.vecLook p v again).ptCols Q = s.ptCols Q := ptCols_of_crit (vecLook_crit s p v again) Q
@[simp] theorem ptCols_pageLook (pg : Nat) (again : Bool) (Q : Nat) : (s.pageLook pg again).ptCols Q = s.ptCols Q := ptCols_of_crit (pageLook_crit s pg again) Q
@[simp] theorem ptCols_raise (pg : Nat) (m : Word) (Q : Nat) : (s.raise pg m).ptCols Q = s.ptCols Q := ptCols_of_crit (raise_crit s pg m) Q
@[simp] theorem ptCols_evt (pg b : Nat) (Q : Nat) : (s.evt pg b).ptCols Q = s.ptCols Q := ptCols_of_crit (evt_crit s pg b) Q
@[simp] theorem ptCols_stall (n : Nat) (i : StreamId) (k c f : Nat) (e : Bool) (Q : Nat) : (s.stall n i k c f e).ptCols Q = s.ptCols Q := ptCols_of_crit (stall_crit s n i k c f e) Q
@[simp] theorem ptCols_complete (n : Nat) (e : Bool) (f src : Nat) (Q : Nat) : (s.complete n e f src).ptCols Q = s.ptCols Q := ptCols_of_crit (complete_crit s n e f src) Q
@[simp] theorem ptCols_flagTo (n f : Nat) (c : Bool) (k src : Nat) (Q : Nat) : (s.flagTo n f c k src).ptCols Q = s.ptCols Q := ptCols_of_crit (flagTo_crit s n f c k src) Q
@[simp] theorem ptCols_clearRecord (n : Nat) (i : StreamId) (Q : Nat) : (s.clearRecord n i).ptCols Q = s.ptCols Q := ptCols_of_crit (clearRecord_crit s n i) Q

@[simp] theorem ptCores_setCore (n : Nat) (c : Core) (Q : Nat) : (s.setCore n c).ptCores Q = s.ptCores Q := ptCores_of_crit (setCore_crit s n c) Q
@[simp] theorem ptCores_modCore (n : Nat) (f : Core → Core) (Q : Nat) : (s.modCore n f).ptCores Q = s.ptCores Q := ptCores_of_crit (modCore_crit s n f) Q
@[simp] theorem ptCores_modPod (p : Nat) (f : Pod → Pod) (Q : Nat) : (s.modPod p f).ptCores Q = s.ptCores Q := ptCores_of_crit (modPod_crit s p f) Q
@[simp] theorem ptCores_modPart (P : Nat) (f : Part → Part) (Q : Nat) : (s.modPart P f).ptCores Q = s.ptCores Q := ptCores_of_crit (modPart_crit s P f) Q
@[simp] theorem ptCores_modLink (k : Nat) (f : Link → Link) (Q : Nat) : (s.modLink k f).ptCores Q = s.ptCores Q := ptCores_of_crit (modLink_crit s k f) Q
@[simp] theorem ptCores_modVault (n : Nat) (f : Vault → Vault) (Q : Nat) : (s.modVault n f).ptCores Q = s.ptCores Q := ptCores_of_crit (modVault_crit s n f) Q
@[simp] theorem ptCores_emit (o : Out) (Q : Nat) : (s.emit o).ptCores Q = s.ptCores Q := ptCores_of_crit (emit_crit s o) Q
@[simp] theorem ptCores_setReg (k : Nat) (v : Word) (Q : Nat) : (s.setReg k v).ptCores Q = s.ptCores Q := ptCores_of_crit (setReg_crit s k v) Q
@[simp] theorem ptCores_setFld (k lo w v : Nat) (Q : Nat) : (s.setFld k lo w v).ptCores Q = s.ptCores Q := ptCores_of_crit (setFld_crit s k lo w v) Q
@[simp] theorem ptCores_orReg (k : Nat) (m : Word) (Q : Nat) : (s.orReg k m).ptCores Q = s.ptCores Q := ptCores_of_crit (orReg_crit s k m) Q
@[simp] theorem ptCores_setLock (pg : Nat) (b : Bool) (Q : Nat) : (s.setLock pg b).ptCores Q = s.ptCores Q := ptCores_of_crit (setLock_crit s pg b) Q
@[simp] theorem ptCores_inject (p : Packet) (Q : Nat) : (s.inject p).ptCores Q = s.ptCores Q := ptCores_of_crit (inject_crit s p) Q
@[simp] theorem ptCores_dropPkt (k : Nat) (Q : Nat) : (s.dropPkt k).ptCores Q = s.ptCores Q := ptCores_of_crit (dropPkt_crit s k) Q
@[simp] theorem ptCores_modStrm (n : Nat) (i : StreamId) (f : Stream → Stream) (Q : Nat) : (s.modStrm n i f).ptCores Q = s.ptCores Q := ptCores_of_crit (modStrm_crit s n i f) Q
@[simp] theorem ptCores_setFlag (n f kind src : Nat) (Q : Nat) : (s.setFlag n f kind src).ptCores Q = s.ptCores Q := ptCores_of_crit (setFlag_crit s n f kind src) Q
@[simp] theorem ptCores_clrFlag (n f : Nat) (Q : Nat) : (s.clrFlag n f).ptCores Q = s.ptCores Q := ptCores_of_crit (clrFlag_crit s n f) Q
@[simp] theorem ptCores_closeReq (n t : Nat) (Q : Nat) : (s.closeReq n t).ptCores Q = s.ptCores Q := ptCores_of_crit (closeReq_crit s n t) Q
@[simp] theorem ptCores_modPort (p : Port) (f : PciePort → PciePort) (Q : Nat) : (s.modPort p f).ptCores Q = s.ptCores Q := ptCores_of_crit (modPort_crit s p f) Q
@[simp] theorem ptCores_bumpAt (a n : Nat) (Q : Nat) : (s.bumpAt a n).ptCores Q = s.ptCores Q := ptCores_of_crit (bumpAt_crit s a n) Q
@[simp] theorem ptCores_bump (pg i n : Nat) (Q : Nat) : (s.bump pg i n).ptCores Q = s.ptCores Q := ptCores_of_crit (bump_crit s pg i n) Q
@[simp] theorem ptCores_sendMsix (p : Port) (v : Nat) (Q : Nat) : (s.sendMsix p v).ptCores Q = s.ptCores Q := ptCores_of_crit (sendMsix_crit s p v) Q
@[simp] theorem ptCores_vecLook (p : Port) (v : Nat) (again : Bool) (Q : Nat) : (s.vecLook p v again).ptCores Q = s.ptCores Q := ptCores_of_crit (vecLook_crit s p v again) Q
@[simp] theorem ptCores_pageLook (pg : Nat) (again : Bool) (Q : Nat) : (s.pageLook pg again).ptCores Q = s.ptCores Q := ptCores_of_crit (pageLook_crit s pg again) Q
@[simp] theorem ptCores_raise (pg : Nat) (m : Word) (Q : Nat) : (s.raise pg m).ptCores Q = s.ptCores Q := ptCores_of_crit (raise_crit s pg m) Q
@[simp] theorem ptCores_evt (pg b : Nat) (Q : Nat) : (s.evt pg b).ptCores Q = s.ptCores Q := ptCores_of_crit (evt_crit s pg b) Q
@[simp] theorem ptCores_stall (n : Nat) (i : StreamId) (k c f : Nat) (e : Bool) (Q : Nat) : (s.stall n i k c f e).ptCores Q = s.ptCores Q := ptCores_of_crit (stall_crit s n i k c f e) Q
@[simp] theorem ptCores_complete (n : Nat) (e : Bool) (f src : Nat) (Q : Nat) : (s.complete n e f src).ptCores Q = s.ptCores Q := ptCores_of_crit (complete_crit s n e f src) Q
@[simp] theorem ptCores_flagTo (n f : Nat) (c : Bool) (k src : Nat) (Q : Nat) : (s.flagTo n f c k src).ptCores Q = s.ptCores Q := ptCores_of_crit (flagTo_crit s n f c k src) Q
@[simp] theorem ptCores_clearRecord (n : Nat) (i : StreamId) (Q : Nat) : (s.clearRecord n i).ptCores Q = s.ptCores Q := ptCores_of_crit (clearRecord_crit s n i) Q

@[simp] theorem locked_setCore (n : Nat) (c : Core) (q : Nat) : (s.setCore n c).locked q = s.locked q := locked_of_locks (setCore_locks s n c) q
@[simp] theorem locked_modCore (n : Nat) (f : Core → Core) (q : Nat) : (s.modCore n f).locked q = s.locked q := locked_of_locks (modCore_locks s n f) q
@[simp] theorem locked_modPod (p : Nat) (f : Pod → Pod) (q : Nat) : (s.modPod p f).locked q = s.locked q := locked_of_locks (modPod_locks s p f) q
@[simp] theorem locked_modPart (P : Nat) (f : Part → Part) (q : Nat) : (s.modPart P f).locked q = s.locked q := locked_of_locks (modPart_locks s P f) q
@[simp] theorem locked_modLink (k : Nat) (f : Link → Link) (q : Nat) : (s.modLink k f).locked q = s.locked q := locked_of_locks (modLink_locks s k f) q
@[simp] theorem locked_modVault (n : Nat) (f : Vault → Vault) (q : Nat) : (s.modVault n f).locked q = s.locked q := locked_of_locks (modVault_locks s n f) q
@[simp] theorem locked_emit (o : Out) (q : Nat) : (s.emit o).locked q = s.locked q := locked_of_locks (emit_locks s o) q
@[simp] theorem locked_setReg (k : Nat) (v : Word) (q : Nat) : (s.setReg k v).locked q = s.locked q := locked_of_locks (setReg_locks s k v) q
@[simp] theorem locked_setFld (k lo w v : Nat) (q : Nat) : (s.setFld k lo w v).locked q = s.locked q := locked_of_locks (setFld_locks s k lo w v) q
@[simp] theorem locked_orReg (k : Nat) (m : Word) (q : Nat) : (s.orReg k m).locked q = s.locked q := locked_of_locks (orReg_locks s k m) q
@[simp] theorem locked_setTri (c w : Nat) (t : Tri) (q : Nat) : (s.setTri c w t).locked q = s.locked q := locked_of_locks (setTri_locks s c w t) q
@[simp] theorem locked_inject (p : Packet) (q : Nat) : (s.inject p).locked q = s.locked q := locked_of_locks (inject_locks s p) q
@[simp] theorem locked_dropPkt (k : Nat) (q : Nat) : (s.dropPkt k).locked q = s.locked q := locked_of_locks (dropPkt_locks s k) q
@[simp] theorem locked_modStrm (n : Nat) (i : StreamId) (f : Stream → Stream) (q : Nat) : (s.modStrm n i f).locked q = s.locked q := locked_of_locks (modStrm_locks s n i f) q
@[simp] theorem locked_setFlag (n f kind src : Nat) (q : Nat) : (s.setFlag n f kind src).locked q = s.locked q := locked_of_locks (setFlag_locks s n f kind src) q
@[simp] theorem locked_clrFlag (n f : Nat) (q : Nat) : (s.clrFlag n f).locked q = s.locked q := locked_of_locks (clrFlag_locks s n f) q
@[simp] theorem locked_closeReq (n t : Nat) (q : Nat) : (s.closeReq n t).locked q = s.locked q := locked_of_locks (closeReq_locks s n t) q
@[simp] theorem locked_modPort (p : Port) (f : PciePort → PciePort) (q : Nat) : (s.modPort p f).locked q = s.locked q := locked_of_locks (modPort_locks s p f) q
@[simp] theorem locked_bumpAt (a n : Nat) (q : Nat) : (s.bumpAt a n).locked q = s.locked q := locked_of_locks (bumpAt_locks s a n) q
@[simp] theorem locked_bump (pg i n : Nat) (q : Nat) : (s.bump pg i n).locked q = s.locked q := locked_of_locks (bump_locks s pg i n) q
@[simp] theorem locked_sendMsix (p : Port) (v : Nat) (q : Nat) : (s.sendMsix p v).locked q = s.locked q := locked_of_locks (sendMsix_locks s p v) q
@[simp] theorem locked_vecLook (p : Port) (v : Nat) (again : Bool) (q : Nat) : (s.vecLook p v again).locked q = s.locked q := locked_of_locks (vecLook_locks s p v again) q
@[simp] theorem locked_pageLook (pg : Nat) (again : Bool) (q : Nat) : (s.pageLook pg again).locked q = s.locked q := locked_of_locks (pageLook_locks s pg again) q
@[simp] theorem locked_raise (pg : Nat) (m : Word) (q : Nat) : (s.raise pg m).locked q = s.locked q := locked_of_locks (raise_locks s pg m) q
@[simp] theorem locked_evt (pg b : Nat) (q : Nat) : (s.evt pg b).locked q = s.locked q := locked_of_locks (evt_locks s pg b) q
@[simp] theorem locked_critW (c w v : Nat) (q : Nat) : (s.critW c w v).locked q = s.locked q := locked_of_locks (critW_locks s c w v) q
@[simp] theorem locked_setPt (P v : Nat) (q : Nat) : (s.setPt P v).locked q = s.locked q := locked_of_locks (setPt_locks s P v) q
@[simp] theorem locked_stall (n : Nat) (i : StreamId) (k c f : Nat) (e : Bool) (q : Nat) : (s.stall n i k c f e).locked q = s.locked q := locked_of_locks (stall_locks s n i k c f e) q
@[simp] theorem locked_complete (n : Nat) (e : Bool) (f src : Nat) (q : Nat) : (s.complete n e f src).locked q = s.locked q := locked_of_locks (complete_locks s n e f src) q
@[simp] theorem locked_flagTo (n f : Nat) (c : Bool) (k src : Nat) (q : Nat) : (s.flagTo n f c k src).locked q = s.locked q := locked_of_locks (flagTo_locks s n f c k src) q
@[simp] theorem locked_clearRecord (n : Nat) (i : StreamId) (q : Nat) : (s.clearRecord n i).locked q = s.locked q := locked_of_locks (clearRecord_locks s n i) q

@[simp] theorem visible_setCore (n : Nat) (c : Core) (q : Port) (g : Nat) : (s.setCore n c).visible q g = s.visible q g := visible_of_crit (setCore_crit s n c) q g
@[simp] theorem visible_modCore (n : Nat) (f : Core → Core) (q : Port) (g : Nat) : (s.modCore n f).visible q g = s.visible q g := visible_of_crit (modCore_crit s n f) q g
@[simp] theorem visible_modPod (p : Nat) (f : Pod → Pod) (q : Port) (g : Nat) : (s.modPod p f).visible q g = s.visible q g := visible_of_crit (modPod_crit s p f) q g
@[simp] theorem visible_modPart (P : Nat) (f : Part → Part) (q : Port) (g : Nat) : (s.modPart P f).visible q g = s.visible q g := visible_of_crit (modPart_crit s P f) q g
@[simp] theorem visible_modLink (k : Nat) (f : Link → Link) (q : Port) (g : Nat) : (s.modLink k f).visible q g = s.visible q g := visible_of_crit (modLink_crit s k f) q g
@[simp] theorem visible_modVault (n : Nat) (f : Vault → Vault) (q : Port) (g : Nat) : (s.modVault n f).visible q g = s.visible q g := visible_of_crit (modVault_crit s n f) q g
@[simp] theorem visible_emit (o : Out) (q : Port) (g : Nat) : (s.emit o).visible q g = s.visible q g := visible_of_crit (emit_crit s o) q g
@[simp] theorem visible_setReg (k : Nat) (v : Word) (q : Port) (g : Nat) : (s.setReg k v).visible q g = s.visible q g := visible_of_crit (setReg_crit s k v) q g
@[simp] theorem visible_setFld (k lo w v : Nat) (q : Port) (g : Nat) : (s.setFld k lo w v).visible q g = s.visible q g := visible_of_crit (setFld_crit s k lo w v) q g
@[simp] theorem visible_orReg (k : Nat) (m : Word) (q : Port) (g : Nat) : (s.orReg k m).visible q g = s.visible q g := visible_of_crit (orReg_crit s k m) q g
@[simp] theorem visible_setLock (pg : Nat) (b : Bool) (q : Port) (g : Nat) : (s.setLock pg b).visible q g = s.visible q g := visible_of_crit (setLock_crit s pg b) q g
@[simp] theorem visible_inject (p : Packet) (q : Port) (g : Nat) : (s.inject p).visible q g = s.visible q g := visible_of_crit (inject_crit s p) q g
@[simp] theorem visible_dropPkt (k : Nat) (q : Port) (g : Nat) : (s.dropPkt k).visible q g = s.visible q g := visible_of_crit (dropPkt_crit s k) q g
@[simp] theorem visible_modStrm (n : Nat) (i : StreamId) (f : Stream → Stream) (q : Port) (g : Nat) : (s.modStrm n i f).visible q g = s.visible q g := visible_of_crit (modStrm_crit s n i f) q g
@[simp] theorem visible_setFlag (n f kind src : Nat) (q : Port) (g : Nat) : (s.setFlag n f kind src).visible q g = s.visible q g := visible_of_crit (setFlag_crit s n f kind src) q g
@[simp] theorem visible_clrFlag (n f : Nat) (q : Port) (g : Nat) : (s.clrFlag n f).visible q g = s.visible q g := visible_of_crit (clrFlag_crit s n f) q g
@[simp] theorem visible_closeReq (n t : Nat) (q : Port) (g : Nat) : (s.closeReq n t).visible q g = s.visible q g := visible_of_crit (closeReq_crit s n t) q g
@[simp] theorem visible_modPort (p : Port) (f : PciePort → PciePort) (q : Port) (g : Nat) : (s.modPort p f).visible q g = s.visible q g := visible_of_crit (modPort_crit s p f) q g
@[simp] theorem visible_bumpAt (a n : Nat) (q : Port) (g : Nat) : (s.bumpAt a n).visible q g = s.visible q g := visible_of_crit (bumpAt_crit s a n) q g
@[simp] theorem visible_bump (pg i n : Nat) (q : Port) (g : Nat) : (s.bump pg i n).visible q g = s.visible q g := visible_of_crit (bump_crit s pg i n) q g
@[simp] theorem visible_sendMsix (p : Port) (v : Nat) (q : Port) (g : Nat) : (s.sendMsix p v).visible q g = s.visible q g := visible_of_crit (sendMsix_crit s p v) q g
@[simp] theorem visible_vecLook (p : Port) (v : Nat) (again : Bool) (q : Port) (g : Nat) : (s.vecLook p v again).visible q g = s.visible q g := visible_of_crit (vecLook_crit s p v again) q g
@[simp] theorem visible_pageLook (pg : Nat) (again : Bool) (q : Port) (g : Nat) : (s.pageLook pg again).visible q g = s.visible q g := visible_of_crit (pageLook_crit s pg again) q g
@[simp] theorem visible_raise (pg : Nat) (m : Word) (q : Port) (g : Nat) : (s.raise pg m).visible q g = s.visible q g := visible_of_crit (raise_crit s pg m) q g
@[simp] theorem visible_evt (pg b : Nat) (q : Port) (g : Nat) : (s.evt pg b).visible q g = s.visible q g := visible_of_crit (evt_crit s pg b) q g
@[simp] theorem visible_stall (n : Nat) (i : StreamId) (k c f : Nat) (e : Bool) (q : Port) (g : Nat) : (s.stall n i k c f e).visible q g = s.visible q g := visible_of_crit (stall_crit s n i k c f e) q g
@[simp] theorem visible_complete (n : Nat) (e : Bool) (f src : Nat) (q : Port) (g : Nat) : (s.complete n e f src).visible q g = s.visible q g := visible_of_crit (complete_crit s n e f src) q g
@[simp] theorem visible_flagTo (n f : Nat) (c : Bool) (k src : Nat) (q : Port) (g : Nat) : (s.flagTo n f c k src).visible q g = s.visible q g := visible_of_crit (flagTo_crit s n f c k src) q g
@[simp] theorem visible_clearRecord (n : Nat) (i : StreamId) (q : Port) (g : Nat) : (s.clearRecord n i).visible q g = s.visible q g := visible_of_crit (clearRecord_crit s n i) q g

@[simp] theorem shareLent_setCore (n : Nat) (c : Core) (m : Nat) : (s.setCore n c).shareLent m = s.shareLent m := shareLent_of_podz (setCore_podz s n c) m
@[simp] theorem shareLent_modCore (n : Nat) (f : Core → Core) (m : Nat) : (s.modCore n f).shareLent m = s.shareLent m := shareLent_of_podz (modCore_podz s n f) m
@[simp] theorem shareLent_modPart (P : Nat) (f : Part → Part) (m : Nat) : (s.modPart P f).shareLent m = s.shareLent m := shareLent_of_podz (modPart_podz s P f) m
@[simp] theorem shareLent_modLink (k : Nat) (f : Link → Link) (m : Nat) : (s.modLink k f).shareLent m = s.shareLent m := shareLent_of_podz (modLink_podz s k f) m
@[simp] theorem shareLent_modVault (n : Nat) (f : Vault → Vault) (m : Nat) : (s.modVault n f).shareLent m = s.shareLent m := shareLent_of_podz (modVault_podz s n f) m
@[simp] theorem shareLent_emit (o : Out) (m : Nat) : (s.emit o).shareLent m = s.shareLent m := shareLent_of_podz (emit_podz s o) m
@[simp] theorem shareLent_setReg (k : Nat) (v : Word) (m : Nat) : (s.setReg k v).shareLent m = s.shareLent m := shareLent_of_podz (setReg_podz s k v) m
@[simp] theorem shareLent_setFld (k lo w v : Nat) (m : Nat) : (s.setFld k lo w v).shareLent m = s.shareLent m := shareLent_of_podz (setFld_podz s k lo w v) m
@[simp] theorem shareLent_orReg (k : Nat) (m : Word) (m0 : Nat) : (s.orReg k m).shareLent m0 = s.shareLent m0 := shareLent_of_podz (orReg_podz s k m) m0
@[simp] theorem shareLent_setLock (pg : Nat) (b : Bool) (m : Nat) : (s.setLock pg b).shareLent m = s.shareLent m := shareLent_of_podz (setLock_podz s pg b) m
@[simp] theorem shareLent_setTri (c w : Nat) (t : Tri) (m : Nat) : (s.setTri c w t).shareLent m = s.shareLent m := shareLent_of_podz (setTri_podz s c w t) m
@[simp] theorem shareLent_inject (p : Packet) (m : Nat) : (s.inject p).shareLent m = s.shareLent m := shareLent_of_podz (inject_podz s p) m
@[simp] theorem shareLent_dropPkt (k : Nat) (m : Nat) : (s.dropPkt k).shareLent m = s.shareLent m := shareLent_of_podz (dropPkt_podz s k) m
@[simp] theorem shareLent_modStrm (n : Nat) (i : StreamId) (f : Stream → Stream) (m : Nat) : (s.modStrm n i f).shareLent m = s.shareLent m := shareLent_of_podz (modStrm_podz s n i f) m
@[simp] theorem shareLent_setFlag (n f kind src : Nat) (m : Nat) : (s.setFlag n f kind src).shareLent m = s.shareLent m := shareLent_of_podz (setFlag_podz s n f kind src) m
@[simp] theorem shareLent_clrFlag (n f : Nat) (m : Nat) : (s.clrFlag n f).shareLent m = s.shareLent m := shareLent_of_podz (clrFlag_podz s n f) m
@[simp] theorem shareLent_closeReq (n t : Nat) (m : Nat) : (s.closeReq n t).shareLent m = s.shareLent m := shareLent_of_podz (closeReq_podz s n t) m
@[simp] theorem shareLent_modPort (p : Port) (f : PciePort → PciePort) (m : Nat) : (s.modPort p f).shareLent m = s.shareLent m := shareLent_of_podz (modPort_podz s p f) m
@[simp] theorem shareLent_bumpAt (a n : Nat) (m : Nat) : (s.bumpAt a n).shareLent m = s.shareLent m := shareLent_of_podz (bumpAt_podz s a n) m
@[simp] theorem shareLent_bump (pg i n : Nat) (m : Nat) : (s.bump pg i n).shareLent m = s.shareLent m := shareLent_of_podz (bump_podz s pg i n) m
@[simp] theorem shareLent_sendMsix (p : Port) (v : Nat) (m : Nat) : (s.sendMsix p v).shareLent m = s.shareLent m := shareLent_of_podz (sendMsix_podz s p v) m
@[simp] theorem shareLent_vecLook (p : Port) (v : Nat) (again : Bool) (m : Nat) : (s.vecLook p v again).shareLent m = s.shareLent m := shareLent_of_podz (vecLook_podz s p v again) m
@[simp] theorem shareLent_pageLook (pg : Nat) (again : Bool) (m : Nat) : (s.pageLook pg again).shareLent m = s.shareLent m := shareLent_of_podz (pageLook_podz s pg again) m
@[simp] theorem shareLent_raise (pg : Nat) (m : Word) (m0 : Nat) : (s.raise pg m).shareLent m0 = s.shareLent m0 := shareLent_of_podz (raise_podz s pg m) m0
@[simp] theorem shareLent_evt (pg b : Nat) (m : Nat) : (s.evt pg b).shareLent m = s.shareLent m := shareLent_of_podz (evt_podz s pg b) m
@[simp] theorem shareLent_critW (c w v : Nat) (m : Nat) : (s.critW c w v).shareLent m = s.shareLent m := shareLent_of_podz (critW_podz s c w v) m
@[simp] theorem shareLent_setPt (P v : Nat) (m : Nat) : (s.setPt P v).shareLent m = s.shareLent m := shareLent_of_podz (setPt_podz s P v) m
@[simp] theorem shareLent_stall (n : Nat) (i : StreamId) (k c f : Nat) (e : Bool) (m : Nat) : (s.stall n i k c f e).shareLent m = s.shareLent m := shareLent_of_podz (stall_podz s n i k c f e) m
@[simp] theorem shareLent_complete (n : Nat) (e : Bool) (f src : Nat) (m : Nat) : (s.complete n e f src).shareLent m = s.shareLent m := shareLent_of_podz (complete_podz s n e f src) m
@[simp] theorem shareLent_flagTo (n f : Nat) (c : Bool) (k src : Nat) (m : Nat) : (s.flagTo n f c k src).shareLent m = s.shareLent m := shareLent_of_podz (flagTo_podz s n f c k src) m
@[simp] theorem shareLent_clearRecord (n : Nat) (i : StreamId) (m : Nat) : (s.clearRecord n i).shareLent m = s.shareLent m := shareLent_of_podz (clearRecord_podz s n i) m

@[simp] theorem clocked_setCore (n : Nat) (c : Core) (m : Nat) : (s.setCore n c).clocked m = s.clocked m := clocked_of_podz (setCore_podz s n c) m
@[simp] theorem clocked_modCore (n : Nat) (f : Core → Core) (m : Nat) : (s.modCore n f).clocked m = s.clocked m := clocked_of_podz (modCore_podz s n f) m
@[simp] theorem clocked_modPart (P : Nat) (f : Part → Part) (m : Nat) : (s.modPart P f).clocked m = s.clocked m := clocked_of_podz (modPart_podz s P f) m
@[simp] theorem clocked_modLink (k : Nat) (f : Link → Link) (m : Nat) : (s.modLink k f).clocked m = s.clocked m := clocked_of_podz (modLink_podz s k f) m
@[simp] theorem clocked_modVault (n : Nat) (f : Vault → Vault) (m : Nat) : (s.modVault n f).clocked m = s.clocked m := clocked_of_podz (modVault_podz s n f) m
@[simp] theorem clocked_emit (o : Out) (m : Nat) : (s.emit o).clocked m = s.clocked m := clocked_of_podz (emit_podz s o) m
@[simp] theorem clocked_setReg (k : Nat) (v : Word) (m : Nat) : (s.setReg k v).clocked m = s.clocked m := clocked_of_podz (setReg_podz s k v) m
@[simp] theorem clocked_setFld (k lo w v : Nat) (m : Nat) : (s.setFld k lo w v).clocked m = s.clocked m := clocked_of_podz (setFld_podz s k lo w v) m
@[simp] theorem clocked_orReg (k : Nat) (m : Word) (m0 : Nat) : (s.orReg k m).clocked m0 = s.clocked m0 := clocked_of_podz (orReg_podz s k m) m0
@[simp] theorem clocked_setLock (pg : Nat) (b : Bool) (m : Nat) : (s.setLock pg b).clocked m = s.clocked m := clocked_of_podz (setLock_podz s pg b) m
@[simp] theorem clocked_setTri (c w : Nat) (t : Tri) (m : Nat) : (s.setTri c w t).clocked m = s.clocked m := clocked_of_podz (setTri_podz s c w t) m
@[simp] theorem clocked_inject (p : Packet) (m : Nat) : (s.inject p).clocked m = s.clocked m := clocked_of_podz (inject_podz s p) m
@[simp] theorem clocked_dropPkt (k : Nat) (m : Nat) : (s.dropPkt k).clocked m = s.clocked m := clocked_of_podz (dropPkt_podz s k) m
@[simp] theorem clocked_modStrm (n : Nat) (i : StreamId) (f : Stream → Stream) (m : Nat) : (s.modStrm n i f).clocked m = s.clocked m := clocked_of_podz (modStrm_podz s n i f) m
@[simp] theorem clocked_setFlag (n f kind src : Nat) (m : Nat) : (s.setFlag n f kind src).clocked m = s.clocked m := clocked_of_podz (setFlag_podz s n f kind src) m
@[simp] theorem clocked_clrFlag (n f : Nat) (m : Nat) : (s.clrFlag n f).clocked m = s.clocked m := clocked_of_podz (clrFlag_podz s n f) m
@[simp] theorem clocked_closeReq (n t : Nat) (m : Nat) : (s.closeReq n t).clocked m = s.clocked m := clocked_of_podz (closeReq_podz s n t) m
@[simp] theorem clocked_modPort (p : Port) (f : PciePort → PciePort) (m : Nat) : (s.modPort p f).clocked m = s.clocked m := clocked_of_podz (modPort_podz s p f) m
@[simp] theorem clocked_bumpAt (a n : Nat) (m : Nat) : (s.bumpAt a n).clocked m = s.clocked m := clocked_of_podz (bumpAt_podz s a n) m
@[simp] theorem clocked_bump (pg i n : Nat) (m : Nat) : (s.bump pg i n).clocked m = s.clocked m := clocked_of_podz (bump_podz s pg i n) m
@[simp] theorem clocked_sendMsix (p : Port) (v : Nat) (m : Nat) : (s.sendMsix p v).clocked m = s.clocked m := clocked_of_podz (sendMsix_podz s p v) m
@[simp] theorem clocked_vecLook (p : Port) (v : Nat) (again : Bool) (m : Nat) : (s.vecLook p v again).clocked m = s.clocked m := clocked_of_podz (vecLook_podz s p v again) m
@[simp] theorem clocked_pageLook (pg : Nat) (again : Bool) (m : Nat) : (s.pageLook pg again).clocked m = s.clocked m := clocked_of_podz (pageLook_podz s pg again) m
@[simp] theorem clocked_raise (pg : Nat) (m : Word) (m0 : Nat) : (s.raise pg m).clocked m0 = s.clocked m0 := clocked_of_podz (raise_podz s pg m) m0
@[simp] theorem clocked_evt (pg b : Nat) (m : Nat) : (s.evt pg b).clocked m = s.clocked m := clocked_of_podz (evt_podz s pg b) m
@[simp] theorem clocked_critW (c w v : Nat) (m : Nat) : (s.critW c w v).clocked m = s.clocked m := clocked_of_podz (critW_podz s c w v) m
@[simp] theorem clocked_setPt (P v : Nat) (m : Nat) : (s.setPt P v).clocked m = s.clocked m := clocked_of_podz (setPt_podz s P v) m
@[simp] theorem clocked_stall (n : Nat) (i : StreamId) (k c f : Nat) (e : Bool) (m : Nat) : (s.stall n i k c f e).clocked m = s.clocked m := clocked_of_podz (stall_podz s n i k c f e) m
@[simp] theorem clocked_complete (n : Nat) (e : Bool) (f src : Nat) (m : Nat) : (s.complete n e f src).clocked m = s.clocked m := clocked_of_podz (complete_podz s n e f src) m
@[simp] theorem clocked_flagTo (n f : Nat) (c : Bool) (k src : Nat) (m : Nat) : (s.flagTo n f c k src).clocked m = s.clocked m := clocked_of_podz (flagTo_podz s n f c k src) m
@[simp] theorem clocked_clearRecord (n : Nat) (i : StreamId) (m : Nat) : (s.clearRecord n i).clocked m = s.clocked m := clocked_of_podz (clearRecord_podz s n i) m

@[simp] theorem alive_setCore (n : Nat) (c : Core)  : (s.setCore n c).alive  = s.alive  := alive_of_pwrok (setCore_pwrok s n c) (setCore_released s n c) (setCore_tripped s n c)
@[simp] theorem alive_modCore (n : Nat) (f : Core → Core)  : (s.modCore n f).alive  = s.alive  := alive_of_pwrok (modCore_pwrok s n f) (modCore_released s n f) (modCore_tripped s n f)
@[simp] theorem alive_modPod (p : Nat) (f : Pod → Pod)  : (s.modPod p f).alive  = s.alive  := alive_of_pwrok (modPod_pwrok s p f) (modPod_released s p f) (modPod_tripped s p f)
@[simp] theorem alive_modPart (P : Nat) (f : Part → Part)  : (s.modPart P f).alive  = s.alive  := alive_of_pwrok (modPart_pwrok s P f) (modPart_released s P f) (modPart_tripped s P f)
@[simp] theorem alive_modLink (k : Nat) (f : Link → Link)  : (s.modLink k f).alive  = s.alive  := alive_of_pwrok (modLink_pwrok s k f) (modLink_released s k f) (modLink_tripped s k f)
@[simp] theorem alive_modVault (n : Nat) (f : Vault → Vault)  : (s.modVault n f).alive  = s.alive  := alive_of_pwrok (modVault_pwrok s n f) (modVault_released s n f) (modVault_tripped s n f)
@[simp] theorem alive_emit (o : Out)  : (s.emit o).alive  = s.alive  := alive_of_pwrok (emit_pwrok s o) (emit_released s o) (emit_tripped s o)
@[simp] theorem alive_setReg (k : Nat) (v : Word)  : (s.setReg k v).alive  = s.alive  := alive_of_pwrok (setReg_pwrok s k v) (setReg_released s k v) (setReg_tripped s k v)
@[simp] theorem alive_setFld (k lo w v : Nat)  : (s.setFld k lo w v).alive  = s.alive  := alive_of_pwrok (setFld_pwrok s k lo w v) (setFld_released s k lo w v) (setFld_tripped s k lo w v)
@[simp] theorem alive_orReg (k : Nat) (m : Word)  : (s.orReg k m).alive  = s.alive  := alive_of_pwrok (orReg_pwrok s k m) (orReg_released s k m) (orReg_tripped s k m)
@[simp] theorem alive_setLock (pg : Nat) (b : Bool)  : (s.setLock pg b).alive  = s.alive  := alive_of_pwrok (setLock_pwrok s pg b) (setLock_released s pg b) (setLock_tripped s pg b)
@[simp] theorem alive_setTri (c w : Nat) (t : Tri)  : (s.setTri c w t).alive  = s.alive  := alive_of_pwrok (setTri_pwrok s c w t) (setTri_released s c w t) (setTri_tripped s c w t)
@[simp] theorem alive_inject (p : Packet)  : (s.inject p).alive  = s.alive  := alive_of_pwrok (inject_pwrok s p) (inject_released s p) (inject_tripped s p)
@[simp] theorem alive_dropPkt (k : Nat)  : (s.dropPkt k).alive  = s.alive  := alive_of_pwrok (dropPkt_pwrok s k) (dropPkt_released s k) (dropPkt_tripped s k)
@[simp] theorem alive_modStrm (n : Nat) (i : StreamId) (f : Stream → Stream)  : (s.modStrm n i f).alive  = s.alive  := alive_of_pwrok (modStrm_pwrok s n i f) (modStrm_released s n i f) (modStrm_tripped s n i f)
@[simp] theorem alive_setFlag (n f kind src : Nat)  : (s.setFlag n f kind src).alive  = s.alive  := alive_of_pwrok (setFlag_pwrok s n f kind src) (setFlag_released s n f kind src) (setFlag_tripped s n f kind src)
@[simp] theorem alive_clrFlag (n f : Nat)  : (s.clrFlag n f).alive  = s.alive  := alive_of_pwrok (clrFlag_pwrok s n f) (clrFlag_released s n f) (clrFlag_tripped s n f)
@[simp] theorem alive_closeReq (n t : Nat)  : (s.closeReq n t).alive  = s.alive  := alive_of_pwrok (closeReq_pwrok s n t) (closeReq_released s n t) (closeReq_tripped s n t)
@[simp] theorem alive_modPort (p : Port) (f : PciePort → PciePort)  : (s.modPort p f).alive  = s.alive  := alive_of_pwrok (modPort_pwrok s p f) (modPort_released s p f) (modPort_tripped s p f)
@[simp] theorem alive_bumpAt (a n : Nat)  : (s.bumpAt a n).alive  = s.alive  := alive_of_pwrok (bumpAt_pwrok s a n) (bumpAt_released s a n) (bumpAt_tripped s a n)
@[simp] theorem alive_bump (pg i n : Nat)  : (s.bump pg i n).alive  = s.alive  := alive_of_pwrok (bump_pwrok s pg i n) (bump_released s pg i n) (bump_tripped s pg i n)
@[simp] theorem alive_sendMsix (p : Port) (v : Nat)  : (s.sendMsix p v).alive  = s.alive  := alive_of_pwrok (sendMsix_pwrok s p v) (sendMsix_released s p v) (sendMsix_tripped s p v)
@[simp] theorem alive_vecLook (p : Port) (v : Nat) (again : Bool)  : (s.vecLook p v again).alive  = s.alive  := alive_of_pwrok (vecLook_pwrok s p v again) (vecLook_released s p v again) (vecLook_tripped s p v again)
@[simp] theorem alive_pageLook (pg : Nat) (again : Bool)  : (s.pageLook pg again).alive  = s.alive  := alive_of_pwrok (pageLook_pwrok s pg again) (pageLook_released s pg again) (pageLook_tripped s pg again)
@[simp] theorem alive_raise (pg : Nat) (m : Word)  : (s.raise pg m).alive  = s.alive  := alive_of_pwrok (raise_pwrok s pg m) (raise_released s pg m) (raise_tripped s pg m)
@[simp] theorem alive_evt (pg b : Nat)  : (s.evt pg b).alive  = s.alive  := alive_of_pwrok (evt_pwrok s pg b) (evt_released s pg b) (evt_tripped s pg b)
@[simp] theorem alive_critW (c w v : Nat)  : (s.critW c w v).alive  = s.alive  := alive_of_pwrok (critW_pwrok s c w v) (critW_released s c w v) (critW_tripped s c w v)
@[simp] theorem alive_setPt (P v : Nat)  : (s.setPt P v).alive  = s.alive  := alive_of_pwrok (setPt_pwrok s P v) (setPt_released s P v) (setPt_tripped s P v)
@[simp] theorem alive_stall (n : Nat) (i : StreamId) (k c f : Nat) (e : Bool)  : (s.stall n i k c f e).alive  = s.alive  := alive_of_pwrok (stall_pwrok s n i k c f e) (stall_released s n i k c f e) (stall_tripped s n i k c f e)
@[simp] theorem alive_complete (n : Nat) (e : Bool) (f src : Nat)  : (s.complete n e f src).alive  = s.alive  := alive_of_pwrok (complete_pwrok s n e f src) (complete_released s n e f src) (complete_tripped s n e f src)
@[simp] theorem alive_flagTo (n f : Nat) (c : Bool) (k src : Nat)  : (s.flagTo n f c k src).alive  = s.alive  := alive_of_pwrok (flagTo_pwrok s n f c k src) (flagTo_released s n f c k src) (flagTo_tripped s n f c k src)
@[simp] theorem alive_clearRecord (n : Nat) (i : StreamId)  : (s.clearRecord n i).alive  = s.alive  := alive_of_pwrok (clearRecord_pwrok s n i) (clearRecord_released s n i) (clearRecord_tripped s n i)

@[simp] theorem carve_setCore (n : Nat) (c : Core) (m : Nat) : (s.setCore n c).carve m = s.carve m := carve_of_regs (setCore_regs s n c) m
@[simp] theorem carve_modCore (n : Nat) (f : Core → Core) (m : Nat) : (s.modCore n f).carve m = s.carve m := carve_of_regs (modCore_regs s n f) m
@[simp] theorem carve_modPod (p : Nat) (f : Pod → Pod) (m : Nat) : (s.modPod p f).carve m = s.carve m := carve_of_regs (modPod_regs s p f) m
@[simp] theorem carve_modPart (P : Nat) (f : Part → Part) (m : Nat) : (s.modPart P f).carve m = s.carve m := carve_of_regs (modPart_regs s P f) m
@[simp] theorem carve_modLink (k : Nat) (f : Link → Link) (m : Nat) : (s.modLink k f).carve m = s.carve m := carve_of_regs (modLink_regs s k f) m
@[simp] theorem carve_modVault (n : Nat) (f : Vault → Vault) (m : Nat) : (s.modVault n f).carve m = s.carve m := carve_of_regs (modVault_regs s n f) m
@[simp] theorem carve_emit (o : Out) (m : Nat) : (s.emit o).carve m = s.carve m := carve_of_regs (emit_regs s o) m
@[simp] theorem carve_setLock (pg : Nat) (b : Bool) (m : Nat) : (s.setLock pg b).carve m = s.carve m := carve_of_regs (setLock_regs s pg b) m
@[simp] theorem carve_setTri (c w : Nat) (t : Tri) (m : Nat) : (s.setTri c w t).carve m = s.carve m := carve_of_regs (setTri_regs s c w t) m
@[simp] theorem carve_inject (p : Packet) (m : Nat) : (s.inject p).carve m = s.carve m := carve_of_regs (inject_regs s p) m
@[simp] theorem carve_dropPkt (k : Nat) (m : Nat) : (s.dropPkt k).carve m = s.carve m := carve_of_regs (dropPkt_regs s k) m
@[simp] theorem carve_modStrm (n : Nat) (i : StreamId) (f : Stream → Stream) (m : Nat) : (s.modStrm n i f).carve m = s.carve m := carve_of_regs (modStrm_regs s n i f) m
@[simp] theorem carve_clrFlag (n f : Nat) (m : Nat) : (s.clrFlag n f).carve m = s.carve m := carve_of_regs (clrFlag_regs s n f) m
@[simp] theorem carve_closeReq (n t : Nat) (m : Nat) : (s.closeReq n t).carve m = s.carve m := carve_of_regs (closeReq_regs s n t) m
@[simp] theorem carve_modPort (p : Port) (f : PciePort → PciePort) (m : Nat) : (s.modPort p f).carve m = s.carve m := carve_of_regs (modPort_regs s p f) m
@[simp] theorem carve_bumpAt (a n : Nat) (m : Nat) : (s.bumpAt a n).carve m = s.carve m := carve_of_regs (bumpAt_regs s a n) m
@[simp] theorem carve_bump (pg i n : Nat) (m : Nat) : (s.bump pg i n).carve m = s.carve m := carve_of_regs (bump_regs s pg i n) m
@[simp] theorem carve_sendMsix (p : Port) (v : Nat) (m : Nat) : (s.sendMsix p v).carve m = s.carve m := carve_of_regs (sendMsix_regs s p v) m
@[simp] theorem carve_vecLook (p : Port) (v : Nat) (again : Bool) (m : Nat) : (s.vecLook p v again).carve m = s.carve m := carve_of_regs (vecLook_regs s p v again) m
@[simp] theorem carve_pageLook (pg : Nat) (again : Bool) (m : Nat) : (s.pageLook pg again).carve m = s.carve m := carve_of_regs (pageLook_regs s pg again) m
@[simp] theorem carve_stall (n : Nat) (i : StreamId) (k c f : Nat) (e : Bool) (m : Nat) : (s.stall n i k c f e).carve m = s.carve m := carve_of_regs (stall_regs s n i k c f e) m

@[simp] theorem reserve_setCore (n : Nat) (c : Core) (m : Nat) : (s.setCore n c).reserve m = s.reserve m := reserve_of_regs (setCore_regs s n c) m
@[simp] theorem reserve_modCore (n : Nat) (f : Core → Core) (m : Nat) : (s.modCore n f).reserve m = s.reserve m := reserve_of_regs (modCore_regs s n f) m
@[simp] theorem reserve_modPod (p : Nat) (f : Pod → Pod) (m : Nat) : (s.modPod p f).reserve m = s.reserve m := reserve_of_regs (modPod_regs s p f) m
@[simp] theorem reserve_modPart (P : Nat) (f : Part → Part) (m : Nat) : (s.modPart P f).reserve m = s.reserve m := reserve_of_regs (modPart_regs s P f) m
@[simp] theorem reserve_modLink (k : Nat) (f : Link → Link) (m : Nat) : (s.modLink k f).reserve m = s.reserve m := reserve_of_regs (modLink_regs s k f) m
@[simp] theorem reserve_modVault (n : Nat) (f : Vault → Vault) (m : Nat) : (s.modVault n f).reserve m = s.reserve m := reserve_of_regs (modVault_regs s n f) m
@[simp] theorem reserve_emit (o : Out) (m : Nat) : (s.emit o).reserve m = s.reserve m := reserve_of_regs (emit_regs s o) m
@[simp] theorem reserve_setLock (pg : Nat) (b : Bool) (m : Nat) : (s.setLock pg b).reserve m = s.reserve m := reserve_of_regs (setLock_regs s pg b) m
@[simp] theorem reserve_setTri (c w : Nat) (t : Tri) (m : Nat) : (s.setTri c w t).reserve m = s.reserve m := reserve_of_regs (setTri_regs s c w t) m
@[simp] theorem reserve_inject (p : Packet) (m : Nat) : (s.inject p).reserve m = s.reserve m := reserve_of_regs (inject_regs s p) m
@[simp] theorem reserve_dropPkt (k : Nat) (m : Nat) : (s.dropPkt k).reserve m = s.reserve m := reserve_of_regs (dropPkt_regs s k) m
@[simp] theorem reserve_modStrm (n : Nat) (i : StreamId) (f : Stream → Stream) (m : Nat) : (s.modStrm n i f).reserve m = s.reserve m := reserve_of_regs (modStrm_regs s n i f) m
@[simp] theorem reserve_clrFlag (n f : Nat) (m : Nat) : (s.clrFlag n f).reserve m = s.reserve m := reserve_of_regs (clrFlag_regs s n f) m
@[simp] theorem reserve_closeReq (n t : Nat) (m : Nat) : (s.closeReq n t).reserve m = s.reserve m := reserve_of_regs (closeReq_regs s n t) m
@[simp] theorem reserve_modPort (p : Port) (f : PciePort → PciePort) (m : Nat) : (s.modPort p f).reserve m = s.reserve m := reserve_of_regs (modPort_regs s p f) m
@[simp] theorem reserve_bumpAt (a n : Nat) (m : Nat) : (s.bumpAt a n).reserve m = s.reserve m := reserve_of_regs (bumpAt_regs s a n) m
@[simp] theorem reserve_bump (pg i n : Nat) (m : Nat) : (s.bump pg i n).reserve m = s.reserve m := reserve_of_regs (bump_regs s pg i n) m
@[simp] theorem reserve_sendMsix (p : Port) (v : Nat) (m : Nat) : (s.sendMsix p v).reserve m = s.reserve m := reserve_of_regs (sendMsix_regs s p v) m
@[simp] theorem reserve_vecLook (p : Port) (v : Nat) (again : Bool) (m : Nat) : (s.vecLook p v again).reserve m = s.reserve m := reserve_of_regs (vecLook_regs s p v again) m
@[simp] theorem reserve_pageLook (pg : Nat) (again : Bool) (m : Nat) : (s.pageLook pg again).reserve m = s.reserve m := reserve_of_regs (pageLook_regs s pg again) m
@[simp] theorem reserve_stall (n : Nat) (i : StreamId) (k c f : Nat) (e : Bool) (m : Nat) : (s.stall n i k c f e).reserve m = s.reserve m := reserve_of_regs (stall_regs s n i k c f e) m

end Sys2Proof.Machine
end

