-- ==== Sys2Proof/Laws/Critical.lean ====
section
/-! SUPPORT. Critical words read as written (R361, R362, R365). -/
namespace Sys2Proof.Machine
open Sys2Proof

variable (s : Dev)

/-- One copy inverted in places does not change the majority. -/
theorem majority_a (x m : Word) : majority ⟨x ^^^ m, x, x⟩ = x := by
  show ((x ^^^ m) &&& x) ||| ((x ^^^ m) &&& x) ||| (x &&& x) = x
  ext i h; simp
theorem majority_b (x m : Word) : majority ⟨x, x ^^^ m, x⟩ = x := by
  show (x &&& (x ^^^ m)) ||| (x &&& x) ||| ((x ^^^ m) &&& x) = x
  ext i h; simp; cases x[i] <;> simp
theorem majority_c (x m : Word) : majority ⟨x, x, x ^^^ m⟩ = x := by
  show (x &&& x) ||| (x &&& (x ^^^ m)) ||| (x &&& (x ^^^ m)) = x
  ext i h; simp; cases x[i] <;> simp

theorem critR_setTri (c w : Nat) (t : Tri) : (s.setTri c w t).critR c w = (majority t).toNat := by
  unfold Dev.critR; rw [tri_setTri]

theorem critR_setTri_ne (c w c' w' : Nat) (t : Tri) (h : c' * 65536 + w' ≠ c * 65536 + w) :
    (s.setTri c w t).critR c' w' = s.critR c' w' := by
  unfold Dev.critR Dev.tri Dev.setTri
  simp only
  rw [mget_mset_ne _ _ _ h]

/-- A critical word written reads as written, whatever flip is armed. -/
theorem critR_critW (c w v : Nat) : (s.critW c w v).critR c w = v % 2 ^ 32 := by
  unfold Dev.critW
  extract_lets sel x scls m t
  split
  · rw [critR_evt, critR_bump, critR_setReg, critR_setTri]
    show (majority (match fld sel 28 2 with
      | 1 => (⟨x, x ^^^ m, x⟩ : Tri)
      | 2 => ⟨x, x, x ^^^ m⟩
      | _ => ⟨x ^^^ m, x, x⟩)).toNat = _
    split
    · rw [majority_b]; exact BitVec.toNat_ofNat _ _
    · rw [majority_c]; exact BitVec.toNat_ofNat _ _
    · rw [majority_a]; exact BitVec.toNat_ofNat _ _
  · rw [critR_setTri, majority_same]; exact BitVec.toNat_ofNat _ _

/-- Writing a critical word leaves every other. -/
theorem critR_critW_ne (c w v c' w' : Nat) (h : c' * 65536 + w' ≠ c * 65536 + w) :
    (s.critW c w v).critR c' w' = s.critR c' w' := by
  unfold Dev.critW
  extract_lets sel x scls m t
  split
  · rw [critR_evt, critR_bump, critR_setReg, critR_setTri_ne _ _ _ _ _ _ h]
  · exact critR_setTri_ne s _ _ _ _ _ h

end Sys2Proof.Machine
end

