-- ==== Sys2Proof/Laws/Memory.lean ====
section
/-! SUPPORT. The memories: what a read notes, what a write stores, and that every operation keeps the canonical form of the
scratchpad and vault lists. -/
namespace Sys2Proof.Machine
open Sys2Proof

variable (s : Dev)

/-! Reads. -/

/-- A noted read changes of the cores only the write-backs owed. -/
theorem spNote1_core (n i : Nat) : ∃ l, (s.spNote1 n i).core n = { s.core n with spWb := l } := by
  unfold Dev.spNote1
  extract_lets w pg ce
  have hce : ∀ k, (ce s k).core n = { s.core n with spWb := (s.core n).spWb ++ [(i, w.fixed)] } := by
    intro k
    show ((((s.bump pg k 1).setReg _ _).modCore n _).evt pg 5).core n = _
    rw [core_evt, core_modCore, core_setReg, core_bump]
  split
  · exact ⟨_, rfl⟩
  · exact ⟨_, rfl⟩
  · exact ⟨_, hce _⟩
  · exact ⟨_, hce _⟩
  · exact ⟨(s.core n).spWb, by rw [core_evt, core_setReg, core_bump]⟩

theorem spNote1_core_ne (n i m : Nat) (h : m ≠ n) : (s.spNote1 n i).core m = s.core m := by
  unfold Dev.spNote1
  extract_lets w pg ce
  have hce : ∀ k, (ce s k).core m = s.core m := by
    intro k
    show ((((s.bump pg k 1).setReg _ _).modCore n _).evt pg 5).core m = _
    rw [core_evt, core_modCore_ne _ _ _ _ h, core_setReg, core_bump]
  split
  · rfl
  · rfl
  · exact hce _
  · exact hce _
  · rw [core_evt, core_setReg, core_bump]

theorem spNote_core (n : Nat) (is : List Nat) : ∃ l, (s.spNote n is).core n = { s.core n with spWb := l } := by
  unfold Dev.spNote
  induction is generalizing s with
  | nil => exact ⟨_, rfl⟩
  | cons i is ih =>
    obtain ⟨l, hl⟩ := spNote1_core s n i
    obtain ⟨l', hl'⟩ := ih (s.spNote1 n i)
    exact ⟨l', by rw [List.foldl_cons, hl', hl]⟩

theorem spNote_core_ne (n : Nat) (is : List Nat) (m : Nat) (h : m ≠ n) : (s.spNote n is).core m = s.core m := by
  unfold Dev.spNote
  induction is generalizing s with
  | nil => rfl
  | cons i is ih => rw [List.foldl_cons, ih (s.spNote1 n i), spNote1_core_ne s n i m h]

/-! Writes. -/

/-- A word stored: it alone changes in the scratchpad, and a write-back owed for it is dropped. -/
theorem spPut_core (n i : Nat) (w : MWord) : ∃ w', (s.spPut n i w).core n =
    { s.core n with sp := mset noWord (s.core n).sp i w', spWb := (s.core n).spWb.filter fun p => p.1 != i } ∧
    (spUnarmed s n → w' = w) := by
  unfold Dev.spPut
  extract_lets pg chk put dd
  have hput : ∀ (d : Dev) v, (put d v).core n =
      { d.core n with sp := mset noWord (d.core n).sp i v, spWb := (d.core n).spWb.filter fun p => p.1 != i } :=
    fun d v => core_modCore d n _
  split
  · rename_i h
    refine ⟨w.flip dd (BitVec.ofNat 15 chk) (tb chk 15), ?_, fun hu => ?_⟩
    · rw [core_evt, core_setReg, hput]
    · unfold spUnarmed at hu
      exact absurd h (by rw [show tb chk 31 = false from hu]; simp)
  · exact ⟨w, hput s w, fun _ => rfl⟩

theorem spPut_core_ne (n i m : Nat) (w : MWord) (h : m ≠ n) : (s.spPut n i w).core m = s.core m := by
  unfold Dev.spPut
  extract_lets pg chk put dd
  have hput : ∀ (d : Dev) v, (put d v).core m = d.core m := fun d v => core_modCore_ne d n m _ h
  split
  · rw [core_evt, core_setReg, hput]
  · exact hput s w

/-- A write of a word stores in that word alone. -/
theorem spWrite_core (n i : Nat) (mask : DWord) (p : PWord) : ∃ w l, (s.spWrite n i mask p).core n =
    { s.core n with sp := mset noWord (s.core n).sp i w, spWb := l } := by
  unfold Dev.spWrite
  extract_lets old s1
  have h1 : ∃ l, s1.core n = { s.core n with spWb := l } := by
    show ∃ l, (if mask = BitVec.allOnes 64 then s else s.spNote1 n i).core n = _
    split
    · exact ⟨_, rfl⟩
    · exact spNote1_core s n i
  obtain ⟨l, hl⟩ := h1
  obtain ⟨w, hw, _⟩ := spPut_core s1 n i (mergeWord old mask p)
  exact ⟨w, _, by rw [hw, hl]⟩

theorem spWrite_core_ne (n i m : Nat) (mask : DWord) (p : PWord) (h : m ≠ n) :
    (s.spWrite n i mask p).core m = s.core m := by
  unfold Dev.spWrite
  extract_lets old s1
  rw [spPut_core_ne _ _ _ _ _ h]
  show (if mask = BitVec.allOnes 64 then s else s.spNote1 n i).core m = _
  split
  · rfl
  · exact spNote1_core_ne s n i m h

/-- Writes to a scratchpad change nothing of the cores but that scratchpad, at the words written, and write-backs owed. -/
theorem spWrites_core (n : Nat) (ws : List WWrite) : ∃ m l, (s.spWrites n ws).core n =
    { s.core n with sp := m, spWb := l } ∧
    (mwf noWord (s.core n).sp = true → mwf noWord m = true) ∧
    ∀ i, (∀ w ∈ ws, w.addr / 8 ≠ i) → mget noWord m i = mget noWord (s.core n).sp i := by
  unfold Dev.spWrites
  induction ws generalizing s with
  | nil => exact ⟨_, _, rfl, id, fun _ _ => rfl⟩
  | cons a ws ih =>
    obtain ⟨w, l, hw⟩ := spWrite_core s n (a.addr / 8) a.mask ⟨a.data, a.poison⟩
    obtain ⟨m, l', h1, h2, h3⟩ := ih (s.spWrite n (a.addr / 8) a.mask ⟨a.data, a.poison⟩)
    refine ⟨m, l', by rw [List.foldl_cons, h1, hw], ?_, ?_⟩
    · intro h; apply h2; rw [hw]; exact mwf_mset _ _ h
    · intro i hi
      rw [h3 i (fun x hx => hi x (List.mem_cons_of_mem _ hx)), hw]
      exact mget_mset_ne _ _ _ (fun e => hi a List.mem_cons_self e.symm)

theorem spWrites_core_ne (n : Nat) (ws : List WWrite) (m : Nat) (h : m ≠ n) : (s.spWrites n ws).core m = s.core m := by
  unfold Dev.spWrites
  induction ws generalizing s with
  | nil => rfl
  | cons a ws ih => rw [List.foldl_cons, ih, spWrite_core_ne s n _ m _ _ h]

/-- What a word written in full reads as, where no flip is armed. -/
theorem mergeWord_full (old : MWord) (p : PWord) : mergeWord old (BitVec.allOnes 64) p = freshWord p := by
  unfold mergeWord; simp

/-- A word stored in full reads as what was written (R129, R131). -/
theorem freshWord_value (p : PWord) : (freshWord p).value = p := by
  obtain ⟨d, b⟩ := p
  cases b
  · have h : (freshWord ⟨d, false⟩).errs = 0 := by
      show pop64 0 + popTo 15 (0 : BitVec 15).toNat = 0; decide
    simp [MWord.value, MWord.find, h]; rfl
  · have h : (freshWord ⟨d, true⟩).errs = 3 := by
      show pop64 0 + popTo 15 (7 : BitVec 15).toNat = 3; decide
    have hf : (freshWord ⟨d, true⟩).find = .marker := by
      simp [MWord.find, h]; rfl
    simp [MWord.value, hf]; rfl

/-- A word of the scratchpad written in full with no flip armed reads as written. -/
theorem spWrite_peek (n i : Nat) (p : PWord) (h : spUnarmed s n) :
    ((s.spWrite n i (BitVec.allOnes 64) p).core n).spPeek i = p := by
  unfold Dev.spWrite
  simp only [if_true, mergeWord_full]
  obtain ⟨w, hw, hu⟩ := spPut_core s n i (freshWord p)
  unfold Core.spPeek
  rw [hw, hu h]
  simp [freshWord_value]

/-! Vaults. -/

/-- A word stored in a vault: it alone changes in its memory. -/
theorem vPut_core (n i : Nat) (w : MWord) : ∃ w' l q, (s.vPut n i w).core n =
    { s.core n with vault := { (s.core n).vault with mem := mset noWord (s.core n).vault.mem i w', wb := l, pend := q } } ∧
    (vUnarmed s n → w' = w) := by
  unfold Dev.vPut
  extract_lets chk pg drop put dd
  let seen (l : List VAcc) : List VAcc :=
    l.map fun a => if a.off / 8 ≤ i ∧ i < a.off / 8 + a.raw.length then { a with late := i :: a.late } else a
  have hput : ∀ (d : Dev) v, (put d v).core n =
      { d.core n with vault := { (d.core n).vault with mem := mset noWord (d.core n).vault.mem i v,
                                                       wb := (d.core n).vault.wb.filter fun p => p.1 != i,
                                                       pend := seen (d.core n).vault.pend } } := by
    intro d v
    show ((d.modVault n _).bump pg 6 drop).core n = _
    rw [core_bump]; exact core_modCore d n _
  split
  · rename_i h
    refine ⟨w.flip dd (BitVec.ofNat 15 chk) (tb chk 15), (s.core n).vault.wb.filter fun p => p.1 != i, seen (s.core n).vault.pend, ?_, fun hu => ?_⟩
    · rw [core_evt, core_setReg, hput]
    · unfold vUnarmed at hu
      exact absurd h (by rw [show tb chk 31 = false from hu]; simp)
  · exact ⟨w, _, _, hput s w, fun _ => rfl⟩

theorem vPut_core_ne (n i m : Nat) (w : MWord) (h : m ≠ n) : (s.vPut n i w).core m = s.core m := by
  unfold Dev.vPut
  extract_lets chk pg drop put dd
  have hput : ∀ (d : Dev) v, (put d v).core m = d.core m := by
    intro d v
    show ((d.modVault n _).bump pg 6 drop).core m = _
    rw [core_bump]; exact core_modCore_ne d n m _ h
  split
  · rw [core_evt, core_setReg, hput]
  · exact hput s w

/-- The core's state as it stood, but for its vault's write-backs owed, error counts and retired pseudo-channels. -/
def VaultNoted (c d : Core) : Prop :=
  ∃ wb ue ce ret, d = { c with vault := { c.vault with wb := wb, ue := ue, ce := ce, retired := ret } }

theorem VaultNoted.refl (c : Core) : VaultNoted c c := ⟨_, _, _, _, rfl⟩

theorem VaultNoted.trans {a b c : Core} (h : VaultNoted a b) (k : VaultNoted b c) : VaultNoted a c := by
  obtain ⟨w, u, e, r, rfl⟩ := h
  obtain ⟨w', u', e', r', rfl⟩ := k
  exact ⟨w', u', e', r', rfl⟩

theorem retirePc_core (n k : Nat) : VaultNoted (s.core n) ((s.retirePc n k).core n) := by
  unfold Dev.retirePc
  split
  · exact VaultNoted.refl _
  · rw [core_evt, core_bump]; exact ⟨_, _, _, _, core_modCore s n _⟩

theorem retirePc_core_ne (n k m : Nat) (h : m ≠ n) : (s.retirePc n k).core m = s.core m := by
  unfold Dev.retirePc
  split
  · rfl
  · rw [core_evt, core_bump]; exact core_modCore_ne s n m _ h

theorem pcCount_core (n k ue ce : Nat) : VaultNoted (s.core n) ((s.pcCount n k ue ce).core n) := by
  unfold Dev.pcCount
  extract_lets pg v u0 c0 u1 c1 s1 thr tu tc hit
  have h1 : VaultNoted (s.core n) (s1.core n) := ⟨_, _, _, _, core_modCore s n _⟩
  split
  · split
    · exact h1.trans (retirePc_core s1 n k)
    · rw [core_evt]; exact h1
  · exact h1

theorem pcCount_core_ne (n k ue ce m : Nat) (h : m ≠ n) : (s.pcCount n k ue ce).core m = s.core m := by
  unfold Dev.pcCount
  extract_lets pg v u0 c0 u1 c1 s1 thr tu tc hit
  have h1 : s1.core m = s.core m := core_modCore_ne s n m _ h
  split
  · split
    · rw [retirePc_core_ne _ _ _ _ h, h1]
    · rw [core_evt]; exact h1
  · exact h1

theorem vCorrected_core (n i : Nat) (w : MWord) : VaultNoted (s.core n) ((s.vCorrected n i w).core n) := by
  unfold Dev.vCorrected
  extract_lets pg s1
  have h1 : VaultNoted (s.core n) (s1.core n) :=
    ⟨_, _, _, _, (core_modCore (s.setReg (vra n 0x114) (w32 (2 ^ 31 + 8 * i))) n _).trans (by rw [core_setReg])⟩
  rw [core_evt]
  exact h1.trans (pcCount_core s1 n _ _ _)

theorem vCorrected_core_ne (n i m : Nat) (w : MWord) (h : m ≠ n) : (s.vCorrected n i w).core m = s.core m := by
  unfold Dev.vCorrected
  extract_lets pg s1
  have h1 : s1.core m = s.core m :=
    (core_modCore_ne (s.setReg (vra n 0x114) (w32 (2 ^ 31 + 8 * i))) n m _ h).trans (core_setReg _ _ _ _)
  rw [core_evt, pcCount_core_ne _ _ _ _ _ _ h, h1]

/-- A checked word changes of the cores only what its vault notes. -/
theorem vCheck_core (n i : Nat) (w : MWord) (nd : DWord) (nc : BitVec 15) (reads : Nat) :
    VaultNoted (s.core n) ((s.vCheck n i w nd nc reads).2.core n) := by
  unfold Dev.vCheck
  extract_lets pg seen w0 w1 w2 again
  split
  · exact VaultNoted.refl _
  · have h := vCorrected_core (s.bump pg 0 1) n i w0; rwa [core_bump] at h
  · have h := vCorrected_core (s.bump pg 1 1) n i w0; rwa [core_bump] at h
  · show VaultNoted (s.core n) (((s.bump pg 3 1).evt pg 3).core n)
    rw [core_evt, core_bump]; exact VaultNoted.refl _
  · have ha : ∀ (v : MWord) (d : Dev), VaultNoted (d.core n) ((again v d).2.core n) := by
      intro v d
      show VaultNoted (d.core n) ((match v.find with
        | .marker => (v.value, (d.bump pg 3 1).evt pg 3)
        | .ce1 => (v.value, ((d.bump pg 5 1).bump pg 0 1).vCorrected n i v)
        | .ce2 => (v.value, ((d.bump pg 5 1).bump pg 1 1).vCorrected n i v)
        | _ => (v.value, (d.bump pg 5 1).vCorrected n i v)).2.core n)
      split
      · show VaultNoted (d.core n) (((d.bump pg 3 1).evt pg 3).core n)
        rw [core_evt, core_bump]; exact VaultNoted.refl _
      · have h := vCorrected_core ((d.bump pg 5 1).bump pg 0 1) n i v; rwa [core_bump, core_bump] at h
      · have h := vCorrected_core ((d.bump pg 5 1).bump pg 1 1) n i v; rwa [core_bump, core_bump] at h
      · have h := vCorrected_core (d.bump pg 5 1) n i v; rwa [core_bump] at h
    split
    · have h := ha w1 (s.bump pg 4 1); rwa [core_bump] at h
    · split
      · have h := ha w2 (s.bump pg 4 2); rwa [core_bump] at h
      · have h := pcCount_core (((s.bump pg 4 2).bump pg 2 1).setReg (vra n 0x110) (w32 (2 ^ 31 + 8 * i))) n
          (pcOf (8 * i)) 1 0
        rw [core_setReg, core_bump, core_bump] at h
        show VaultNoted (s.core n) ((Dev.evt _ pg 2).core n)
        rw [core_evt]; exact h

theorem vCheck_core_ne (n i m : Nat) (w : MWord) (nd : DWord) (nc : BitVec 15) (reads : Nat) (h : m ≠ n) :
    (s.vCheck n i w nd nc reads).2.core m = s.core m := by
  unfold Dev.vCheck
  extract_lets pg seen w0 w1 w2 again
  split
  · rfl
  · have h := vCorrected_core_ne (s.bump pg 0 1) n i m w0 h; rwa [core_bump] at h
  · have h := vCorrected_core_ne (s.bump pg 1 1) n i m w0 h; rwa [core_bump] at h
  · show ((s.bump pg 3 1).evt pg 3).core m = _
    rw [core_evt, core_bump]
  · have ha : ∀ (v : MWord) (d : Dev), (again v d).2.core m = d.core m := by
      intro v d
      show (match v.find with
        | .marker => (v.value, (d.bump pg 3 1).evt pg 3)
        | .ce1 => (v.value, ((d.bump pg 5 1).bump pg 0 1).vCorrected n i v)
        | .ce2 => (v.value, ((d.bump pg 5 1).bump pg 1 1).vCorrected n i v)
        | _ => (v.value, (d.bump pg 5 1).vCorrected n i v)).2.core m = _
      split
      · show ((d.bump pg 3 1).evt pg 3).core m = _
        rw [core_evt, core_bump]
      · have h := vCorrected_core_ne ((d.bump pg 5 1).bump pg 0 1) n i m v h; rwa [core_bump, core_bump] at h
      · have h := vCorrected_core_ne ((d.bump pg 5 1).bump pg 1 1) n i m v h; rwa [core_bump, core_bump] at h
      · have h := vCorrected_core_ne (d.bump pg 5 1) n i m v h; rwa [core_bump] at h
    split
    · have h := ha w1 (s.bump pg 4 1); rwa [core_bump] at h
    · split
      · have h := ha w2 (s.bump pg 4 2); rwa [core_bump] at h
      · have h := pcCount_core_ne (((s.bump pg 4 2).bump pg 2 1).setReg (vra n 0x110) (w32 (2 ^ 31 + 8 * i))) n
          (pcOf (8 * i)) 1 0 m h
        rw [core_setReg, core_bump, core_bump] at h
        show (Dev.evt _ pg 2).core m = _
        rw [core_evt]; exact h

/-- A write of a vault word stores in that word alone. -/
theorem vWrite_core (n i : Nat) (mask : DWord) (p : PWord) : ∃ w wb q ue ce ret, (s.vWrite n i mask p).core n =
    { s.core n with vault := { (s.core n).vault with mem := mset noWord (s.core n).vault.mem i w, wb := wb, pend := q,
                                                     ue := ue, ce := ce, retired := ret } } := by
  unfold Dev.vWrite
  extract_lets old s1
  have h1 : VaultNoted (s.core n) (s1.core n) := by
    show VaultNoted _ ((if mask = BitVec.allOnes 64 then s else (s.vCheck n i old 0 0 0).2).core n)
    split
    · exact VaultNoted.refl _
    · exact vCheck_core s n i old 0 0 0
  obtain ⟨wb, ue, ce, ret, h1⟩ := h1
  obtain ⟨w, l, q, hw, _⟩ := vPut_core s1 n i (mergeWord old mask p)
  exact ⟨w, l, q, ue, ce, ret, by rw [hw, h1]⟩

theorem vWrite_core_ne (n i m : Nat) (mask : DWord) (p : PWord) (h : m ≠ n) : (s.vWrite n i mask p).core m = s.core m := by
  unfold Dev.vWrite
  extract_lets old s1
  rw [vPut_core_ne _ _ _ _ _ h]
  show (if mask = BitVec.allOnes 64 then s else (s.vCheck n i old 0 0 0).2).core m = _
  split
  · rfl
  · exact vCheck_core_ne s n i m old 0 0 0 h

/-- Writes to a vault change nothing of the cores but that vault: its memory at the words written, and what it notes. -/
theorem vWrites_core (n : Nat) (ws : List WWrite) : ∃ m wb q ue ce ret, (s.vWrites n ws).core n =
    { s.core n with vault := { (s.core n).vault with mem := m, wb := wb, pend := q, ue := ue, ce := ce, retired := ret } } ∧
    (mwf noWord (s.core n).vault.mem = true → mwf noWord m = true) ∧
    ∀ i, (∀ w ∈ ws, w.addr / 8 ≠ i) → mget noWord m i = mget noWord (s.core n).vault.mem i := by
  unfold Dev.vWrites
  induction ws generalizing s with
  | nil => exact ⟨_, _, _, _, _, _, rfl, id, fun _ _ => rfl⟩
  | cons a ws ih =>
    obtain ⟨w, wb, q, ue, ce, ret, hw⟩ := vWrite_core s n (a.addr / 8) a.mask ⟨a.data, a.poison⟩
    obtain ⟨m, wb', q', ue', ce', ret', h1, h2, h3⟩ := ih (s.vWrite n (a.addr / 8) a.mask ⟨a.data, a.poison⟩)
    refine ⟨m, wb', q', ue', ce', ret', by rw [List.foldl_cons, h1, hw], ?_, ?_⟩
    · intro h; apply h2; rw [hw]; exact mwf_mset _ _ h
    · intro i hi
      rw [h3 i (fun x hx => hi x (List.mem_cons_of_mem _ hx)), hw]
      exact mget_mset_ne _ _ _ (fun e => hi a List.mem_cons_self e.symm)

theorem vWrites_core_ne (n : Nat) (ws : List WWrite) (m : Nat) (h : m ≠ n) : (s.vWrites n ws).core m = s.core m := by
  unfold Dev.vWrites
  induction ws generalizing s with
  | nil => rfl
  | cons a ws ih => rw [List.foldl_cons, ih, vWrite_core_ne s n _ m _ _ h]

end Sys2Proof.Machine
end

