-- ==== Sys2Proof/Laws/Streams.lean ====
section
/-! SUPPORT. What issue does: a slot that is next to issue, a slot that issues. -/
namespace Sys2Proof.Machine
open Sys2Proof

variable (s : Dev)

/-- An attempt to issue that succeeds. -/
theorem issue_ok (n : Nat) (i : StreamId) (want : Op → Bool) (act : Nat → Op → Issue) (k : Nat) (o : Op) (s1 : Dev)
    (h : (s.core n).nextSlot i = some (k, o)) (hl : s.shareLent n = false) (hw : want o = true)
    (ha : act k o = .ok s1) : s.issue n i want act = s1.slotDone n i := by
  unfold Dev.issue
  simp only [h, hl, hw, ha, Bool.not_true, Bool.false_eq_true, if_false]

/-- An attempt to issue that faults. -/
theorem issue_fault (n : Nat) (i : StreamId) (want : Op → Bool) (act : Nat → Op → Issue) (k : Nat) (o : Op) (f : FRec)
    (h : (s.core n).nextSlot i = some (k, o)) (hl : s.shareLent n = false) (hw : want o = true)
    (ha : act k o = .fault f) : s.issue n i want act = s.faultSlot n i k f := by
  unfold Dev.issue
  simp only [h, hl, hw, ha, Bool.not_true, Bool.false_eq_true, if_false]

/-- A slot that nothing else holds waits while its core's share is lent. -/
theorem issue_lent (n : Nat) (i : StreamId) (want : Op → Bool) (act : Nat → Op → Issue) (k : Nat) (o : Op)
    (h : (s.core n).nextSlot i = some (k, o)) (hl : s.shareLent n = true) (hw : want o = true)
    (ha : ∀ c, act k o ≠ .wait c) : s.issue n i want act = s.stall n i k 14 0 false := by
  unfold Dev.issue
  simp only [h, hl, hw, Bool.not_true, Bool.false_eq_true, if_false, if_true]

theorem nextSlot_slots {c : Core} {i : StreamId} {k : Nat} {o : Op} (h : c.nextSlot i = some (k, o)) :
    (c.strm i).st = .running ∧ (c.strm i).fetched = true ∧ ∃ l, (c.strm i).slots = (k, o) :: l := by
  unfold Core.nextSlot at h
  simp only at h
  split at h
  · rename_i hh
    refine ⟨hh.1, hh.2, ?_⟩
    cases hs : (c.strm i).slots with
    | nil => simp [hs] at h
    | cons a l => simp [hs] at h; exact ⟨l, by rw [h]⟩
  · cases h

/-! Work abandoned by a stop touches neither memories nor flags nor queues nor arrays. -/

theorem abandonVec_keeps (c : Core) (k : Nat) :
    (c.abandonVec k).x = c.x ∧ (c.abandonVec k).a = c.a ∧ (c.abandonVec k).sp = c.sp ∧ (c.abandonVec k).imemX = c.imemX ∧
    (c.abandonVec k).imemA = c.imemA ∧ (c.abandonVec k).vault = c.vault ∧ (c.abandonVec k).flags = c.flags ∧
    (c.abandonVec k).queues = c.queues ∧ (c.abandonVec k).cur = c.cur ∧ (c.abandonVec k).curValid = c.curValid ∧
    (c.abandonVec k).arrs = c.arrs ∧ (c.abandonVec k).chain = c.chain ∧ (c.abandonVec k).reqs = c.reqs ∧
    (c.abandonVec k).work = c.work ∧ (c.abandonVec k).dq = c.dq ∧ (c.abandonVec k).g0 = c.g0 ∧
    (c.abandonVec k).g1 = c.g1 ∧ (c.abandonVec k).tiles = c.tiles :=
  ⟨rfl, rfl, rfl, rfl, rfl, rfl, rfl, rfl, rfl, rfl, rfl, rfl, rfl, rfl, rfl, rfl, rfl, rfl⟩

/-- What a stop of the execute stream keeps. -/
theorem stopX_keeps (c : Core) :
    c.stopX.x = c.x ∧ c.stopX.a = c.a ∧ c.stopX.sp = c.sp ∧ c.stopX.imemX = c.imemX ∧
    c.stopX.imemA = c.imemA ∧ c.stopX.vault = c.vault ∧ c.stopX.flags = c.flags ∧
    c.stopX.queues = c.queues ∧ c.stopX.cur = c.cur ∧ c.stopX.curValid = c.curValid ∧
    c.stopX.arrs = c.arrs ∧ c.stopX.chain = c.chain ∧ c.stopX.reqs = c.reqs ∧ c.stopX.work = c.work ∧
    c.stopX.dq = c.dq ∧ c.stopX.g0 = c.g0 ∧ c.stopX.g1 = c.g1 ∧ c.stopX.tiles = c.tiles := by
  unfold Core.stopX
  extract_lets c1
  split
  · exact abandonVec_keeps c1 _
  · exact ⟨rfl, rfl, rfl, rfl, rfl, rfl, rfl, rfl, rfl, rfl, rfl, rfl, rfl, rfl, rfl, rfl, rfl, rfl⟩

/-- What a core keeps when its streams' slots issue and stop: its memories, flags, queues, arrays, chain, requests and
engines' jobs. -/
def KeepsCore (c d : Core) : Prop :=
  d.sp = c.sp ∧ d.imemX = c.imemX ∧ d.imemA = c.imemA ∧ d.vault = c.vault ∧ d.flags = c.flags ∧
  d.queues = c.queues ∧ d.cur = c.cur ∧ d.curValid = c.curValid ∧ d.arrs = c.arrs ∧ d.chain = c.chain ∧
  d.reqs = c.reqs ∧ d.work = c.work ∧ d.dq = c.dq ∧ d.g0 = c.g0 ∧ d.g1 = c.g1

theorem KeepsCore.refl (c : Core) : KeepsCore c c :=
  ⟨rfl, rfl, rfl, rfl, rfl, rfl, rfl, rfl, rfl, rfl, rfl, rfl, rfl, rfl, rfl⟩

theorem setStrm_keeps (c : Core) (i : StreamId) (t : Stream) : KeepsCore c (c.setStrm i t) := by
  cases i <;> exact KeepsCore.refl c

theorem KeepsCore.trans {a b c : Core} (h : KeepsCore a b) (k : KeepsCore b c) : KeepsCore a c := by
  obtain ⟨h1, h2, h3, h4, h5, h6, h7, h8, h9, h10, h11, h12, h13, h14, h15⟩ := h
  obtain ⟨k1, k2, k3, k4, k5, k6, k7, k8, k9, k10, k11, k12, k13, k14, k15⟩ := k
  exact ⟨k1.trans h1, k2.trans h2, k3.trans h3, k4.trans h4, k5.trans h5, k6.trans h6, k7.trans h7, k8.trans h8,
    k9.trans h9, k10.trans h10, k11.trans h11, k12.trans h12, k13.trans h13, k14.trans h14, k15.trans h15⟩

theorem stopX_core (c : Core) : KeepsCore c c.stopX := by
  obtain ⟨_, _, h1, h2, h3, h4, h5, h6, h7, h8, h9, h10, h11, h12, h13, h14, h15, _⟩ := stopX_keeps c
  exact ⟨h1, h2, h3, h4, h5, h6, h7, h8, h9, h10, h11, h12, h13, h14, h15⟩

/-- The fields of a stream that a stop keeps. -/
def SameSlots (t u : Stream) : Prop :=
  u.slots = t.slots ∧ u.fetched = t.fetched ∧ u.part = t.part ∧ u.pc = t.pc ∧ u.issued = t.issued ∧
  u.lcnt = t.lcnt ∧ u.llim = t.llim ∧ u.cmp = t.cmp ∧ u.haltCode = t.haltCode

theorem SameSlots.refl (t : Stream) : SameSlots t t := ⟨rfl, rfl, rfl, rfl, rfl, rfl, rfl, rfl, rfl⟩

theorem discardX_keeps (c : Core) : KeepsCore c c.discardX ∧ SameSlots c.x c.discardX.x ∧ c.discardX.x.st = c.x.st :=
  ⟨KeepsCore.refl _, SameSlots.refl _, rfl⟩

theorem discardA_keeps (c : Core) : KeepsCore c c.discardA ∧ SameSlots c.a c.discardA.a ∧ c.discardA.a.st = c.a.st :=
  ⟨KeepsCore.refl _, SameSlots.refl _, rfl⟩

/-- The stream as `beginDrain` leaves it, before work is abandoned. -/
def drained (t : Stream) (g : StreamState) : Stream :=
  let t1 := { t with st := .draining, target := g, waiting := false, ending := none, halting := false, lendable := false }
  if t.part then t1 else { t1 with fetched := false, slots := [] }

theorem drained_same (t : Stream) (g : StreamState) (hs : t.slots = []) (hf : t.fetched = false) :
    SameSlots t (drained t g) ∧ (drained t g).st = .draining := by
  unfold drained
  extract_lets t1
  split
  · exact ⟨⟨rfl, rfl, rfl, rfl, rfl, rfl, rfl, rfl, rfl⟩, rfl⟩
  · exact ⟨⟨hs.symm, hf.symm, rfl, rfl, rfl, rfl, rfl, rfl, rfl⟩, rfl⟩

theorem beginDrain_eq (c : Core) (i : StreamId) (g : StreamState) :
    c.beginDrain i g = match i, g with
      | .X, .halted => c.setStrm i (drained (c.strm i) g)
      | .X, .idle => (c.setStrm i (drained (c.strm i) g)).stopX.discardX
      | .X, _ => (c.setStrm i (drained (c.strm i) g)).stopX
      | .A, .idle => (c.setStrm i (drained (c.strm i) g)).discardA
      | .A, _ => c.setStrm i (drained (c.strm i) g) := by
  unfold Core.beginDrain drained
  rfl

/-- A stop at a bundle's end: the core keeps what `KeepsCore` says, and the stream drains. -/
theorem beginDrain_boundary (c : Core) (i : StreamId) (g : StreamState) (hs : (c.strm i).slots = [])
    (hf : (c.strm i).fetched = false) :
    KeepsCore c (c.beginDrain i g) ∧ SameSlots (c.strm i) ((c.beginDrain i g).strm i) ∧
    ((c.beginDrain i g).strm i).st = .draining := by
  have hd := drained_same (c.strm i) g hs hf
  have hk := setStrm_keeps c i (drained (c.strm i) g)
  have he := strm_setStrm c i (drained (c.strm i) g)
  rw [beginDrain_eq]
  generalize c.setStrm i (drained (c.strm i) g) = d at hk he
  have plain : KeepsCore c d ∧ SameSlots (c.strm i) (d.strm i) ∧ (d.strm i).st = .draining := by
    rw [he]; exact ⟨hk, hd.1, hd.2⟩
  cases i with
  | X =>
    have hx : d.stopX.x = d.x := (stopX_keeps d).1
    have stop : KeepsCore c d.stopX ∧ SameSlots (c.strm .X) (d.stopX.strm .X) ∧ (d.stopX.strm .X).st = .draining := by
      refine ⟨hk.trans (stopX_core d), ?_⟩
      show SameSlots (c.strm .X) d.stopX.x ∧ d.stopX.x.st = .draining
      rw [hx]; exact plain.2
    cases g
    case halted => exact plain
    case idle =>
      obtain ⟨h1, h2, h3⟩ := discardX_keeps d.stopX
      refine ⟨stop.1.trans h1, ?_, h3.trans stop.2.2⟩
      show SameSlots (c.strm .X) d.stopX.discardX.x
      obtain ⟨a1, a2, a3, a4, a5, a6, a7, a8, a9⟩ := stop.2.1
      obtain ⟨b1, b2, b3, b4, b5, b6, b7, b8, b9⟩ := h2
      exact ⟨b1.trans a1, b2.trans a2, b3.trans a3, b4.trans a4, b5.trans a5, b6.trans a6, b7.trans a7, b8.trans a8,
        b9.trans a9⟩
    all_goals exact stop
  | A =>
    cases g
    case idle =>
      obtain ⟨h1, h2, h3⟩ := discardA_keeps d
      refine ⟨hk.trans h1, ?_, h3.trans plain.2.2⟩
      show SameSlots (c.strm .A) d.discardA.a
      obtain ⟨a1, a2, a3, a4, a5, a6, a7, a8, a9⟩ := plain.2.1
      obtain ⟨b1, b2, b3, b4, b5, b6, b7, b8, b9⟩ := h2
      exact ⟨b1.trans a1, b2.trans a2, b3.trans a3, b4.trans a4, b5.trans a5, b6.trans a6, b7.trans a7, b8.trans a8,
        b9.trans a9⟩
    all_goals exact plain

/-- A stream after the last slot of a bundle (R171, R178). -/
def bundleDone (t : Stream) : Stream :=
  { t.tick with slots := [], fetched := false, part := false, slot := 0, pc := t.nextPc, waiting := false, lendable := false,
                issued := satAdd (2 ^ 32 - 1) t.issued 1 }

theorem slotDone_more (c : Core) (i : StreamId) (x y : Nat × Op) (l : List (Nat × Op)) (h : (c.strm i).slots = x :: y :: l) :
    c.slotDone i = c.setStrm i { c.strm i with slots := y :: l, slot := y.1, part := true, waiting := false,
                                               lendable := false } := by
  unfold Core.slotDone
  simp only [h]

theorem slotDone_last (c : Core) (i : StreamId) (x : Nat × Op) (h : (c.strm i).slots = [x]) :
    c.slotDone i = match (c.strm i).ending, (c.strm i).halting with
      | some .idle, _ => (c.setStrm i (bundleDone (c.strm i))).beginDrain i .idle
      | some .faulted, _ => (c.setStrm i (bundleDone (c.strm i))).beginDrain i .faulted
      | _, true => (c.setStrm i (bundleDone (c.strm i))).beginDrain i .halted
      | some g, false => (c.setStrm i (bundleDone (c.strm i))).beginDrain i g
      | none, false => c.setStrm i (bundleDone (c.strm i)) := by
  unfold Core.slotDone
  simp only [h]
  rfl

/-- What the core keeps when a slot has issued. -/
theorem slotDone_core (c : Core) (i : StreamId) (x : Nat × Op) (l : List (Nat × Op)) (h : (c.strm i).slots = x :: l) :
    KeepsCore c (c.slotDone i) ∧ ((c.slotDone i).strm i).lcnt = (c.strm i).lcnt ∧
    ((c.slotDone i).strm i).llim = (c.strm i).llim ∧ ((c.slotDone i).strm i).cmp = (c.strm i).cmp ∧
    ((c.slotDone i).strm i).haltCode = (c.strm i).haltCode ∧ ((c.slotDone i).strm i).slots = l ∧
    (l = [] → ((c.slotDone i).strm i).fetched = false ∧ ((c.slotDone i).strm i).part = false ∧
      ((c.slotDone i).strm i).pc = (c.strm i).nextPc ∧
      ((c.slotDone i).strm i).issued = satAdd (2 ^ 32 - 1) (c.strm i).issued 1) ∧
    (l ≠ [] → ((c.slotDone i).strm i).fetched = (c.strm i).fetched ∧ ((c.slotDone i).strm i).part = true ∧
      ((c.slotDone i).strm i).pc = (c.strm i).pc ∧ ((c.slotDone i).strm i).issued = (c.strm i).issued ∧
      ((c.slotDone i).strm i).st = (c.strm i).st) := by
  cases l with
  | cons y l =>
    rw [slotDone_more c i x y l h]
    refine ⟨setStrm_keeps _ _ _, ?_⟩
    simp only [strm_setStrm]
    simp
  | nil =>
    have hk := setStrm_keeps c i (bundleDone (c.strm i))
    have he := strm_setStrm c i (bundleDone (c.strm i))
    rw [slotDone_last c i x h]
    generalize c.setStrm i (bundleDone (c.strm i)) = d at hk he
    have hd : ∀ g, KeepsCore d (d.beginDrain i g) ∧ SameSlots (d.strm i) ((d.beginDrain i g).strm i) := fun g =>
      ⟨(beginDrain_boundary d i g (by rw [he]; rfl) (by rw [he]; rfl)).1,
        (beginDrain_boundary d i g (by rw [he]; rfl) (by rw [he]; rfl)).2.1⟩
    have done : ∀ e : Core, KeepsCore d e → SameSlots (d.strm i) (e.strm i) → (KeepsCore c e ∧
        (e.strm i).lcnt = (c.strm i).lcnt ∧ (e.strm i).llim = (c.strm i).llim ∧ (e.strm i).cmp = (c.strm i).cmp ∧
        (e.strm i).haltCode = (c.strm i).haltCode ∧ (e.strm i).slots = [] ∧
        (([] : List (Nat × Op)) = [] → (e.strm i).fetched = false ∧ (e.strm i).part = false ∧
          (e.strm i).pc = (c.strm i).nextPc ∧ (e.strm i).issued = satAdd (2 ^ 32 - 1) (c.strm i).issued 1) ∧
        (([] : List (Nat × Op)) ≠ [] → (e.strm i).fetched = (c.strm i).fetched ∧ (e.strm i).part = true ∧
          (e.strm i).pc = (c.strm i).pc ∧ (e.strm i).issued = (c.strm i).issued ∧
          (e.strm i).st = (c.strm i).st)) := by
      intro e h1 h2
      obtain ⟨a1, a2, a3, a4, a5, a6, a7, a8, a9⟩ := h2
      rw [he] at a1 a2 a3 a4 a5 a6 a7 a8 a9
      exact ⟨hk.trans h1, a6, a7, a8, a9, a1, fun _ => ⟨a2, a3, a4, a5⟩, fun hh => absurd rfl hh⟩
    split
    · exact done _ (hd _).1 (hd _).2
    · exact done _ (hd _).1 (hd _).2
    · exact done _ (hd _).1 (hd _).2
    · exact done _ (hd _).1 (hd _).2
    · exact done _ (KeepsCore.refl _) (SameSlots.refl _)

/-- The last slot of a bundle in a stream that goes on: nothing of the core changes but the stream. -/
theorem slotDone_going (c : Core) (i : StreamId) (x : Nat × Op) (l : List (Nat × Op)) (h : (c.strm i).slots = x :: l)
    (he : (c.strm i).ending = none) (hh : (c.strm i).halting = false) :
    ∃ t, c.slotDone i = c.setStrm i t ∧ t.st = (c.strm i).st ∧ t.ending = none ∧ t.halting = false ∧
      t.held = (c.strm i).held := by
  cases l with
  | cons y l => exact ⟨_, slotDone_more c i x y l h, rfl, he, hh, rfl⟩
  | nil =>
    rw [slotDone_last c i x h, he, hh]
    exact ⟨_, rfl, rfl, he, hh, rfl⟩

/-! The part when a slot has issued. -/

/-- A stop changes nothing of the part but its core, events and what they send. -/
theorem modStop_core (n : Nat) (f : Core → Core) : (s.modStop n f).core n = f (s.core n) := by
  unfold Dev.modStop
  extract_lets s1
  split
  · rw [core_of_cores (evt_cores s1 _ _)]; simp [s1]
  · simp [s1]

theorem modStop_core_ne (n m : Nat) (f : Core → Core) (h : m ≠ n) : (s.modStop n f).core m = s.core m := by
  unfold Dev.modStop
  extract_lets s1
  split
  · rw [core_of_cores (evt_cores s1 _ _)]; exact core_modCore_ne s n m f h
  · exact core_modCore_ne s n m f h

/-- What the named fields of a device are. -/
def SameDev (s t : Dev) : Prop :=
  t.pwrok = s.pwrok ∧ t.released = s.released ∧ t.tripped = s.tripped ∧ t.podz = s.podz ∧ t.partz = s.partz ∧
  t.links = s.links ∧ t.latch = s.latch ∧ t.crit = s.crit ∧ t.locks = s.locks ∧ t.bot = s.bot ∧ t.shoot = s.shoot ∧
  t.proc = s.proc ∧ t.releaseQ = s.releaseQ ∧ t.net = s.net ∧ t.power = s.power ∧ t.alertMask = s.alertMask ∧
  t.scopes = s.scopes ∧ t.fresh = s.fresh

theorem SameDev.refl (s : Dev) : SameDev s s :=
  ⟨rfl, rfl, rfl, rfl, rfl, rfl, rfl, rfl, rfl, rfl, rfl, rfl, rfl, rfl, rfl, rfl, rfl, rfl⟩

theorem SameDev.trans {a b c : Dev} (h : SameDev a b) (k : SameDev b c) : SameDev a c := by
  obtain ⟨h1, h2, h3, h4, h5, h6, h7, h8, h9, h10, h11, h12, h13, h14, h15, h16, h17, h18⟩ := h
  obtain ⟨k1, k2, k3, k4, k5, k6, k7, k8, k9, k10, k11, k12, k13, k14, k15, k16, k17, k18⟩ := k
  exact ⟨k1.trans h1, k2.trans h2, k3.trans h3, k4.trans h4, k5.trans h5, k6.trans h6, k7.trans h7, k8.trans h8,
    k9.trans h9, k10.trans h10, k11.trans h11, k12.trans h12, k13.trans h13, k14.trans h14, k15.trans h15,
    k16.trans h16, k17.trans h17, k18.trans h18⟩

theorem evt_same (pg b : Nat) : SameDev s (s.evt pg b) := by
  unfold SameDev
  simp only [evt_pwrok, evt_released, evt_tripped, evt_podz, evt_partz, evt_links, evt_latch, evt_crit, evt_locks, evt_bot,
    evt_shoot, evt_proc, evt_releaseQ, evt_net, evt_power, evt_alertMask, evt_scopes, evt_fresh, and_self]

theorem bump_same (pg i k : Nat) : SameDev s (s.bump pg i k) := by
  unfold SameDev
  simp only [bump_pwrok, bump_released, bump_tripped, bump_podz, bump_partz, bump_links, bump_latch, bump_crit, bump_locks,
    bump_bot, bump_shoot, bump_proc, bump_releaseQ, bump_net, bump_power, bump_alertMask, bump_scopes, bump_fresh, and_self]

theorem modCore_same (n : Nat) (f : Core → Core) : SameDev s (s.modCore n f) := SameDev.refl s

theorem modStop_same (n : Nat) (f : Core → Core) : SameDev s (s.modStop n f) := by
  unfold Dev.modStop
  extract_lets s1
  split
  · exact (modCore_same s n f).trans (evt_same s1 _ _)
  · exact modCore_same s n f

/-- What a slot's issue leaves of the part: its core as `Core.slotDone` says, every other core, and the fields of
`SameDev`. -/
theorem slotDone_part (n : Nat) (i : StreamId) :
    (s.slotDone n i).core n = (s.core n).slotDone i ∧ (∀ m, m ≠ n → (s.slotDone n i).core m = s.core m) ∧
    SameDev s (s.slotDone n i) := by
  unfold Dev.slotDone
  extract_lets whole s1
  split
  · refine ⟨?_, fun m hm => ?_, (modStop_same s n _).trans (bump_same s1 _ _ _)⟩
    · rw [core_of_cores (bump_cores s1 _ _ _)]; exact modStop_core s n _
    · rw [core_of_cores (bump_cores s1 _ _ _)]; exact modStop_core_ne s n m _ hm
  · exact ⟨modStop_core s n _, fun m hm => modStop_core_ne s n m _ hm, modStop_same s n _⟩

/-- Where the stream goes on, registers, ports and outputs are as they were too. -/
theorem slotDone_part_going (n : Nat) (i : StreamId) (x : Nat × Op) (l : List (Nat × Op))
    (h : ((s.core n).strm i).slots = x :: l) (he : ((s.core n).strm i).ending = none)
    (hh : ((s.core n).strm i).halting = false) :
    (s.slotDone n i).regs = s.regs ∧ (s.slotDone n i).out = s.out ∧ (s.slotDone n i).portA = s.portA ∧
    (s.slotDone n i).portB = s.portB := by
  obtain ⟨t, ht, _⟩ := slotDone_going (s.core n) i x l h he hh
  have hv : ((s.core n).slotDone i).vq = (s.core n).vq := by rw [ht]; cases i <;> rfl
  have hs : (s.modStop n fun c => c.slotDone i) = s.modCore n fun c => c.slotDone i := by
    unfold Dev.modStop
    extract_lets s1
    have : ¬ (s1.core n).vq.length < (s.core n).vq.length := by simp [s1, hv]
    rw [if_neg this]
  unfold Dev.slotDone
  rw [hs]
  extract_lets whole s1
  split
  · exact ⟨bump_regs s1 _ _ _, bump_out s1 _ _ _, bump_portA s1 _ _ _, bump_portB s1 _ _ _⟩
  · exact ⟨rfl, rfl, rfl, rfl⟩

/-! Register accesses. -/

/-- Reads of words whose copies agree change nothing. -/
theorem critSeen_agree (keys : List Nat) (h : CritAgree s keys) : s.critSeen keys = s := by
  unfold Dev.critSeen
  induction keys with
  | nil => rfl
  | cons k l ih =>
    rw [List.foldl_cons, show s.critRepair k (mget critDefault s.crit k) = s by
      unfold Dev.critRepair; rw [h k List.mem_cons_self]]
    exact ih fun x hx => h x (List.mem_cons_of_mem _ hx)

/-- The part as an access to a page that acts finds it: it has counted at its port (R446). -/
def arrived (s : Dev) (w : Writer) : Dev :=
  match w with
  | .host p => s.bump (pciePg p) 2 1
  | _ => s

/-- Counting changes no power domain. -/
theorem pageDark_bump (a i k pg : Nat) : (s.bump a i k).pageDark pg = s.pageDark pg := by
  unfold Dev.pageDark Dev.podGone Dev.pod
  simp only [bump_podz, bump_power, bump_portA, bump_portB]

/-- A page whose block has power lets an access act. -/
theorem pageGate_light (pg : Nat) (h : s.pageDark pg = false) : s.pageGate pg = (s, true) := by
  unfold Dev.pageGate
  rw [h]; rfl

/-- Reads of critical words as a count leaves them. -/
theorem critAgree_bump (a i k : Nat) (keys : List Nat) (h : CritAgree s keys) : CritAgree (s.bump a i k) keys := by
  unfold CritAgree
  rw [bump_crit]; exact h

/-- An access that reaches its page acts. -/
theorem regAccess_reaches (s : State) (w : Writer) (pg : Nat) (f : Dev → Dev) (h : Reaches s w pg) :
    s.dev.regAccess w pg f = f (arrived s.dev w) := by
  obtain ⟨_, hk, h⟩ := h
  cases w with
  | host p =>
    obtain ⟨h1, h2, h3, h4⟩ := h
    simp [Dev.regAccess, Dev.regGate, arrived, critSeen_agree _ _ (critAgree_bump s.dev _ _ _ _ hk),
      pageGate_light _ _ ((pageDark_bump s.dev _ _ _ pg).trans h4), h1, h2, h3]
  | jtag =>
    obtain ⟨h1, h2, h3⟩ := h
    simp [Dev.regAccess, Dev.regGate, arrived, critSeen_agree _ _ hk, pageGate_light _ _ h3, h1, h2]
  | record => exact h.elim

theorem arrived_same (w : Writer) : SameDev s (arrived s w) := by
  cases w
  · exact bump_same s _ _ _
  · exact SameDev.refl s
  · exact SameDev.refl s

theorem arrived_cores (w : Writer) : (arrived s w).cores = s.cores := by
  cases w
  · exact bump_cores s _ _ _
  · rfl
  · rfl

theorem arrived_regs (w : Writer) : (arrived s w).regs = s.regs := by
  cases w
  · exact bump_regs s _ _ _
  · rfl
  · rfl

theorem arrived_ports (w : Writer) : (arrived s w).portA = s.portA ∧ (arrived s w).portB = s.portB := by
  cases w
  · exact ⟨bump_portA s _ _ _, bump_portB s _ _ _⟩
  · exact ⟨rfl, rfl⟩
  · exact ⟨rfl, rfl⟩

/-! In the words of the statements. -/

/-- A slot that issues over `d`, which has the stream's slots as they stood, has issued in the sense of `SlotIssued`. -/
theorem slotIssued_of (s : State) (n : Nat) (i : StreamId) (k : Nat) (o : Op) (d : Dev)
    (hr : (s.dev.core n).nextSlot i = some (k, o))
    (h1 : ((d.core n).strm i).slots = ((s.dev.core n).strm i).slots)
    (h2 : ((d.core n).strm i).fetched = ((s.dev.core n).strm i).fetched)
    (h3 : ((d.core n).strm i).pc = ((s.dev.core n).strm i).pc)
    (h4 : ((d.core n).strm i).issued = ((s.dev.core n).strm i).issued)
    (h5 : ((d.core n).strm i).st = ((s.dev.core n).strm i).st) :
    SlotIssued s { s with dev := d.slotDone n i } n i ((d.core n).strm i).nextPc := by
  obtain ⟨hst, hfe, l, hl⟩ := nextSlot_slots hr
  have hc := (slotDone_part d n i).1
  obtain ⟨_, _, _, _, _, hs, ha, hb⟩ := slotDone_core (d.core n) i (k, o) l (h1.trans hl)
  unfold SlotIssued
  simp only [hc, hl, List.tail_cons]
  refine ⟨hs, fun h => ?_, fun h => ?_⟩
  · obtain ⟨q1, q2, q3, q4⟩ := ha h
    exact ⟨q1, q2, q3, by rw [q4, h4]⟩
  · obtain ⟨q1, q2, q3, q4, q5⟩ := hb h
    exact ⟨by rw [q1, h2, hfe], q2, by rw [q3, h3], by rw [q4, h4], by rw [q5, h5, hst]⟩

/-- The rest of the part when a slot issues over `d`. -/
theorem sameElsewhere_of (s : State) (n : Nat) (i : StreamId) (d : Dev)
    (hm : ∀ m, m ≠ n → d.core m = s.dev.core m) (hd : SameDev s.dev d) :
    SameElsewhere s { s with dev := d.slotDone n i } n := by
  obtain ⟨_, h2, h3⟩ := slotDone_part d n i
  obtain ⟨a1, a2, a3, a4, a5, a6, a7, a8, a9, a10, a11, a12, a13, a14, a15, a16, a17, a18⟩ := hd.trans h3
  exact ⟨fun m h => (h2 m h).trans (hm m h), a4, a5, a6, a8, a9, a10, a14, a15, a7, rfl, rfl⟩

/-- What a core keeps when a slot issues over `d`. -/
theorem keepsCore_of (n : Nat) (i : StreamId) (k : Nat) (o : Op) (l : List (Nat × Op))
    (h : ((s.core n).strm i).slots = (k, o) :: l) : KeepsCore (s.core n) ((s.slotDone n i).core n) := by
  rw [(slotDone_part s n i).1]
  exact (slotDone_core (s.core n) i (k, o) l h).1


theorem setStrm_setStrm (c : Core) (i : StreamId) (t : Stream) : (c.setStrm i t).setStrm i {} = c.setStrm i {} := by cases i <;> rfl

/-- A slot that issues over a part that differs from `s` in its stream and in counters. -/
theorem controlIssued_of (s : State) (n : Nat) (i : StreamId) (k : Nat) (o : Op) (d : Dev) (hr : Ready s n i k o)
    (hd : SameDev s.dev d) (hm : ∀ m, m ≠ n → d.core m = s.dev.core m)
    (u : Stream) (hc : d.core n = (s.dev.core n).setStrm i u)
    (h0 : d.regs = s.dev.regs ∧ d.out = s.dev.out ∧ d.portA = s.dev.portA ∧ d.portB = s.dev.portB)
    (h1 : u.slots = ((s.dev.core n).strm i).slots)
    (h2 : u.fetched = ((s.dev.core n).strm i).fetched)
    (h3 : u.pc = ((s.dev.core n).strm i).pc)
    (h4 : u.issued = ((s.dev.core n).strm i).issued)
    (h5 : u.st = ((s.dev.core n).strm i).st)
    (h6 : u.haltCode = ((s.dev.core n).strm i).haltCode)
    (h7 : u.ending = ((s.dev.core n).strm i).ending)
    (h8 : u.halting = ((s.dev.core n).strm i).halting) :
    ControlIssued s { s with dev := d.slotDone n i } n i u.nextPc u.lcnt u.llim u.cmp := by
  have hu : (d.core n).strm i = u := by rw [hc, strm_setStrm]
  obtain ⟨_, _, l, hl⟩ := nextSlot_slots hr.2.1
  have hsl : ((d.core n).strm i).slots = (k, o) :: l := by rw [hu, h1, hl]
  have hs := slotIssued_of s n i k o d hr.2.1 (by rw [hu, h1]) (by rw [hu, h2]) (by rw [hu, h3]) (by rw [hu, h4]) (by rw [hu, h5])
  rw [hu] at hs
  have hp := slotDone_part d n i
  have hq := slotDone_core (d.core n) i (k, o) l hsl
  have hk := (keepsCore_of d n i k o l hsl)
  have hk2 : KeepsCore (s.dev.core n) (d.core n) := by rw [hc]; exact setStrm_keeps _ _ _
  have hk3 := hk2.trans hk
  refine ⟨hs, ?_, ?_, ?_, ?_, hk3.2.2.2.2.1, sameElsewhere_of s n i d hm hd, ⟨hk3.1, hk3.2.1, hk3.2.2.1, hk3.2.2.2.1⟩, ?_⟩
  · rw [hp.1, hq.2.1, hu]
  · rw [hp.1, hq.2.2.1, hu]
  · rw [hp.1, hq.2.2.2.1, hu]
  · rw [hp.1, hq.2.2.2.2.1, hu, h6]
  · rintro ⟨g1, g2⟩
    have he : ((d.core n).strm i).ending = none := by rw [hu, h7, g1]
    have hh : ((d.core n).strm i).halting = false := by rw [hu, h8, g2]
    have hg := slotDone_part_going d n i (k, o) l hsl he hh
    obtain ⟨v, hv, _⟩ := slotDone_going (d.core n) i (k, o) l hsl he hh
    refine ⟨sameElsewhere_of s n i d hm hd, hg.1.trans h0.1, hg.2.1.trans h0.2.1, hg.2.2.1.trans h0.2.2.1, hg.2.2.2.trans h0.2.2.2, ?_⟩
    show ((d.slotDone n i).core n).setStrm i {} = _
    rw [hp.1, hv, hc, setStrm_setStrm, setStrm_setStrm]

/-- The same where the operation changes its stream by `f`. -/
theorem controlIssued_strm (s : State) (n : Nat) (i : StreamId) (k : Nat) (o : Op) (f : Stream → Stream) (hr : Ready s n i k o)
    (h1 : ∀ u, (f u).slots = u.slots ∧ (f u).fetched = u.fetched ∧ (f u).pc = u.pc ∧ (f u).issued = u.issued ∧ (f u).st = u.st ∧
       (f u).haltCode = u.haltCode ∧ (f u).ending = u.ending ∧ (f u).halting = u.halting) :
    ControlIssued s { s with dev := (s.dev.modStrm n i f).slotDone n i } n i (f ((s.dev.core n).strm i)).nextPc
      (f ((s.dev.core n).strm i)).lcnt (f ((s.dev.core n).strm i)).llim (f ((s.dev.core n).strm i)).cmp := by
  obtain ⟨a1, a2, a3, a4, a5, a6, a7, a8⟩ := h1 ((s.dev.core n).strm i)
  exact controlIssued_of s n i k o (s.dev.modStrm n i f) hr (SameDev.refl _) (fun m h => core_modCore_ne s.dev n m _ h)
    (f ((s.dev.core n).strm i)) (core_modCore s.dev n _) ⟨rfl, rfl, rfl, rfl⟩ a1 a2 a3 a4 a5 a6 a7 a8

/-- The same where a branch or a `loop` STEP is taken. -/
theorem controlIssued_taken (s : State) (n : Nat) (i : StreamId) (k : Nat) (o : Op) (d : Dev) (u : Stream) (target : Nat) (hr : Ready s n i k o)
    (hd : SameDev s.dev d) (hm : ∀ m, m ≠ n → d.core m = s.dev.core m)
    (hc : d.core n = (s.dev.core n).setStrm i u)
    (h0 : d.regs = s.dev.regs ∧ d.out = s.dev.out ∧ d.portA = s.dev.portA ∧ d.portB = s.dev.portB)
    (h1 : u.slots = ((s.dev.core n).strm i).slots)
    (h2 : u.fetched = ((s.dev.core n).strm i).fetched)
    (h3 : u.pc = ((s.dev.core n).strm i).pc)
    (h4 : u.issued = ((s.dev.core n).strm i).issued)
    (h5 : u.st = ((s.dev.core n).strm i).st)
    (h6 : u.haltCode = ((s.dev.core n).strm i).haltCode)
    (h7 : u.ending = ((s.dev.core n).strm i).ending)
    (h8 : u.halting = ((s.dev.core n).strm i).halting) :
    ControlIssued s { s with dev := (d.taken n i target).slotDone n i } n i target u.lcnt u.llim u.cmp := by
  have hst : (d.core n).strm i = u := by rw [hc, strm_setStrm]
  have hcore : (d.taken n i target).core n = (s.dev.core n).setStrm i { u with nextPc := target } := by
    show ((d.modStrm n i _).bump _ _ _).core n = _
    rw [core_bump]
    show (d.modCore n _).core n = _
    rw [core_modCore, hst, hc]
    cases i <;> rfl
  refine controlIssued_of s n i k o (d.taken n i target) hr (hd.trans ((modCore_same d n _).trans (bump_same (d.modStrm n i _) _ _ _))) (fun m h => ?_)
    { u with nextPc := target } hcore ⟨?_, ?_, ?_, ?_⟩ h1 h2 h3 h4 h5 h6 h7 h8
  · show ((d.modStrm n i _).bump _ _ _).core m = _
    rw [core_bump]; exact (core_modCore_ne d n m _ h).trans (hm m h)
  · exact (bump_regs (d.modStrm n i _) _ _ _).trans h0.1
  · exact (bump_out (d.modStrm n i _) _ _ _).trans h0.2.1
  · exact (bump_portA (d.modStrm n i _) _ _ _).trans h0.2.2.1
  · exact (bump_portB (d.modStrm n i _) _ _ _).trans h0.2.2.2

theorem setStrm_self (c : Core) (i : StreamId) : c.setStrm i (c.strm i) = c := by cases i <;> rfl

/-! Flags (R165, R168). -/

theorem flag_or (c : Core) (f j : Nat) (hj : j < 64) (hf : f < 64) :
    (c.flags ||| w64 (2 ^ f)).getLsbD j = if j = f then true else c.flags.getLsbD j := by
  simp only [w64, BitVec.getLsbD_or, BitVec.getLsbD_ofNat, hj, decide_true, Bool.true_and]
  by_cases h : j = f
  · subst h; simp [Nat.testBit_two_pow_self]
  · rw [Nat.testBit_two_pow]; simp [h, Ne.symm h]

theorem flag_andnot (c : Core) (f j : Nat) (hj : j < 64) (hf : f < 64) :
    (c.flags &&& ~~~w64 (2 ^ f)).getLsbD j = if j = f then false else c.flags.getLsbD j := by
  simp only [w64, BitVec.getLsbD_and, BitVec.getLsbD_not, BitVec.getLsbD_ofNat, hj, decide_true, Bool.true_and]
  by_cases h : j = f
  · subst h; simp [Nat.testBit_two_pow_self]
  · rw [Nat.testBit_two_pow]; simp [h, Ne.symm h]

theorem setFlag_core (n f k src : Nat) :
    (s.setFlag n f k src).core n = { s.core n with flags := (s.core n).flags ||| w64 (2 ^ f) } := by
  unfold Dev.setFlag; rw [core_setReg, core_modCore]

theorem setFlag_core_ne (n f k src m : Nat) (h : m ≠ n) : (s.setFlag n f k src).core m = s.core m := by
  unfold Dev.setFlag; rw [core_setReg, core_modCore_ne _ _ _ _ h]

theorem setFlag_last (n f k src : Nat) :
    (s.setFlag n f k src).reg (ra (corePg n 0) (0x500 + 4 * f)) = w32 (k * 1024 + src) := by
  unfold Dev.setFlag; rw [reg_setReg]

theorem clrFlag_core (n f : Nat) :
    (s.clrFlag n f).core n = { s.core n with flags := (s.core n).flags &&& ~~~w64 (2 ^ f) } := core_modCore _ _ _

theorem clrFlag_core_ne (n f m : Nat) (h : m ≠ n) : (s.clrFlag n f).core m = s.core m := core_modCore_ne _ _ _ _ h

theorem flagTo_same (n f : Nat) (clr : Bool) (k src : Nat) : SameDev s (s.flagTo n f clr k src) := by
  unfold SameDev; simp

/-- Everything a flag operation does to cores: one flag of one core. -/
theorem flagTo_core (n f : Nat) (clr : Bool) (k src : Nat) (hf : f < 64) :
    (∀ j, j < 64 → ((s.flagTo n f clr k src).core n).flag j = if j = f then !clr else (s.core n).flag j) ∧
    (∀ m, m ≠ n → (s.flagTo n f clr k src).core m = s.core m) ∧
    ∃ v, (s.flagTo n f clr k src).core n = { s.core n with flags := v } := by
  cases clr
  · refine ⟨fun j hj => ?_, fun m h => setFlag_core_ne s n f k src m h, _, setFlag_core s n f k src⟩
    show ((s.setFlag n f k src).core n).flags.getLsbD j = _
    rw [setFlag_core]; exact flag_or _ f j hj hf
  · refine ⟨fun j hj => ?_, fun m h => clrFlag_core_ne s n f m h, _, clrFlag_core s n f⟩
    show ((s.clrFlag n f).core n).flags.getLsbD j = _
    rw [clrFlag_core]; exact flag_andnot _ f j hj hf

theorem strm_flags (c : Core) (v : DWord) (i : StreamId) : ({ c with flags := v } : Core).strm i = c.strm i := by
  cases i <;> rfl

/-- Issue raises no event but ABANDONED of the vector page. -/
theorem slotDone_reg (n : Nat) (i : StreamId) (key : Nat) (h : key ≠ ra (corePg n 2) 0x18) :
    (s.slotDone n i).reg key = s.reg key := by
  have hm : ∀ f : Core → Core, (s.modStop n f).reg key = s.reg key := by
    intro f
    unfold Dev.modStop
    extract_lets s1
    split
    · rw [reg_evt_ne _ _ _ _ h]; rfl
    · rfl
  unfold Dev.slotDone
  extract_lets w s1
  split
  · rw [reg_bump]; exact hm _
  · exact hm _

/-- A slot that issues over a part whose stream and memories are as they were. -/
theorem slot_of (s : State) (n : Nat) (i : StreamId) (k : Nat) (o : Op) (d : Dev) (hr : Ready s n i k o)
    (hd : SameDev s.dev d) (hm : ∀ m, m ≠ n → d.core m = s.dev.core m)
    (h1 : (d.core n).strm i = (s.dev.core n).strm i)
    (hk : (d.core n).sp = (s.dev.core n).sp ∧ (d.core n).imemX = (s.dev.core n).imemX ∧
      (d.core n).imemA = (s.dev.core n).imemA ∧ (d.core n).vault = (s.dev.core n).vault) :
    SlotIssued s { s with dev := d.slotDone n i } n i ((s.dev.core n).strm i).nextPc ∧
    SameElsewhere s { s with dev := d.slotDone n i } n ∧ SameMemories s { s with dev := d.slotDone n i } n ∧
    KeepsCore (d.core n) ((d.slotDone n i).core n) := by
  obtain ⟨_, _, l, hl⟩ := nextSlot_slots hr.2.1
  have hk2 := keepsCore_of d n i k o l (by rw [h1, hl])
  refine ⟨?_, sameElsewhere_of s n i d hm hd, ⟨hk2.1.trans hk.1, hk2.2.1.trans hk.2.1, hk2.2.2.1.trans hk.2.2.1,
    hk2.2.2.2.1.trans hk.2.2.2⟩, hk2⟩
  have := slotIssued_of s n i k o d hr.2.1 (by rw [h1]) (by rw [h1]) (by rw [h1]) (by rw [h1]) (by rw [h1])
  rwa [h1] at this

end Sys2Proof.Machine
end

