-- ==== Sys2Proof/Tests/Slice0.lean ====
section
/-! SUPPORT. The model's own tests: ill-formed commands are refused, the spec's worked examples, and for each statement
states and operands that meet its hypotheses, one conjunct for each clause. -/
namespace Sys2Proof.Tests
open Sys2Proof Sys2Proof.Machine
set_option Elab.async false

/-! Ill-formed commands are refused. -/

/-- A core the part does not have (R20). -/
theorem test_wf_core : Instr.wf (.fetch 672 .X) = false := by decide
/-- A fifth matrix array (R41). -/
theorem test_wf_array : Instr.wf (.wldDone 0 4) = false := by decide

/-! States for the witnesses. -/

/-- The part with one core as given. -/
def oneCore (c : Core) : State := { dev := { cores := [(0, c)] } }

/-- Core 0 with its execute stream at a fetched operation. -/
def atX (o : Op) (c : Core) : State :=
  oneCore { c with x := { st := .running, fetched := true, slots := [(0, o)], nextPc := 1 } }

/-- Core 0 with its access stream at a fetched operation. -/
def atA (o : Op) (c : Core) : State :=
  oneCore { c with a := { st := .running, fetched := true, slots := [(0, o)], nextPc := 1 } }

/-- The same part with the link of port A up and some pages owned by partition 0, READY at port A over the first column. -/
def part0 (pages : List Nat) (s : State) : State :=
  { s with dev := { s.dev with
    portA := { s.dev.portA with up := true }
    crit := (131072, ⟨0x80010000, 0x80010000, 0x80010000⟩) :: pages.map fun pg => (131084 + pg, ⟨0, 0, 0⟩) } }

/-- The same part with registers as given. -/
def regs (l : SMap Word) (s : State) : State := { s with dev := { s.dev with regs := l } }

/-- The same part with packets in the Harness. -/
def nets (l : List Packet) (s : State) : State := { s with dev := { s.dev with net := l } }

/-- A word as it is written. -/
def good (d : DWord) : MWord := { valid := true, data := d }

/-! Witnesses. -/

theorem wit_ControlSlotOperationsIssue :
    Ready (atX .nop {}) 0 .X 0 .nop ∧ Ready (atX (.loopSet 7 16777215) {}) 0 .X 0 (.loopSet 7 16777215) ∧
    Ready (atX (.loopStep 0 4095) {}) 0 .X 0 (.loopStep 0 4095) ∧ Ready (atA (.cmp 3 true) {}) 0 .A 0 (.cmp 3 true) ∧
    Ready (atX (.br true 0) {}) 0 .X 0 (.br true 0) ∧ Ready (atA (.brFlag 63 false 5) {}) 0 .A 0 (.brFlag 63 false 5) := by
  simp only [Ready, Running]; decide +kernel

theorem wit_FlagOperationsIssue :
    Ready (atX (.flag false 63 false 0 0) {}) 0 .X 0 (.flag false 63 false 0 0) ∧
    Ready (atA (.flag true 0 false 0 0) {}) 0 .A 0 (.flag true 0 false 0 0) ∧
    (let s := atA (.flag true 63 false 0 2) {}
     Ready s 0 .A 0 (.flag true 63 false 0 2) ∧ ((s.dev.core 0).strm .A).goesOn) ∧
    (let s := part0 [0x100, 0x104] (atX (.flag false 63 true 1 0) {})
     Ready s 0 .X 0 (.flag false 63 true 1 0) ∧ s.dev.corePart 0 < 12 ∧ s.dev.corePart 1 = s.dev.corePart 0 ∧
     (s.dev.core 0).flagOps < 16 ∧ (s.dev.core 0).freeTag = some 0) ∧
    (let s := atX (.fwait 63 true true) { flags := 0x8000000000000000 }
     Ready s 0 .X 0 (.fwait 63 true true) ∧ (s.dev.core 0).flag 63 = true) ∧
    (let s := atX (.fwait 0 true false) {}
     Ready s 0 .X 0 (.fwait 0 true false) ∧ (s.dev.core 0).flag 0 ≠ true) := by
  simp only [Ready, Running, Stream.goesOn]; decide +kernel

theorem wit_HeldAndHostFlagOperationsApply :
    (let h : Held := { clr := false, flag := 63, remote := false, core := 0, seq := 1, before := 1, pc := 0 }
     let s := oneCore { x := { held := [h] } }
     Running s 0 ∧ ((s.dev.core 0).strm .X).held = [h] ∧ (s.dev.core 0).onAbandoned .X h = false ∧
     (s.dev.core 0).workOpen .X h.seq h.before = false) ∧
    Reaches (part0 [0x100] State.reset) (.host .A) (corePg 0 0) := by
  simp only [Running, Reaches, CritAgree]; decide +kernel

theorem wit_QueueOperationsMoveEntries :
    (let s := atA (.qpush 3 786176) {}
     Ready s 0 .A 0 (.qpush 3 786176) ∧ (s.dev.core 0).queues.length = 4 ∧ (s.dev.core 0).cur.length = 4 ∧
     (786176 : Int).toNat + 256 ≤ spSize ∧ s.dev.inCarve 0 786176 256 = false ∧ (s.dev.core 0).spHeld 786176 256 = false) ∧
    (let s := atA (.qpush 0 0) { queues := [List.replicate 16 [], [], [], []] }
     Ready s 0 .A 0 (.qpush 0 0) ∧ 16 ≤ (lget [] (s.dev.core 0).queues 0).length) ∧
    (let e : QEntry := List.replicate 32 {}
     let s := atX (.qpop 0 true 0) { queues := [[e], [], [], []] }
     Ready s 0 .X 0 (.qpop 0 true 0) ∧ lget [] (s.dev.core 0).queues 0 = [e] ∧ (e.take 4).all (fun w => !w.poison) = true ∧
     0 + 256 ≤ s.dev.reserve 0 ∧ s.dev.inCarve 0 0 256 = false ∧ spUnarmed s.dev 0) := by
  simp only [Ready, Running, spUnarmed]; decide +kernel

theorem wit_HaltChainAndLoad :
    (let s := atX (.halt 255 true 786400) {}
     Ready s 0 .X 0 (.halt 255 true 786400) ∧ 786400 + 32 ≤ spSize ∧ s.dev.inCarve 0 786400 32 = false ∧
     ((s.dev.core 0).strm .X).ending = none ∧ ((s.dev.core 0).strm .X).slots.length = 1) ∧
    (let h : Chain := { record := 786400 }
     let s := oneCore { chain := some h, a := { st := .halted }, x := { st := .running } }
     let c := s.dev.core 0
     Running s 0 ∧ c.chain = some h ∧ h.phase = 0 ∧ c.a.st = .halted ∧ c.x.atRest = false ∧ c.spHeld h.record 32 = false ∧
     s.dev.inCarve 0 h.record 32 = false ∧ ((wordsAt h.record 32).map c.spPeek).all (fun w => !w.poison) = true) ∧
    (let h : Chain := { record := 0, phase := 3, words := [0, 0, 0, 3] }
     let s := oneCore { chain := some h, a := { st := .halted }, x := { st := .halted } }
     Running s 0 ∧ (s.dev.core 0).chain = some h ∧ (s.dev.core 0).a.st = .halted ∧ (s.dev.core 0).x.atRest = true ∧
     tb (h.field 24 1) 0 = true ∧ tb (h.field 24 1) 1 = true) ∧
    (let s := oneCore {}
     let v : Word := 0x90001000
     Reaches s .jtag (corePg 0 0) ∧ v.getLsbD 31 = true ∧ s.dev.recovering 0 = false ∧ (s.dev.core 0).chain = none ∧
     (s.dev.core 0).dq.all (fun j => j.kind != .imem) = true ∧ (s.dev.core 0).a.atRest = true ∧
     0 < fld v.toNat 0 13 ∧ fld v.toNat 16 12 + fld v.toNat 0 13 ≤ 4096) ∧
    (let j : Job := { kind := .imem, desc := 0, pos := 1, count := 1 }
     let s := oneCore { dq := [j] }
     Running s 0 ∧ (s.dev.core 0).dq = [j] ∧ j.pos = j.count ∧ j.res = 0 ∧ (s.dev.core 0).chain = none) := by
  simp only [Ready, Running, Reaches, CritAgree]; decide +kernel

theorem wit_FetchPreparesSlots :
    (let s := oneCore { a := { st := .running, pc := 4095 }, imemA := [(4095, good 0x8000000000000000)] }
     let c := s.dev.core 0
     Running s 0 ∧ (c.strm .A).st = .running ∧ (c.strm .A).fetched = false ∧ s.dev.stopDue 0 .A = false ∧
     (imemWords c .A 4095).all (fun w => w.valid && !w.value.poison) = true ∧
     (numberSlots 0 [decAccess c (imemNat (imemWords c .A 4095))]).isOk = true) ∧
    (let s := oneCore { x := { st := .running, pc := 4096 } }
     Running s 0 ∧ ((s.dev.core 0).strm .X).st = .running ∧ 4096 ≤ ((s.dev.core 0).strm .X).pc) ∧
    (let s := oneCore { x := { st := .running, pc := 4095 } }
     Running s 0 ∧ (imemWords (s.dev.core 0) .X 4095).any (fun w => !w.valid) = true) := by
  simp only [Running]; decide +kernel

theorem wit_StreamCommandsAct :
    (let s := oneCore {}
     Reaches s .jtag (corePg 0 0) ∧ (s.dev.core 0).retired = false ∧ s.dev.recovering 0 = false ∧
     (s.dev.core 0).chain = none ∧ ((s.dev.core 0).strm .X).atRest = true ∧ (s.dev.core 0).loading .X = false) ∧
    (let s := part0 [0x100] (oneCore { x := { st := .running, armed := true, part := true } })
     Reaches s (.host .A) (corePg 0 0) ∧ ((s.dev.core 0).strm .X).st = .running ∧ ((s.dev.core 0).strm .X).halting = false ∧
     s.dev.stopDue 0 .X = true ∧ ((s.dev.core 0).strm .X).part = true ∧ ((s.dev.core 0).strm .X).ending = none) ∧
    (let s := oneCore { a := { st := .faulted } }
     Reaches s .jtag (corePg 0 0) ∧ ((s.dev.core 0).strm .A).st = .faulted) := by
  simp only [Reaches, CritAgree]; decide +kernel

theorem wit_StreamsDrainAndStop :
    (let o : VOut := { due := 90, ws := [⟨786424, BitVec.allOnes 64, 5, false⟩] }
     let s := oneCore { x := { st := .draining, target := .faulted }, vOuts := [o] }
     Running s 0 ∧ ((s.dev.core 0).strm .X).st = .draining ∧ (s.dev.core 0).quiet .X = true) ∧
    (let s := oneCore { a := { st := .running, armed := true } }
     Running s 0 ∧ ((s.dev.core 0).strm .A).armed = true ∧ ((s.dev.core 0).strm .A).part = false ∧
     s.dev.regN (ra (corePg 0 0) (0x148 + 0x60 * sidN .A)) ≤ ((s.dev.core 0).strm .A).issued) := by
  simp only [Running]; decide +kernel

/-- A configured tile register, and four arrays whose planes hold its format. -/
def tiled (st : TileState) : Core :=
  { tiles := { st := st, rows := 128, fmt := 4 } :: List.replicate 15 {}
    arrs := List.replicate 4 { p0 := { fmt := some 4 }, p1 := { fmt := some 4 } } }

theorem wit_WeightPlanesLoadAndSwap :
    (let s := atX (.wld 15 0 96 true) (tiled .valid)
     let c := s.dev.core 0
     Ready s 0 .X 0 (.wld 15 0 96 true) ∧ c.arrs.length = 4 ∧ (∀ a, a < 4 → tb 15 a = true → (c.arr a).loading = false) ∧
     (c.tile 0).st = .valid ∧ (arrClass (c.tile 0).fmt).isSome = true ∧ (c.tile 0).fmt ≠ 1 ∧ (c.tile 0).fmt ≠ 2 ∧
     96 % 32 = 0 ∧ 96 + 32 ≤ (c.tile 0).rows) ∧
    (let s := oneCore { arrs := [{}, {}, {}, { loading := true }] }
     Running s 0 ∧ ((s.dev.core 0).arr 3).loading = true) ∧
    (let s := atX (.wsw 15) {}
     Ready s 0 .X 0 (.wsw 15) ∧ ∀ a, a < 4 → tb 15 a = true → ((s.dev.core 0).arr a).loading = false) := by
  simp only [Ready, Running]; decide +kernel

theorem wit_RowsEnterArrays :
    (let s := atX (.mm true 15 0 0 128 true true false 0) (tiled .valid)
     let c := s.dev.core 0
     Ready s 0 .X 0 (.mm true 15 0 0 128 true true false 0) ∧ c.arrs.length = 4 ∧
     (∀ a, a < 4 → c.inputBusy a = false ∧ (c.arr a).loading = false ∧ c.drainNeeds a 128 128 = false ∧
       (c.arr a).swap.act.fmt = some 4) ∧
     arrClass 4 = arrClass (c.tile 0).fmt ∧ (c.tile 0).st = .valid ∧ 0 + 128 ≤ (c.tile 0).rows) ∧
    (let o : Op := .mm false 8 0 0 1 false false true 255
     let s := oneCore { x := { st := .running, fetched := true, slots := [(3, o)], nextPc := 1,
                               reading := [{ arr := 3, reg := 1, weights := false, left := 0 }] } }
     Ready s 0 .X 3 o ∧ (s.dev.core 0).arrs.length = 4 ∧ tb 8 3 = true ∧ (s.dev.core 0).inputBusy 3 = true) := by
  simp only [Ready, Running]; decide +kernel

theorem wit_AccumulatorsUpdate :
    let j : RowJob := { fmt := 4, kh := false, row := {}, plane := { fmt := some 4 }, entry := 255, accum := true }
    let s := oneCore { arrs := [{}, {}, {}, { rows := [j, j] }] }
    Running s 0 ∧ (s.dev.core 0).arrs.length = 4 ∧ ((s.dev.core 0).arr 3).rows = [j, j] ∧ j.entry < 256 := by
  simp only [Running]; decide +kernel

theorem wit_DrainsReadArrays :
    (let o : Op := .drn 15 0 256 false false 0 512 128
     let s := atX o {}
     let c := s.dev.core 0
     Ready s 0 .X 0 o ∧ c.x.goesOn ∧ (∀ a, a < 4 → c.drains.all (fun d => !d.arrays.elem a) = true ∧ (c.arr a).rows = []) ∧
     (drainDests 256 (arraysOf 15).length 0 512 128).all (fun o => !outSp o 128 && !s.dev.inCarve 0 o 128) = true) ∧
    (let o : Op := .drn 1 0 256 true true 0 0 0
     let s := atX o { vq := [{ opc := 1, desc := 0, rowofs := 0, cfe := false, cf := 0, work := 7, pc := 0, drain := true, expect := 256 }] }
     Ready s 0 .X 0 o ∧ (s.dev.core 0).openChain = some (7, 256) ∧ 256 * (arraysOf 1).length ≤ 256) ∧
    (let d : Drain := { arrays := [3], acc := 254, cnt := 2, keep := false, chain := none, dst := 0, rstride := 128, astride := 0, work := 0 }
     let s := oneCore { drains := [d] }
     Running s 0 ∧ (s.dev.core 0).drains[0]? = some d ∧ (s.dev.core 0).spWiping = false ∧ (s.dev.core 0).carveClear = [] ∧
     d.next + 1 < d.cnt ∧ d.cnt ≤ d.next + 256 ∧ (s.dev.core 0).arrs.length = 4 ∧ spUnarmed s.dev 0) ∧
    (let d : Drain := { arrays := [0, 3], acc := 255, cnt := 1, keep := false, chain := some 7, dst := 0, rstride := 0, astride := 0, work := 0 }
     let e : VecEntry := { opc := 1, desc := 0, rowofs := 0, cfe := false, cf := 0, work := 7, pc := 0, drain := true, expect := 2, started := true,
                           d := [1744830464 + 63 * 2 ^ 32, 0, 0, 0, 0, 0, 0, 0] }
     let s := oneCore { drains := [d], vq := [e] }
     let u := oneCore { drains := [d], vq := [{ e with inbox := [[], []] }] }
     Running s 0 ∧ (s.dev.core 0).drains[0]? = some d ∧ d.next < d.cnt ∧ (s.dev.core 0).chainTakes d 7 = true ∧
     (u.dev.core 0).drains[0]? = some d ∧ (u.dev.core 0).chainTakes d 7 = false) := by
  simp only [Ready, Running, spUnarmed, Stream.goesOn]; decide +kernel

theorem wit_TileRegisterOperationsIssue :
    (let s := atX (.tcfg 0x8000 128 10 true) {}
     let c := s.dev.core 0
     Ready s 0 .X 0 (.tcfg 0x8000 128 10 true) ∧ c.x.goesOn ∧ c.tileBusy 0x8000 = false ∧ c.poolAfter 0x8000 128 ≤ 1024) ∧
    (let o : Op := .tcfg 0x8000 0 0 false
     let s := oneCore { x := { st := .running, fetched := true, slots := [(1, o)], nextPc := 1,
                               reading := [{ arr := 0, reg := 15, weights := true, left := 9 }] } }
     Ready s 0 .X 1 o ∧ (s.dev.core 0).x.goesOn ∧ (s.dev.core 0).tileBusy 0x8000 = true) ∧
    (let s := atX (.trel 1) (tiled .valid)
     Ready s 0 .X 0 (.trel 1) ∧ (s.dev.core 0).tileBusy 1 = false) ∧
    (let o : Op := .tmove false 0 0 128 786400 true 63
     let s := atX o (tiled .empty)
     let c := s.dev.core 0
     Ready s 0 .X 0 o ∧ c.tiles.length = 16 ∧ c.tq.length < 4 ∧ 0 + 128 ≤ (c.tile 0).rows ∧ 786400 + 32 ≤ spSize) ∧
    (let o : Op := .tmove true 0 0 128 786400 true 63
     let s := atX o (tiled .valid)
     Ready s 0 .X 0 o ∧ ((s.dev.core 0).tile 0).st ≠ .empty ∧ 0 + 128 ≤ ((s.dev.core 0).tile 0).rows) := by
  simp only [Ready, Running, Stream.goesOn]; decide +kernel

theorem wit_TileTransfersStartAndRetire :
    (let j : TileJob := { store := false, reg := 0, row := 0, cnt := 1, desc := 786400, cfe := true, cf := 63, work := 0, pc := 0 }
     let s := oneCore { tiled .loading with tq := [j], sp := [(98300, good 0x4000000000000000), (98301, good 64)] }
     Running s 0 ∧ (s.dev.core 0).tq = [j] ∧ (s.dev.core 0).spWiping = false ∧ j.started = false ∧ j.desc + 32 ≤ spSize ∧
     (s.dev.core 0).spPoison j.desc 32 = false ∧ (s.dev.core 0).carveClear = [] ∧ (s.dev.core 0).x.frec = none ∧
     ((s.dev.core 0).x.reading.all fun r => r.reg != j.reg) = true ∧
     (let c := s.dev.core 0
      let d := tileDesc (rdBytes c.spRd j.desc 32)
      s.dev.tileFault 0 j d (c.tile 0) = none ∧
      ∀ i ∈ rangeWords (d.touched j.cnt (rowElems (c.tile 0).fmt)), (c.spPeek i).poison = false)) ∧
    (let j : TileJob := { store := true, reg := 0, row := 0, cnt := 1, desc := 0, cfe := true, cf := 63, work := 0, pc := 0, started := true, writes := [⟨786424, BitVec.allOnes 64, 5, false⟩] }
     let s := oneCore { tiled .valid with tq := [j] }
     Running s 0 ∧ (s.dev.core 0).tq = [j] ∧ j.cf < 64 ∧ (s.dev.core 0).spWiping = false ∧ (s.dev.core 0).carveClear = [] ∧
     spUnarmed s.dev 0) ∧
    (let j : TileJob := { store := false, reg := 15, row := 127, cnt := 1, desc := 0, cfe := false, cf := 0, work := 0, pc := 0, started := true, staged := [{}] }
     let s := oneCore { tq := [j] }
     Running s 0 ∧ (s.dev.core 0).tq = [j] ∧ j.staged.length = j.cnt) := by
  simp only [Running, spUnarmed]; decide +kernel

/-- A vector entry at offset 0 of the scratchpad. -/
def vent (opc : Nat) : VecEntry := { opc := opc, desc := 0, rowofs := 0, cfe := true, cf := 63, work := 0, pc := 0 }
/-- A core whose vector queue holds it, with a header word. -/
def vcore (opc : Nat) (h : Nat) : Core := { sp := [(0, good (w64 h))], vq := [vent opc] }

theorem wit_VectorOperationsEnterTheQueue :
    (let s := atX (.vec 1 786368 65535 true 63) { vq := [vent 1] }
     Ready s 0 .X 0 (.vec 1 786368 65535 true 63) ∧ (s.dev.core 0).x.goesOn ∧ (s.dev.core 0).vq.length < 2 ∧
     (s.dev.core 0).spHeld 786368 8 = false) ∧
    (let s := atX (.vec 3 0 0 false 0) { vq := [vent 1, vent 1] }
     Ready s 0 .X 0 (.vec 3 0 0 false 0) ∧ 2 ≤ (s.dev.core 0).vq.length) := by
  simp only [Ready, Running, Stream.goesOn]; decide +kernel

theorem wit_VectorEntriesStartProceedAndEnd :
    (let s := oneCore (vcore 1 1744830464)
     let c := s.dev.core 0
     let h := c.spBytes 0 64
     let ws := descWords 0 (hNrec h)
     Running s 0 ∧ c.vq = [vent 1] ∧ c.spWiping = false ∧ c.carveClear = [] ∧
     c.vAbandoned.all (fun a => (vent 1).work ≤ a.work) = true ∧ c.poisonIn ws = none ∧
     s.dev.chainFault 0 (vent 1) h (ws.map fun i => (c.spPeek i).data) = none ∧
     c.poisonIn (rangeWords (startReads h (recAt 0 (ws.map fun i => (c.spPeek i).data)))) = none) ∧
    (let s := oneCore (vcore 2 67108864)
     let c := s.dev.core 0
     let h := c.vupdHdr (vent 2)
     let ws := descWords 0 (uRoles h).length
     Running s 0 ∧ c.vq = [vent 2] ∧ c.vupdWaits (vent 2) = false ∧ c.poisonIn ws = none ∧
     s.dev.updFault 0 (vent 2) h (ws.map fun i => (c.spPeek i).data) = none) ∧
    (let s := oneCore (vcore 2 4294967296)
     Running s 0 ∧ (s.dev.core 0).vq = [vent 2] ∧ (s.dev.core 0).vupdWaits (vent 2) = true ∧
     (s.dev.core 0).x.st ≠ .draining) ∧
    (let e : VecEntry := { vent 1 with started := true, d := [1744830464, 0, 0, 0, 0, 0, 0, 0], drain := true }
     let s := oneCore { vq := [e] }
     Running s 0 ∧ (s.dev.core 0).vq = [e] ∧ e.groups < hGroups (wordsNat (e.d.take 8)) ∧ e.lacksRows = true) ∧
    (let e : VecEntry := { vent 1 with started := true, d := [1744830464, 0, 0, 0, 0, 0, 0, 0], drain := true, inbox := [List.replicate 32 0] }
     let o : VOut := { due := 89, ws := [⟨786424, BitVec.allOnes 64, 5, false⟩] }
     let s := oneCore { vq := [e], vOuts := [o] }
     let h := wordsNat (e.d.take 8)
     let g := e.nextGroup
     let u := s.dev.vecFlush 0 (some (e.roomAt h g.2.1 (e.clock + 90)))
     Running s 0 ∧ (s.dev.core 0).vq = [e] ∧ e.groups < hGroups h ∧ hDrain h = true ∧ e.lacksRows = false ∧
     (u.core 0).vOuts = [] ∧ (u.core 0).poisonIn (rangeWords (groupReads h e g.1 g.2.1 g.2.2 (g.1 * hCols h + g.2.1))) = none) ∧
    (let e : VecEntry := { vent 1 with started := true, ended := true }
     let s := oneCore { vq := [e] }
     Running s 0 ∧ (s.dev.core 0).vq = [e] ∧ e.cf < 64 ∧ ((s.dev.core 0).vOuts.all fun o => !o.ovf) = true ∧
     ((s.dev.core 0).vDrains.all fun d => d.chain != some e.work) = true) := by
  simp only [Running]; decide +kernel

theorem wit_UpdateKindsDoTheirWork :
    ∀ k ∈ [0, 1, 2, 3, 5, 6],
      let e : VecEntry := { vent 2 with started := true, d := [w64 (k * 2 ^ 24), 0, 0, 0, 0, 0, 0, 0] }
      let s := oneCore { vq := [e] }
      (s.dev.alive = true ∧ s.dev.clocked 0 = true) ∧ (s.dev.core 0).vq = [e] ∧ (s.dev.core 0).spWiping = false ∧
      (s.dev.core 0).carveClear = [] ∧ hdrKind (wordsNat (e.d.take 8)) = k ∧
      (s.dev.core 0).poisonIn (rangeWords (updReads e (wordsNat (e.d.take 8)))) = none := by
  decide +kernel

theorem wit_SealsLeaveAndRecordsArrive :
    (let e : VecEntry := { vent 2 with started := true, d := [w64 (4 * 2 ^ 24 + 2 ^ 32), 0, 0, 0, 0, 0, 0, 0] }
     let s := oneCore { vq := [e] }
     Running s 0 ∧ (s.dev.core 0).vq = [e] ∧ hdrKind (wordsNat (e.d.take 8)) = 4 ∧ (s.dev.core 0).x.st ≠ .draining ∧
     0 < stepDiff (hdrStep (wordsNat (e.d.take 8))) (s.dev.core 0).updStep.toNat) ∧
    (let e : VecEntry := { vent 2 with started := true, d := [w64 (4 * 2 ^ 24), 0, 0, 0, 0, 0, 0, 0] }
     let s := oneCore { vq := [e] }
     Running s 0 ∧ (s.dev.core 0).vq = [e] ∧ stepDiff (hdrStep (wordsNat (e.d.take 8))) (s.dev.core 0).updStep.toNat ≤ 0) ∧
    (∀ l ∈ [[671], [0, 671]],
     let p : Packet := { cls := .verdictRec, vc := 0, dst := 671, src := 0x420, info := [1, 1, 32, 32], targets := l, named := [0, 671] }
     let s := nets [p] State.reset
     s.dev.alive = true ∧ s.dev.arrivedAt 0 .verdictRec 671 = some p ∧ s.dev.mcWaits 0 671 p = false ∧ Lands s.dev {} 0 671 p ∧
     (s.dev.pod (podOf 671)).off = false ∧ (s.dev.pod (podOf 671)).gated = false) := by
  simp only [Running, Lands]; decide +kernel

theorem wit_LossScaleStateFollowsItsMessages :
    (let p : Packet := { cls := .notice, vc := 0, dst := 0x420, src := 0, info := [1] }
     let s := nets [p] (part0 [0x100] State.reset)
     s.dev.alive = true ∧ s.dev.arrived 0 .notice = some p ∧ Lands s.dev {} 0 p.dst p ∧ s.dev.corePart p.src < 12 ∧
     CritAgree s.dev (lsKeys (s.dev.corePart p.src)) ∧
     lget 0 p.info 0 % 2 ^ 32 = s.dev.lsOpen 0 ∧ (s.dev.part 0).sealing = false) ∧
    (let p : Packet := { cls := .notice, vc := 0, dst := 0x420, src := 0, info := [2] }
     let s := nets [p] (part0 [0x100] State.reset)
     s.dev.arrived 0 .notice = some p ∧ Lands s.dev { ces := [0] } 0 p.dst p ∧ lget 0 p.info 0 % 2 ^ 32 ≠ s.dev.lsOpen 0) ∧
    (let p : Packet := { cls := .seal, vc := 0, dst := 0x420, src := 0, info := [1] }
     let s := nets [p] (regs [(ra (lsPg 0) 0x100, 0), (ra (lsPg 0) 0x140, 1)] (part0 [0x100] State.reset))
     s.dev.arrived 0 .seal = some p ∧ Lands s.dev {} 0 p.dst p ∧ s.dev.corePart 0 = 0 ∧ CritAgree s.dev (lsKeys 0) ∧
     s.dev.isParticipant 0 0 = true ∧ lget 0 p.info 0 % 2 ^ 32 = s.dev.lsOpen 0 ∧ (s.dev.part 0).seals.elem 0 = false ∧
     ((s.dev.coresOf 0).all fun m => !s.dev.isParticipant 0 m || m == 0 || (s.dev.part 0).seals.elem m) = true ∧
     tb (s.dev.regN (ra (lsPg 0) 0x100)) 17 = false) ∧
    (let p : Packet := { cls := .seal, vc := 0, dst := 0x420, src := 0, info := [1] }
     let s := nets [p] (regs [(ra (lsPg 0) 0x140, 3)] (part0 [0x100] State.reset))
     s.dev.isParticipant 0 0 = true ∧
     ((s.dev.coresOf 0).any fun m => s.dev.isParticipant 0 m && m != 0 && !(s.dev.part 0).seals.elem m) = true) ∧
    (let s := part0 [0x10] State.reset
     let v : Word := 0x80000020
     Reaches s (.host .A) (lsPg 0) ∧ v.getLsbD 31 = true ∧ s.dev.partRuns 0 = false ∧ s.dev.sealSeen 0 = false ∧
     v.toNat % 64 ≤ 32) := by
  simp only [Reaches, CritAgree, Lands]; decide +kernel

theorem wit_ScratchpadMaintainsItself :
    Reaches (oneCore {}) .jtag (corePg 0 1) ∧
    (let s := oneCore { spWiping := true }
     Running s 0 ∧ (s.dev.core 0).spWiping = true) ∧
    (let s := oneCore {}
     Running s 0 ∧ tb (s.dev.regN (ra (corePg 0 1) 0x210)) 16 = true) ∧
    (let s := oneCore { spWb := [(98303, good 5)] }
     Running s 0 ∧ (s.dev.core 0).spWb = [(98303, good 5)] ∧
     (s.dev.core 0).spWb.find? (fun q => spBank q.1 == spBank 98303) = some (98303, good 5)) := by
  simp only [Running, Reaches, CritAgree]; decide +kernel

theorem wit_CarveWritesAreJudged :
    (let s := oneCore {}
     Reaches s .jtag (corePg 0 1) ∧ s.dev.locked (corePg 0 1) = false ∧ (s.dev.core 0).carveClear = [] ∧
     carveJudge (s.dev.core 0) 0 = 0) ∧
    (let s := oneCore { x := { st := .running } }
     Reaches s .jtag (corePg 0 1) ∧ carveJudge (s.dev.core 0) 0 ≠ 0) ∧
    (let s := oneCore { carveClear := [(0, 16384)] }
     Reaches s .jtag (corePg 0 1) ∧ (s.dev.core 0).carveClear ≠ [] ∧ Running s 0 ∧ (s.dev.core 0).carveWait = []) ∧
    (let s : State := { dev := { locks := [(corePg 0 1, true)] } }
     Reaches s .jtag (corePg 0 1) ∧ s.dev.locked (corePg 0 1) = true) := by
  simp only [Running, Reaches, CritAgree]; decide +kernel

/-- A job of a kind with its descriptor at offset 0. -/
def job (k : JKind) : Job := { kind := k, desc := 0, cfe := true, cf := 63 }

theorem wit_MovementInstructionsEnterTheirQueue :
    (let o : Op := .dma true 786368 (-32) 32 true 63
     let s := atA o { dq := List.replicate 7 (job .dma) }
     Ready s 0 .A 0 o ∧ ((s.dev.core 0).dq.filter fun j => j.kind != .imem).length < 8 ∧ 786368 + 64 ≤ spSize ∧
     s.dev.inCarve 0 786368 64 = false) ∧
    (let o : Op := .dma false 0 0 0 false 0
     let s := atA o { dq := List.replicate 8 (job .dma) }
     Ready s 0 .A 0 o ∧ 8 ≤ ((s.dev.core 0).dq.filter fun j => j.kind != .imem).length) ∧
    (let o : Op := .gather true 1 786368 4 true 63
     let s := atA o { g1 := [job .gat] }
     Ready s 0 .A 0 o ∧ (s.dev.core 0).g1.length < 2 ∧ s.dev.inCarve 0 786368 64 = false) ∧
    (let o : Op := .gather false 0 0 0 false 0
     let s := atA o { g0 := [job .gat, job .sct] }
     Ready s 0 .A 0 o ∧ 2 ≤ (s.dev.core 0).g0.length) := by
  simp only [Ready, Running]; decide +kernel

theorem wit_MoversEndTheirHead :
    (let j : Job := { job .dma with active := true, pos := 70000 }
     let s := oneCore { dq := [j] }
     Running s 0 ∧ (s.dev.core 0).dq = [j] ∧ j.total ≤ j.pos ∧ j.cf < 64) ∧
    (let j : Job := { job .gat with active := true }
     let s := oneCore { g1 := [j] }
     Running s 0 ∧ (s.dev.core 0).g1 = [j] ∧ j.total ≤ j.pos) ∧
    Reaches (oneCore {}) .jtag (corePg 671 3) := by
  simp only [Running, Reaches, CritAgree]; decide +kernel

/-- `NextAccess` by evaluation. -/
def nextB (c : Core) (eng : Nat) (k : Job) (w : Nat × Nat) (a len : Nat) : Bool :=
  decide (c.headJob eng = some k ∧ k.active = true ∧ k.wait = .none ∧ k.res = 0 ∧ k.pos < k.total ∧
    ∀ x ∈ k.needs, c.asked eng x = false ∧ x.1 = w.1 ∧ a ≤ x.2 ∧ x.2 < a + len) &&
  match k.needs with
  | x :: l => decide (x = w ∧ readSpan (x :: l) x = (a, len))
  | [] => false

theorem nextAccess_iff (c : Core) (eng : Nat) (k : Job) (w : Nat × Nat) (a len : Nat) :
    NextAccess c eng k w a len ↔ nextB c eng k w a len = true := by
  unfold NextAccess nextB
  cases h : k.needs with
  | nil => simp
  | cons x l =>
    have : (∃ r, x :: l = w :: r ∧ readSpan (w :: r) w = (a, len)) ↔ x = w ∧ readSpan (x :: l) x = (a, len) := by
      constructor
      · rintro ⟨r, hr, hs⟩; cases hr; exact ⟨rfl, hs⟩
      · rintro ⟨rfl, hs⟩; exact ⟨l, rfl, hs⟩
    rw [this, Bool.and_eq_true, decide_eq_true_iff, decide_eq_true_iff]
    tauto

/-- `ReadsFar` by evaluation. -/
def farB (u : Dev) (n eng : Nat) (k : Job) (m addr len : Nat) (info : List Nat) (tag : Nat) : Bool :=
  match k.needs with
  | w :: l =>
    let a := (readSpan (w :: l) w).1
    nextB (u.core n) eng k w a len && decide (m ≠ n ∧
      u.reachEp n (u.resolve n w.1 a false) = some (m, addr, info) ∧
      u.cacheable n w.1 (u.globalOf n a) k (u.resolve n w.1 a false) = false ∧
      (u.core n).slotHold n (bankKey m addr info) = none ∧ (u.core n).freeTag = some tag)
  | [] => false

theorem readsFar_iff (u : Dev) (n eng : Nat) (k : Job) (m addr len : Nat) (info : List Nat) (tag : Nat) :
    ReadsFar u n eng k m addr len info tag ↔ farB u n eng k m addr len info tag = true := by
  unfold ReadsFar farB
  cases h : k.needs with
  | nil =>
    constructor
    · rintro ⟨w, a, ⟨-, -, -, -, -, -, l, hl, -⟩, -⟩; rw [h] at hl; cases hl
    · simp
  | cons w l =>
    simp only [Bool.and_eq_true, decide_eq_true_iff, ← nextAccess_iff]
    constructor
    · rintro ⟨v, a, ⟨h1, h2, h3, h4, h5, h6, r, hr, hs⟩, h7⟩
      rw [h] at hr; cases hr; rw [hs]
      exact ⟨⟨h1, h2, h3, h4, h5, h6, l, h, hs⟩, h7⟩
    · rintro ⟨ha, hb⟩; exact ⟨w, _, ha, hb⟩

theorem wit_MoversStartTheirHead :
    (let j := job .dma
     let s := part0 [0x100, 0x104] (oneCore { dq := [j], sp := [(0, good 0x100000), (7, good 0x800000000000)] })
     let c := s.dev.core 0
     let d := (wordsAt 0 64).map fun i => (c.spPeek i).data
     let k : Job := { j with active := true, d := d, conv := s.dev.convNow 0 none }
     Running s 0 ∧ c.headJob 0 = some j ∧ c.spHeld 0 64 = false ∧ s.dev.descFault 0 0 64 = none ∧
     (∀ i ∈ wordsAt 0 64, (mget noWord c.sp i).find = .clean) ∧ tb (wordsNat d) 505 = false ∧
     ReadsFar (s.dev.modJob 0 0 fun _ => k) 0 0 k 1 (spadAddr 1 0) 64 [] 0) ∧
    (let j := job .dma
     let s := part0 [0x100, 0x104] (oneCore { dq := [j], sp := [(7, good 0x1000000000000)] })
     let c := s.dev.core 0
     let k : Job := { j with active := true, d := (wordsAt 0 64).map fun i => (c.spPeek i).data, conv := s.dev.convNow 0 none }
     let u := s.dev.modJob 0 0 fun _ => k
     NextAccess (u.core 0) 0 k (2, 0) 0 64 ∧ u.resolve 0 2 0 false = .walk 0 ∧
     (let e : XlEntry := { glb := false, base := 0, size := 2 ^ 21, addr := vaultAddr 0 0, write := true, nospec := false }
      let s1 : State := { s with dev := s.dev.modCore 0 fun c => { c with xl := [e] } }
      let u1 := s1.dev.modJob 0 0 fun _ => k
      NextAccess (u1.core 0) 0 k (2, 0) 0 64 ∧ u1.resolve 0 2 0 false = .at_ (.vault 0 0) ∧ s1.dev.vaultGate 0 0 = .ok ∧
      (s1.dev.core 0).slotHold 0 (some (0, bankOf 0)) = none)) ∧
    (let j := job .gat
     let s := part0 [0x100, 0x104] (oneCore { g1 := [j] })
     let c := s.dev.core 0
     Running s 0 ∧ c.headJob 2 = some j ∧ c.spHeld 0 64 = false ∧ s.dev.descFault 0 0 64 = none ∧
     fld (s.dev.regN (ra (corePg 0 1) 0x200)) 16 2 ≠ 0 ∧ (∀ i ∈ wordsAt 0 64, (mget noWord c.sp i).find = .clean) ∧
     tb (wordsNat ((wordsAt 0 64).map fun i => (c.spPeek i).data)) 37 = false ∧
     fld (wordsNat ((wordsAt 0 64).map fun i => (c.spPeek i).data)) 20 17 = 0) ∧
    (let j := job .gat
     let s := part0 [0x100, 0x104] (oneCore { g1 := [j], sp := [(0, good 0x100040), (1, good 0x100000), (2, good 0x1000000)] })
     let c := s.dev.core 0
     let d := (wordsAt 0 64).map fun i => (c.spPeek i).data
     let k : Job := { j with active := true, d := d, count := fld (wordsNat d) 20 17, conv := s.dev.convNow 0 none, staged := [(0, 64, c.spPeek 8)] }
     k.count = 1 ∧ { k with staged := [] }.needs = [(0, 64)] ∧ s.dev.inCarve 0 64 8 = false ∧ c.spHeld 64 8 = false ∧
     (mget noWord c.sp 8).find = .clean ∧ ReadsFar (s.dev.modJob 0 2 fun _ => k) 0 2 k 1 (spadAddr 1 0) 64 [] 0) := by
  simp only [Running, readsFar_iff, nextAccess_iff]; decide +kernel

/-- A vault with a page table at its foot that maps address 0 to the 2 MiB page at an address. -/
def tables (page : Nat) : Vault := { mem := [(0, good 0x1001), (512, good 0x2001), (1024, good (w64 (page + 3)))] }

/-- A copy of the page that such a table maps. -/
def pageAt (addr : Nat) : XlEntry := { glb := false, base := 0, size := 2 ^ 21, addr := addr, write := false, nospec := false }

/-- A movement from virtual address 0, under way. -/
def mover : Job := { job .dma with active := true, d := [0, 0, 0, 0, 0, 0, 0, 0x1000000000000] }

/-- A movement over many pages. -/
def longMover : Job := { mover with d := [0, 0x2000000000000, 0x1000000000000, 0, 0, 0x10000, 0, 0x5000000000000] }

theorem wit_WalksAnswerWhoWaits :
    (let j : Job := { mover with wait := .walk 0 false }
     let s := part0 [0x100, 0x104] (oneCore { dq := [j], vault := tables 0x8000000 })
     let k : Job := { j with wait := .none }
     let s1 := (s.dev.walk 0 0 none).2
     s.dev.alive = true ∧ s.dev.clocked 0 = true ∧ (s.dev.core 0).walker = some (0, 0, false) ∧ (s.dev.core 0).headJob 0 = some j ∧
     0 % 2 ^ 48 % s.dev.window (s.dev.corePart 0) = 0 ∧ (s.dev.walk 0 0 none).1 = .page (pageAt 0x8000000) ∧
     ReadsFar ((s1.modCore 0 fun c => { c with xl := xlPut c.xl (pageAt 0x8000000) }).modJob 0 0 fun _ => k) 0 0 k
       1 (vaultAddr 1 0) 64 [] 0) ∧
    (let j : Job := { mover with wait := .walk 0 false }
     let s := part0 [0x100, 0x104] (oneCore { dq := [j], a := { st := .running } })
     (s.dev.core 0).walker = some (0, 0, false) ∧ (s.dev.core 0).headJob 0 = some j ∧ (s.dev.walk 0 0 none).1 = .unmapped 0 false ∧
     (s.dev.core 0).a.st = .running ∧ (s.dev.core 0).a.part = false) ∧
    (let w : BWalk := { ofs := 8, va := 8, len := 4, write := false, data := [] }
     let s := part0 [0x100] { dev := { cores := [(0, { vault := tables 0x200000 })], portA := { walks := [w] } } }
     (s.dev.port .A).walks = [w] ∧ fld (s.dev.aperture .A 8) 24 4 = 0 ∧ (s.dev.walk 0 8 none).1 = .page (pageAt 0x200000) ∧
     s.dev.physTarget 0 0x200008 4 = some (0, 0x200008, false) ∧
     lowTags (s.dev.port .A).tags (pieces256 0x200008 4).length = some [0]) ∧
    (let w : BWalk := { ofs := 8, va := 8, len := 4, write := false, data := [] }
     let s := part0 [0x100] { dev := { portA := { walks := [w] } } }
     (s.dev.port .A).walks = [w] ∧ (s.dev.walk 0 8 none).1 = .unmapped 0 false) := by
  simp only [readsFar_iff]; decide +kernel

theorem wit_RunAheadFetchesNeverFault :
    (let s := part0 [0x100] (regs [(ra (pctlPg 0) 0x108, 40)] (oneCore { dq := [longMover], vault := tables 0x200000 }))
     Running s 0 ∧ s.dev.corePart 0 < 12 ∧ s.dev.onStream 0 false 0x20000 = true ∧
     xlFind (s.dev.core 0).xl false 0x20000 = none ∧ (s.dev.walk 0 0x20000 none).1 = .page (pageAt 0x200000) ∧
     s.dev.onStream 0 false 0x10000000 = false) ∧
    (let s := part0 [0x100] (regs [(ra (pctlPg 0) 0x108, 40)] (oneCore { dq := [longMover] }))
     s.dev.onStream 0 false 0x20000 = true ∧ (s.dev.walk 0 0x20000 none).1 = .unmapped 0 false) ∧
    (let j : Job := { longMover with d := [0, 0x2000000000000, 0x20000000000000, 0, 0, 0x200000, 0, 0x7800000000000] }
     let s := regs [(ra botPg 0x140, 0), (ra botPg 0x144, 3)] (part0 [0x100] (oneCore { dq := [j] }))
     Running s 0 ∧ (s.dev.botRange 0).2 ≠ 0 ∧ s.dev.onStream 0 true (s.dev.globalOf 0 0x200000) = true ∧
     s.dev.onStream 0 true (s.dev.globalOf 0 0) = false ∧
     xlFind (s.dev.core 0).xl true (s.dev.globalOf 0 0x200000) = none ∧ (s.dev.core 0).reqs = [] ∧ (s.dev.core 0).freeTag = some 0) ∧
    (let x : XlEntry := { glb := true, base := 0, size := 2 ^ 21, addr := 0, write := false, nospec := false, entry := w64 (1 + 0x10000000) }
     let s := regs [(ra botPg 0x140, 0), (ra botPg 0x144, 3), (ra (corePg 0 1) 0x200, 0x120101)]
       (part0 [0x100, 0x104] (oneCore { xl := [x], frcNext := [1] }))
     Running s 0 ∧ (s.dev.botRange 0).2 ≠ 0 ∧ xlFind (s.dev.core 0).xl true (s.dev.globalOf 0 256) = some x ∧
     (s.dev.core 0).frcNext.elem (s.dev.globalOf 0 256 / 256) = true ∧ s.dev.frcLines 0 ≠ 0 ∧
     s.dev.reachEp 0 (s.dev.resolve 0 3 256 false) = some (1, vaultAddr 1 256, []) ∧
     (s.dev.core 0).askHold 0 1 (vaultAddr 1 256) [] = none ∧ (s.dev.core 0).freeTag = some 0) := by
  simp only [Running]; decide +kernel

theorem wit_BlockOwnerTableAnswersAndCommits :
    (let p : Packet := { cls := .lookup, vc := 1, dst := 0x422, src := 671, addr := 131071, tag := 255 }
     let s := nets [p] State.reset
     s.dev.arrived 0 .lookup = some p ∧ Lands s.dev {} 0 p.dst p ∧ p.dst = epBot 1 ∧ s.dev.power.spineOff.getLsbD 2 = false) ∧
    (let s := regs [(ra botPg 0x100, 0), (ra botPg 0x144, 1)] (part0 [0x100] State.reset)
     Reaches s (.host .A) botPg ∧ s.dev.botTarget .A = .ok 0) ∧
    (let s := regs [(ra botPg 0x100, 1), (ra botPg 0x144, 1)] (part0 [0x100] State.reset)
     Reaches s (.host .A) botPg ∧ s.dev.botTarget .A = .error 2) ∧
    (let s := part0 [0x100] { State.reset with dev := { shoot := some (0, [0]) } }
     Reaches s (.host .A) botPg ∧ s.dev.botTarget .A = .error 3 ∧ s.dev.net = []) ∧
    (let s := part0 [0x100] { State.reset with dev := { net := [{ cls := .mcAck, vc := 2, dst := 0x421, src := 0 }] } }
     (s.dev.net.any fun p => (p.cls == .mcWr && p.src == epBot 0) || (p.cls == .mcAck && p.dst == epBot 0)) = true) := by
  simp only [Reaches, CritAgree, Lands]; decide +kernel

/-- A read request from core 671 to core 0. -/
def rdPkt (addr len : Nat) : Packet := { cls := .rdReq, vc := 1, dst := 0, src := 671, tag := 255, addr := addr, len := len }

theorem wit_ReadRequestsAreServed :
    (let s := nets [rdPkt (spadAddr 0 786400) 32] State.reset
     s.dev.alive = true ∧ s.dev.arrived 0 .rdReq = some (rdPkt (spadAddr 0 786400) 32) ∧
     Lands s.dev {} 0 0 (rdPkt (spadAddr 0 786400) 32) ∧ s.dev.podGone 0 = false ∧
     s.dev.door 0 (spadAddr 0 786400) 32 none = .spad 786400 ∧
     upsetLost { lost := some 83 } ((rdPkt (spadAddr 0 786400) 32).way 0) = some 83) ∧
    (let s := nets [rdPkt (vaultAddr 0 0x5FFFFC0) 64] State.reset
     s.dev.arrived 0 .rdReq = some (rdPkt (vaultAddr 0 0x5FFFFC0) 64) ∧ Lands s.dev {} 0 0 (rdPkt (vaultAddr 0 0x5FFFFC0) 64) ∧
     s.dev.door 0 (vaultAddr 0 0x5FFFFC0) 64 none = .vault 0x5FFFFC0 ∧ (s.dev.core 0).intakeRoom 0x5FFFFC0 = true) ∧
    (let a : VAcc := { who := .remote 1 0 0, off := 0x40, kind := 0, gaddr := 0, raw := [] }
     let s : State := { dev := { net := [rdPkt (vaultAddr 0 0) 32], cores := [(0, { vault := { pend := List.replicate 16 a } })] } }
     s.dev.arrived 0 .rdReq = some (rdPkt (vaultAddr 0 0) 32) ∧ Lands s.dev {} 0 0 (rdPkt (vaultAddr 0 0) 32) ∧
     s.dev.door 0 (vaultAddr 0 0) 32 none = .vault 0 ∧ (s.dev.core 0).intakeRoom 0 = false) ∧
    (let s := nets [rdPkt (vaultAddr 0 0x6000000) 32] State.reset
     s.dev.arrived 0 .rdReq = some (rdPkt (vaultAddr 0 0x6000000) 32) ∧ s.dev.door 0 (vaultAddr 0 0x6000000) 32 none = .absent) ∧
    (let s := regs [(ra (corePg 0 1) 0x200, 0x20101)] (nets [rdPkt (spadAddr 0 753664) 32] State.reset)
     s.dev.arrived 0 .rdReq = some (rdPkt (spadAddr 0 753664) 32) ∧ s.dev.door 0 (spadAddr 0 753664) 32 none = .refused false) ∧
    (let s : State := { dev := { net := [rdPkt (vaultAddr 0 0) 32], podz := [(0, { gated := true })] } }
     s.dev.arrived 0 .rdReq = some (rdPkt (vaultAddr 0 0) 32) ∧ s.dev.podGone 0 = false ∧
     s.dev.door 0 (vaultAddr 0 0) 32 none = .wait) ∧
    (let s : State := { dev := { net := [rdPkt (vaultAddr 0 0) 32], podz := [(0, { off := true })] } }
     s.dev.arrived 0 .rdReq = some (rdPkt (vaultAddr 0 0) 32) ∧ Lands s.dev {} 0 0 (rdPkt (vaultAddr 0 0) 32) ∧ s.dev.podGone 0 = true) := by
  simp only [Lands]; decide +kernel

/-- A write of one word of core 0 from core 671. -/
def wrPkt (rw : Bool) (addr : Nat) (m : DWord) : Packet :=
  { cls := if rw then .rwReq else .wrReq, vc := if rw then 3 else 1, dst := 0, src := 671, tag := 7, addr := addr / 64 * 64,
    len := 64, op := if rw then 3 else 0, mark := true, writes := [⟨addr, m, 5, false⟩] }

theorem wit_WriteRequestsAreServed :
    (let p := wrPkt false (spadAddr 0 786424) (BitVec.allOnes 64)
     let s := nets [p] State.reset
     s.dev.alive = true ∧ s.dev.arrived 0 .wrReq = some p ∧ Lands s.dev {} 0 0 p ∧ s.dev.podGone 0 = false ∧
     localWrites (upsetMark { ues := [(83, 7)] } (p.way 0) p).writes = [⟨786424, BitVec.allOnes 64, 5, true⟩] ∧
     s.dev.door 0 p.addr p.len (some (localWrites p.writes)) = .spad 786424 ∧ spUnarmed s.dev 0) ∧
    (let p := wrPkt true (vaultAddr 0 8) 0xFFFFFFFF
     let s := nets [p] State.reset
     s.dev.arrived 0 .rwReq = some p ∧ Lands s.dev {} 0 0 p ∧
     s.dev.door 0 p.addr p.len (some (localWrites (upsetMark {} (p.way 0) p).writes)) = .vault 8 ∧
     (s.dev.core 0).intakeRoom 8 = true ∧ vUnarmed s.dev 0) ∧
    (let p := wrPkt false (vaultAddr 0 8) 0xFFFFFFFF
     let a : VAcc := { who := .remote 1 0 0, off := 0x40, kind := 0, gaddr := 0, raw := [] }
     let s : State := { dev := { net := [p], cores := [(0, { vault := { pend := List.replicate 16 a } })] } }
     s.dev.arrived 0 .wrReq = some p ∧ Lands s.dev {} 0 0 p ∧
     s.dev.door 0 p.addr p.len (some (localWrites (upsetMark {} (p.way 0) p).writes)) = .vault 8 ∧
     (s.dev.core 0).intakeRoom 8 = false) ∧
    (let p := wrPkt false (spadAddr 0 786432) (BitVec.allOnes 64)
     let s := nets [p] State.reset
     s.dev.arrived 0 .wrReq = some p ∧ s.dev.door 0 p.addr p.len (some (localWrites (upsetMark {} (p.way 0) p).writes)) = .absent) ∧
    (let p := wrPkt true (spadAddr 0 770048) 0xFFFFFFFF
     let s : State := { dev := { net := [p], cores := [(0, { x := { st := .running } })], regs := [(ra (corePg 0 1) 0x200, 0x20001)] } }
     s.dev.arrived 0 .rwReq = some p ∧ s.dev.door 0 p.addr p.len (some (localWrites (upsetMark {} (p.way 0) p).writes)) = .refused true) ∧
    (let p := wrPkt false (vaultAddr 0 0) (BitVec.allOnes 64)
     let s : State := { dev := { net := [p], podz := [(0, { held := true })] } }
     s.dev.arrived 0 .wrReq = some p ∧ Lands s.dev {} 0 0 p ∧ s.dev.podGone 0 = true) := by
  simp only [spUnarmed, vUnarmed, Lands]; decide +kernel

theorem wit_CombiningFlagsAndMulticast :
    (let p := wrPkt true (vaultAddr 0 8) 0xFFFFFFFF
     let q := { p with src := 670 }
     let s := regs [(ra (podPg 0) 0x100, 0)] (nets [p, q] State.reset)
     s.dev.alive = true ∧ s.dev.net[0]? = some p ∧ s.dev.net[1]? = some q ∧ s.dev.mayCombine 0 p q = false) ∧
    (let p := wrPkt true (vaultAddr 0 8) 0xFFFFFFFF
     let q := { p with src := 670 }
     let x := { p with addr := 0, src := 670 }
     let s := regs [(ra (podPg 0) 0x100, 3)] (nets [p, q] State.reset)
     let u := regs [(ra (podPg 0) 0x100, 3)] (nets [p, x, q] State.reset)
     s.dev.mayCombine 0 p q = true ∧ (((s.dev.net.take (max 0 1)).drop (min 0 1 + 1)).all fun x => !x.ahead q q.dst) = true ∧
     u.dev.mayCombine 0 p q = true ∧ (((u.dev.net.take (max 0 2)).drop (min 0 2 + 1)).all fun x => !x.ahead q q.dst) = false) ∧
    (let p : Packet := { cls := .flagOp, vc := 1, dst := 671, src := 0, addr := 63, op := 0 }
     let s := nets [p] State.reset
     s.dev.arrived 0 .flagOp = some p ∧ Lands s.dev {} 0 p.dst p ∧ s.dev.podGone (podOf 671) = false ∧
     (s.dev.pod (podOf 671)).gated = false) ∧
    (let p : Packet := { cls := .mcWr, vc := 3, dst := 0, src := 0x421, op := 1, info := [3], targets := [5, 671], named := [5, 671] }
     let s := nets [p] State.reset
     s.dev.arrivedAt 0 .mcWr 671 = some p ∧ s.dev.mcWaits 0 671 p = false ∧ Lands s.dev {} 0 671 p ∧
     s.dev.podGone (podOf 671) = false ∧ (s.dev.pod (podOf 671)).gated = false) ∧
    (let p : Packet := { cls := .mcWr, vc := 3, dst := 0, src := 0x421, op := 1, info := [3], targets := [0], named := [0] }
     let s : State := { dev := { net := [p], podz := [(0, { off := true })] } }
     s.dev.arrivedAt 0 .mcWr 0 = some p ∧ s.dev.mcWaits 0 0 p = false ∧ Lands s.dev {} 0 0 p ∧ s.dev.podGone (podOf 0) = true) ∧
    (let p : Packet := { wrPkt false (spadAddr 5 0) (BitVec.allOnes 64) with cls := .mcWr, vc := 3, targets := [5], named := [5], mark := false }
     let s := nets [p] State.reset
     s.dev.arrivedAt 0 .mcWr 5 = some p ∧ s.dev.mcWaits 0 5 p = false ∧ Lands s.dev {} 0 5 p ∧
     s.dev.door 5 p.addr p.len (some (localWrites (upsetMark {} (p.way 5) p).writes)) = .spad 0 ∧ spUnarmed s.dev 5) ∧
    (let p : Packet := { wrPkt false (vaultAddr 5 0) (BitVec.allOnes 64) with cls := .mcWr, vc := 3, targets := [5], named := [5], mark := false }
     let s := nets [p] State.reset
     s.dev.arrivedAt 0 .mcWr 5 = some p ∧ s.dev.door 5 p.addr p.len (some (localWrites (upsetMark {} (p.way 5) p).writes)) = .vault 0 ∧
     (s.dev.core 5).intakeRoom 0 = true) ∧
    (let p : Packet := { wrPkt false (spadAddr 5 753664) (BitVec.allOnes 64) with cls := .mcWr, vc := 3, targets := [5], named := [5] }
     let s := regs [(ra (corePg 5 1) 0x200, 0x20101)] (nets [p] State.reset)
     s.dev.arrivedAt 0 .mcWr 5 = some p ∧
     s.dev.door 5 p.addr p.len (some (localWrites (upsetMark {} (p.way 5) p).writes)) = .refused false) := by
  simp only [spUnarmed, Lands]; decide +kernel

/-- A response to core 0. -/
def rspPkt (cls : PCls) (data : List PWord) : Packet := { cls := cls, vc := 2, dst := 0, src := 1, tag := 9, data := data }
/-- An outstanding request of core 0. -/
def reqOf (cls : PCls) (eng : Nat) : Req := { tag := 9, cls := cls, eng := eng, dst := 1, addr := 0, len := 64 }
/-- A gather of one element that has its index. -/
def gather1 : Job := { kind := .gat, desc := 0, active := true, count := 1, d := [0x100040, 0x100000, 0x1000000, 0, 0, 0, 0, 0] }

theorem wit_ResponsesEndTheirRequests :
    (let p := { rspPkt .rdRsp [] with epoch := 15 }
     let s := nets [p] State.reset
     s.dev.alive = true ∧ s.dev.arrived 0 .rdRsp = some p ∧ Lands s.dev {} 0 p.dst p ∧ (s.dev.pod (podOf 0)).gated = false ∧
     s.dev.fillHeld 0 p = false ∧ p.epoch ≠ (s.dev.pod (podOf 0)).epoch) ∧
    (let p := rspPkt .rdRsp (List.replicate 8 ⟨0, false⟩)
     let r := { reqOf .rdReq 2 with gaddr := 64 }
     let j := gather1
     let s := nets [p] (part0 [0x100] (oneCore { reqs := [r], g1 := [j] }))
     let h : Job := { j with staged := ((p.data.zip (upFrom 0 8)).map fun q => (0, 64 + 8 * q.2, q.1)) }
     s.dev.arrived 0 .rdRsp = some p ∧ (s.dev.core 0).reqs.find? (fun q => q.tag == p.tag) = some r ∧ s.dev.fillHeld 0 p = false ∧
     (s.dev.core 0).headJob 2 = some j ∧ p.epoch = (s.dev.pod (podOf 0)).epoch ∧
     ReadsFar ((s.dev.closeReq 0 9).modJob 0 2 fun _ => h) 0 2 h 1 (spadAddr 1 0) 64 [] 0) ∧
    (let p := rspPkt .rdRsp [⟨0x1, false⟩]
     let s := nets [p] (oneCore { reqs := [reqOf .lookup 5] })
     let u := nets [p] (oneCore { reqs := [{ reqOf .lookup 5 with stale := true }] })
     s.dev.arrived 0 .rdRsp = some p ∧ (s.dev.core 0).reqs.find? (fun q => q.tag == p.tag) = some (reqOf .lookup 5) ∧
     fld (1#64).toNat 38 6 ≤ 47 ∧ u.dev.arrived 0 .rdRsp = some p ∧
     (u.dev.core 0).reqs.find? (fun q => q.tag == p.tag) = some { reqOf .lookup 5 with stale := true }) ∧
    (let p := rspPkt .wrAck []
     let j : Job := { gather1 with wait := .rsp 9, staged := (0, 64, ⟨0, false⟩) :: (upFrom 0 8).map fun i => (1, 0x100000 + 8 * i, ⟨5, false⟩) }
     let s := nets [p] (part0 [0x100] (oneCore { reqs := [reqOf .wrReq 2], g1 := [j] }))
     s.dev.arrived 0 .wrAck = some p ∧ (s.dev.core 0).headJob 2 = some j ∧ j.wait = .rsp 9 ∧ j.res = 0 ∧ j.needs = [] ∧
     j.items.length = 1 ∧ j.wdone = 0 ∧ j.total = j.pos + 1) ∧
    (let p := rspPkt .flagAck []
     let s := nets [p] (oneCore { reqs := [reqOf .flagOp 3] })
     s.dev.arrived 0 .flagAck = some p ∧ (s.dev.core 0).reqs.find? (fun q => q.tag == p.tag) = some (reqOf .flagOp 3)) ∧
    (let p := { rspPkt .err [] with code := 2 }
     let s := nets [p] (oneCore { a := { st := .running }, reqs := [reqOf .rdReq 0], dq := [mover] })
     s.dev.arrived 0 .err = some p ∧ (s.dev.core 0).reqs.find? (fun q => q.tag == p.tag) = some (reqOf .rdReq 0) ∧
     (s.dev.core 0).headJob 0 = some mover ∧ mover.kind ≠ .imem ∧ (s.dev.core 0).a.st = .running ∧ (s.dev.core 0).a.part = false) ∧
    (let p := rspPkt .err []
     let s := nets [p] (oneCore { x := { st := .running }, reqs := [reqOf .flagOp 3] })
     s.dev.arrived 0 .err = some p ∧ (s.dev.core 0).reqs.find? (fun q => q.tag == p.tag) = some (reqOf .flagOp 3) ∧
     ((s.dev.core 0).strm .X).st = .running ∧ ((s.dev.core 0).strm .X).part = false) := by
  simp only [readsFar_iff, Lands]; decide +kernel

theorem wit_RequestTimersExpire :
    (∀ k ∈ [PCls.rdReq, PCls.lookup],
     let j : Job := { mover with wait := if k = .lookup then .lookup 9 else .none }
     let s := part0 [0x100] (regs [(ra (pctlPg 0) 0x208, 4)] (oneCore { reqs := [reqOf k 0], dq := [j] }))
     s.dev.alive = true ∧ (s.dev.core 0).reqs.find? (fun q => q.tag == 9) = some (reqOf k 0) ∧
     tb (s.dev.regN (ra (pctlPg (s.dev.corePart 0)) 0x208)) 2 = true ∧ (s.dev.core 0).freeTag = some 0 ∧
     (s.dev.core 0).slotHold 0 (reqOf k 0).bank = none ∧ (s.dev.core 0).headJob 0 = some j ∧
     (s.dev.core 0).awaits (reqOf k 0) = (k == .lookup)) ∧
    (let s := part0 [0x100] (oneCore { reqs := [{ reqOf .rdReq 0 with reissued := true }], dq := [mover], a := { st := .running } })
     (s.dev.core 0).reqs.find? (fun q => q.tag == 9) = some { reqOf .rdReq 0 with reissued := true } ∧
     (s.dev.core 0).headJob 0 = some mover ∧ (s.dev.core 0).a.st = .running ∧ (s.dev.core 0).a.part = false) := by
  simp only [List.forall_mem_cons]; decide +kernel

/-- A read that a vault has accepted. -/
def accOf (who : VWho) : VAcc := { who := who, off := 0x5FFFFC0, kind := 0, gaddr := 64, raw := [good 0] }

/-- Core 0 in partition 0, with port B up. -/
def withB (c : Core) : State := part0 [0x100] { dev := { cores := [(0, c)], portB := { up := true } } }

theorem wit_VaultsCompleteTheirAccesses :
    (let a := accOf (.remote 671 15 255)
     let s := oneCore { vault := { pend := [{ a with off := 0 }, a] } }
     s.dev.alive = true ∧ (s.dev.pod (podOf 0)).gated = false ∧ (s.dev.pod (podOf 0)).off = false ∧
     (s.dev.core 0).vault.pend[1]? = some a ∧ (s.dev.core 0).vault.serves 1 a = true ∧ (∀ w ∈ a.raw, w.find = .clean)) ∧
    (let a := accOf (.remote 671 15 255)
     let s := oneCore { vault := { pend := [a, { a with who := .remote 3 0 0 }] } }
     (s.dev.core 0).vault.pend[1]? = some { a with who := .remote 3 0 0 } ∧
     (s.dev.core 0).vault.serves 1 { a with who := .remote 3 0 0 } = false) ∧
    (let a := { accOf (.local 2) with raw := List.replicate 8 (good 0) }
     let j := gather1
     let s := part0 [0x100] (oneCore { vault := { pend := [a] }, g1 := [j] })
     let h : Job := { j with staged := (((a.raw.map MWord.value).zip (upFrom 0 8)).map fun q => (0, 64 + 8 * q.2, q.1)) }
     (s.dev.core 0).vault.pend[0]? = some a ∧ (s.dev.core 0).vault.serves 0 a = true ∧ (s.dev.core 0).headJob 2 = some j ∧
     ReadsFar ((s.dev.modVault 0 fun v => v.served 0 a).modJob 0 2 fun _ => h) 0 2 h 1 (spadAddr 1 0) 64 [] 0) ∧
    (let s := oneCore { vault := { wb := [(0xBFFFFF, good 7)] } }
     (s.dev.core 0).vault.wb = [(0xBFFFFF, good 7)] ∧
     (s.dev.core 0).vault.wb.find? (fun q => bankOf (8 * q.1) == bankOf (8 * 0xBFFFFF)) = some (0xBFFFFF, good 7)) ∧
    ((oneCore {}).dev.power.tierOff.getLsbD (2 * quarterOf 0 + 63 / 32) = false ∧
     ({ dev := { power := { tierOff := 2 } } } : State).dev.power.tierOff.getLsbD (2 * quarterOf 0 + 63 / 32) = true) := by
  simp only [readsFar_iff]; decide +kernel

theorem wit_VaultsAreScrubbedAndCounted :
    (let s : State := { dev := { cores := [(0, { vault := { scrubPos := 393214 } })], regs := [(ra (vqPg 0) 0x180, 0x80000000)] } }
     s.dev.alive = true ∧ (s.dev.pod (podOf 0)).gated = false ∧ (s.dev.pod (podOf 0)).off = false ∧
     tb (s.dev.regN (ra (vqPg (quarterOf 0)) 0x180)) 31 = true ∧ (s.dev.core 0).vault.scrubAt 393214 = 393214 ∧
     393214 + 1 < vaultUnits ∧ s.dev.power.tierOff.getLsbD (qtOf 0 (256 * 393214)) = false ∧
     s.dev.power.clearing.getLsbD (qtOf 0 (256 * 393214)) = false ∧
     (∀ w ∈ upFrom (32 * 393214) 32, (mget noWord (s.dev.core 0).vault.mem w).find = .clean)) ∧
    (Reaches (oneCore {}) .jtag (vqPg 3) ∧ (oneCore {}).dev.windowDenied .jtag ((oneCore {}).dev.windowCore .jtag 3) = false) ∧
    (Reaches (withB {}) (.host .B) (vqPg 0) ∧ (withB {}).dev.windowCore (.host .B) 0 = 0 ∧
     (withB {}).dev.windowDenied (.host .B) 0 = true) := by
  simp only [Reaches, CritAgree]; decide +kernel

theorem wit_VaultsAreWipedRetiredAndCleared :
    (let s := oneCore {}
     Reaches s .jtag (vqPg 3) ∧ s.dev.windowCore .jtag 3 = 504 ∧ s.dev.windowDenied .jtag 504 = false ∧
     s.dev.partRuns (s.dev.corePart 504) = false ∧ (s.dev.core 504).vault.wiping = false ∧ (s.dev.core 504).vault.selfRefresh = false) ∧
    (Reaches (withB {}) (.host .B) (vqPg 0) ∧ (withB {}).dev.windowDenied (.host .B) ((withB {}).dev.windowCore (.host .B) 0) = true) ∧
    (let s := oneCore { vault := { wiping := true, retired := 9 } }
     s.dev.alive = true ∧ (s.dev.pod (podOf 0)).gated = false ∧ (s.dev.pod (podOf 0)).off = false ∧
     (s.dev.core 0).vault.wiping = true ∧ (s.dev.core 0).vault.pend = []) ∧
    (let s : State := { dev := { power := { clearing := 0x80 } } }
     s.dev.alive = true ∧ s.dev.power.clearing.getLsbD (2 * 3 + 1) = true) := by
  simp only [Reaches, CritAgree]; decide +kernel

theorem wit_CriticalWordsAreVotedAndRepaired :
    (let s : State := { dev := { crit := [(0, ⟨1, 1, 3⟩), (131072, ⟨2, 3, 3⟩)], regs := [(ra critPg 0x10C, 0x80000000)] } }
     s.dev.alive = true ∧ mwf critDefault s.dev.crit = true ∧ (∀ p ∈ s.dev.crit, p.1 < 4 * 65536) ∧
     tb (s.dev.regN (ra critPg 0x10C)) 31 = true ∧ (s.dev.crit.any fun p => p.2.odd.isSome) = true) ∧
    (let s : State := { dev := { portA := { up := true }, crit := [(131072, ⟨0x80010000, 0x80010000, 0⟩), (131084 + 0x100, ⟨0, 0, 1⟩)] } }
     let a : BitVec 24 := BitVec.ofNat 24 (ra (corePg 0 0) 0x100)
     mwf critDefault s.dev.crit = true ∧ (∀ p ∈ s.dev.crit, p.1 < 4 * 65536) ∧ a.toNat % 4 = 0 ∧ isCounter a.toNat = false ∧
     (s.dev.port .A).up = true ∧ (s.dev.port .A).settled = true ∧ s.dev.visible .A (a.toNat / 4096) = true ∧
     ((s.dev.gateKeys (.host .A) (a.toNat / 4096)).any fun k => (mget critDefault s.dev.crit k).odd.isSome) = true) ∧
    (let s := oneCore {}
     let x : Word := (0xE2000000#32 &&& 0xFF00FFFF#32) ||| (s.dev.reg (ra critPg 0x104) &&& 0x80000000#32)
     Reaches s .jtag critPg ∧ x.getLsbD 31 = true ∧ x.getLsbD 30 = true ∧ fld x.toNat 24 4 = 2 ∧ fld x.toNat 0 16 < critWords 2 ∧
     mwf critDefault s.dev.crit = true) ∧
    (let s : State := { dev := { regs := [(ra critPg 0x104, 0xA3000000), (ra critPg 0x108, 0x10)] } }
     s.dev.regN (ra critPg 0x104) / 2 ^ 30 = 2 ∧ fld (s.dev.regN (ra critPg 0x104)) 24 4 = 3 ∧
     fld (s.dev.regN (ra critPg 0x104)) 28 2 = 2 ∧ fld (s.dev.regN (ra critPg 0x104)) 0 16 = 0) := by
  simp only [Reaches, CritAgree]; decide +kernel

theorem wit_PartitionsAreCreatedAndReleased :
    (let s := regs [(pra .A ptPg 0x104, 0x800000)] (part0 [0x100] State.reset)
     let v : Word := 0x1BB10000
     Reaches s (.host .A) ptPg ∧ s.dev.ptJudge .A v.toNat = (0, 0) ∧ s.dev.power.tierOff = 0 ∧ fld v.toNat 28 4 = 1 ∧
     (∀ q, q < 84 → (s.dev.pod q).off = false ∧ (s.dev.pod q).held = false ∧ (s.dev.pod q).recent = false)) ∧
    (let s := part0 [0x100] State.reset
     let v : Word := 0x20000000
     Reaches s (.host .A) ptPg ∧ s.dev.ptJudge .A v.toNat = (0, 0) ∧ fld v.toNat 28 4 = 2 ∧ (s.dev.part 0).hang = none) ∧
    (let s := part0 [0x100] State.reset
     let v : Word := 0x10000000
     Reaches s (.host .A) ptPg ∧ (s.dev.ptJudge .A v.toNat).1 ≠ 0) := by
  simp only [Reaches, CritAgree]; decide +kernel

theorem wit_PortsResetEpochsAndInvalidations :
    (let s := part0 [0x100] State.reset
     s.dev.alive = true ∧ s.dev.proc = none ∧ s.dev.releaseQ = [] ∧ (∀ P, P < 12 → (s.dev.part P).hang = none) ∧
     s.dev.ptPort 0 = .A ∧ s.dev.ptState 0 = 2) ∧
    (let s : State := { dev := { podz := [(83, { held := true, epoch := 15 })] } }
     (s.dev.pod 83).held = true ∧ s.dev.proc = none ∧ s.dev.releaseQ = [] ∧ (s.dev.pod 0).held = false) ∧
    (let s : State := { dev := { podz := [(0, { held := true })], proc := some { op := 1, part := 0 },
                                 crit := [(131072, ⟨0x40010000, 0x40010000, 0x40010000⟩)] } }
     (s.dev.pod 0).held = true ∧ s.dev.proc = some { op := 1, part := 0 } ∧ s.dev.releaseQ = [] ∧
     (∀ q ∈ s.dev.podsOf 0, q ≠ 0 → (s.dev.pod q).held = false)) ∧
    (let s := part0 [0x100] State.reset
     Reaches s .jtag (pctlPg 0) ∧ (0x80000000#32).getLsbD 31 = true ∧ (s.dev.part 0).invRange = none) ∧
    (let s : State := { dev := { partz := [(11, { invRange := some (0, 2 ^ 48) })] } }
     (s.dev.part 11).invRange = some (0, 2 ^ 48)) := by
  simp only [Reaches, CritAgree]; decide +kernel

theorem wit_SharesAreLentAndReturned :
    (let x : Stream := { st := .running, waiting := true, cause := 8, wexpect := true, fetched := true, slots := [(0, .fwait 0 true false)] }
     let s := oneCore { x := x }
     let u := oneCore { x := x, flags := 1 }
     s.dev.alive = true ∧ ((s.dev.core 0).strm .X).st = .running ∧ ((s.dev.core 0).strm .X).waiting = true ∧
     (s.dev.core 0).waitOver .X = false ∧ (u.dev.core 0).waitOver .X = true ∧ ∀ i, (s.dev.core 0).ableToIssue i = false) ∧
    (let s : State := { dev := { cores := [(671, { a := { st := .running, fetched := true, slots := [(0, .nop)] } })], podz := [(83, { lent := 0x80 })] } }
     s.dev.shareLent 671 = true ∧ (s.dev.core 671).ableToIssue .A = true) ∧
    (let s : State := { dev := { podz := [(83, { lent := 0x80, reclaiming := 0x80 })] } }
     (s.dev.pod (podOf 671)).reclaiming.getLsbD (671 % 8) = true) := by
  refine ⟨⟨?_, ?_, ?_, ?_, ?_, fun i => ?_⟩, ?_⟩ <;> (try cases i) <;> decide +kernel

theorem wit_PowerIntervalsHoldTheBudget :
    State.reset.dev.alive = true ∧ ([(0, 7360#16), (95, 0#16)].map (·.1)).Nodup ∧
    ∃ r ∈ [(0, 7360#16), (95, 0#16)], r.1 < 96 ∧ (if r.1 < 88 then 115 * 64 else 105 * 64 : Int) ≤ sfld r.2.toNat 0 16 := by
  decide +kernel

theorem wit_PowerCommandsAct :
    (let s := oneCore {}
     Reaches s .jtag mgmtPg ∧ s.dev.locked mgmtPg = false) ∧
    (let s := regs [(ra mgmtPg 0x600, 0x2)] State.reset
     s.dev.alive = true ∧ s.dev.pinEn 1 = true ∧ s.dev.power.capLow = false) ∧
    (let s := oneCore {}
     Reaches s (.jtag) mgmtPg ∧ domValid 0 83 = true ∧ s.dev.domDenied .jtag 0 83 = false ∧ s.dev.domIsOn 0 83 = true ∧
     s.dev.domIdle 0 83 = true ∧ domValid 3 2 = false) ∧
    (let s := part0 [] (oneCore {})
     Reaches s (.host .A) mgmtPg ∧ s.dev.domDenied (.host .A) 3 0 = false ∧ s.dev.domIsOn 3 0 = true ∧
     s.dev.domIdle 3 0 = false) := by
  simp only [Reaches, CritAgree]; decide +kernel

theorem wit_HangsAreRecovered :
    (let x : Stream := { st := .running, waiting := true, cause := 8, wexpect := true, fetched := true, slots := [(0, .fwait 0 true false)] }
     let s := regs [(ra (pctlPg 0) 0x200, 1), (ra (pctlPg 0) 0x208, 1)] (part0 [0x100] (oneCore { x := x }))
     let u := regs [(ra (pctlPg 0) 0x200, 1), (ra (pctlPg 0) 0x208, 1)] (part0 [0x100] (oneCore { x := x, flags := 1 }))
     s.dev.alive = true ∧ s.dev.wdCounts 0 .X = true ∧ (s.dev.core 0).waitOver .X = false ∧
     tb (s.dev.regN (ra (pctlPg (s.dev.corePart 0)) 0x208)) 0 = true ∧ u.dev.wdCounts 0 .X = true ∧ (u.dev.core 0).waitOver .X = true) ∧
    (let s := regs [(ra (pctlPg 0) 0x200, 1), (ra (pctlPg 0) 0x208, 0)] (part0 [0x100] (oneCore { x := { st := .draining } }))
     s.dev.wdCounts 0 .X = true ∧ (s.dev.core 0).waitOver .X = false ∧
     tb (s.dev.regN (ra (pctlPg (s.dev.corePart 0)) 0x208)) 0 = false ∧
     ((s.dev.core 0).strm .X).frec = none ∧ tb (s.dev.regN (ra (corePg 0 0) 0x600)) 31 = false) ∧
    (let s := regs [(ra (pctlPg 0) 0x208, 0)] (part0 [0x100] { dev := { partz := [(0, { hang := some { trigger := 1 } })] } })
     (s.dev.part 0).hang = some { trigger := 1 } ∧ PodsSettled s 0 ∧ s.dev.proc = none ∧ s.dev.releaseQ = [] ∧
     s.dev.dumps 0 1 = false) ∧
    (let s := regs [(ra (pctlPg 0) 0x208, 2)] (part0 [0x100] { dev := { partz := [(0, { hang := some { trigger := 1 } })] } })
     PodsSettled s 0 ∧ s.dev.dumps 0 1 = true ∧ s.dev.dumpWaits 0 = false ∧ vUnarmed s.dev 55 ∧
     (s.dev.core 55).vault.retired = 0 ∧ s.dev.podGone (podOf 55) = false) ∧
    (let s := oneCore {}
     Reaches s .jtag (pctlPg 11) ∧ s.dev.hangJudge 11 2 ≠ 0) ∧
    (let s := regs [(ra (pctlPg 0) 0x208, 0)] (part0 [0x100] State.reset)
     Reaches s .jtag (pctlPg 0) ∧ s.dev.hangJudge 0 1 = 0 ∧ s.dev.dumps 0 2 = false ∧ s.dev.hangJudge 0 2 = 0 ∧
     s.dev.dumps 0 3 = false ∧ PodsSettled s 0 ∧ s.dev.proc = none) := by
  simp only [Reaches, CritAgree, PodsSettled, vUnarmed]; decide +kernel

/-- The part with one link port as given, in a mode. -/
def port (k mode : Nat) (l : Link) : State :=
  { dev := { links := [(k, l)], regs := [(ra (linkPg k) 0x100, w32 mode)] } }

theorem wit_LinkPortsTrainAndRetrain :
    (let s := port 7 1 { st := .up }
     s.dev.alive = true ∧ Reaches s .jtag (linkPg 7) ∧ s.dev.locked (linkPg 7) = false ∧ (0 : Word).toNat % 4 ≠ s.dev.linkMode 7 ∧
     s.dev.portNamed 7 = false ∧ (s.dev.link 7).st = .up) ∧
    (let s := part0 [0x100] (port 0 1 {})
     Reaches s .jtag (linkPg 0) ∧ s.dev.portNamed 0 = true ∧ s.dev.linkMode 0 = 1) ∧
    (let s := port 7 3 { st := .retraining, retired := 0x10, frames := [{}] }
     (s.dev.link 7).st = .retraining ∧ (s.dev.lanesUp 7 0x01).2 ≠ 0 ∧ s.dev.linkMode 7 ≠ 1 ∧ (s.dev.link 7).paused = false) ∧
    (let s := port 7 1 { st := .retraining, retry := [{}] }
     (s.dev.lanesUp 7 0).2 ≠ 0 ∧ (s.dev.lanesUp 7 0xFF).2 = 0 ∧ s.dev.linkMode 7 = 1) ∧
    (let s := port 7 3 { st := .training }
     (s.dev.link 7).st = .training ∧ s.dev.linkMode 7 = 3 ∧ s.dev.power.linkOff.getLsbD 7 = false ∧ (s.dev.link 7).subUp = 0) ∧
    (let s : State := { dev := { links := [(7, { st := .up, active := 0xFF })],
                                 regs := [(ra (linkPg 7) 0x10C, 0x101), (ra (linkPg 7) 0x114, 1)] } }
     (s.dev.link 7).st = .up ∧ (s.dev.link 7).active.getLsbD 7 = true ∧
     fld (s.dev.regN (ra (linkPg 7) 0x118)) 28 4 = 0 ∧ min 15 (fld (s.dev.regN (ra (linkPg 7) 0x10C)) 8 8) = 1 ∧
     0 < 1024 * s.dev.regN (ra (linkPg 7) 0x114) ∧ 1024 * s.dev.regN (ra (linkPg 7) 0x114) < lget 0 [0, 0, 0, 0, 0, 0, 0, 1025] 7 ∧
     (s.dev.link 7).retired.getLsbD 7 = false) ∧
    (let s := port 7 1 { st := .up, retry := [{}] }
     s.dev.linkMode 7 = 1 ∧ (s.dev.link 7).retry ≠ []) := by
  simp only [Reaches, CritAgree]; decide +kernel

/-- Port 7 in a mode with partition 0 READY as rank 0 of job 0, holding a message. -/
def hears (mode : Nat) (l : Link) (x : RxMsg) : State := part0 [0x100] (port 7 mode { l with rx := [x] })

/-- A frame to rank 0 of partition 0 with a message. -/
def frame (m : Msg) : Frame := (hears 2 {} { msg := m }).dev.frameOf 7 0 m

/-- A connection of partition 0 with rank 1. -/
def conn0 : Conn := { part := 0, peer := 1, unacked := [(0, 5, { ty := 2 }), (1, 1, { ty := 2 })], owed := 3 }

/-- The flit of a short message, the first of port 7, and idle flits. -/
def flitOf (m : Msg) : Flit := ({ lget {} m.cut 0 with ack := 4095 } : Flit).seal
/-- An idle flit that acknowledges nothing new, or asks for the flits again. -/
def idle (nak : Bool) : Flit := ({ ty := 1, ack := 4095, nak := nak } : Flit).seal

theorem wit_FlitsCrossLinks :
    (let m : Msg := { ty := 13 }
     let f := flitOf m
     let s := port 7 1 { st := .up }
     s.dev.alive = true ∧ s.dev.linkMode 7 = 1 ∧ (s.dev.link 7).st = .up ∧ f.crcOk = true ∧ f.lvc.toNat = 0 ∧ f.ty = 0 ∧ f.nak = false ∧
     f.seq.toNat = ((s.dev.link 7).rxSeq + 1) % 4096 ∧ f.eom = true ∧ (s.dev.link 7).stored 0 < 64 ∧
     msgOf (f.payload.take f.len.toNat) = some m ∧ f.som = true ∧ isControl m.ty.toNat = true ∧
     ({ f with seq := 9 } : Flit).seal.crcOk = true ∧ ({ f with seq := 9 } : Flit).crcOk = false ∧ (9 : BitVec 12).toNat ≠ (4095 + 1) % 4096) ∧
    (let s := port 7 1 { st := .up, retry := [flitOf { ty := 13 }] }
     (s.dev.link 7).st = .up ∧ (idle false).crcOk = true ∧ (idle false).ty = 1 ∧ (s.dev.link 7).txf = [] ∧ (s.dev.link 7).owes = false ∧
     (idle true).crcOk = true ∧ (idle true).nak = true ∧ ((s.dev.link 7).acked (idle true).ack).retry ≠ [] ∧
     ((s.dev.link 7).acked (idle true).ack).replays < 15) := by
  decide +kernel

theorem wit_MessagesCrossLinksInOrder :
    (let m : Msg := { ty := 4, srank := 1, drank := 0 }
     let f := frame m
     let s := part0 [0x100] (port 7 2 { st := .up, conns := [conn0] })
     s.dev.linkMode 7 = 2 ∧ f.sub = 0 ∧ f.fcs.toNat = f.fcsOf ∧ f.bytes.length + 4 ≤ 9216 ∧
     f.pfc (fld (s.dev.lnkCtl 7) 6 3) = none ∧ s.dev.frameFor 7 f = some (0, m) ∧
     (s.dev.link 7).conn 0 m.srank.toNat = some conn0 ∧ conn0.resync = false ∧ s.dev.badWelt 0 m = false ∧
     m.psn.toNat = conn0.rx ∧ conn0.owed < 7 ∧ s.dev.frameFor 7 ({ f with dport := 9 } : Frame).seal = none ∧
     s.dev.frameFor 7 (frame { m with psn := 9 }) = some (0, { m with psn := 9 }) ∧ (9 : BitVec 24).toNat ≠ conn0.rx ∧ conn0.rx < 2 ^ 24) ∧
    (let p : Frame := ({ dstMac := 0x0180C2000001, etherType := 0x8808, body := [1, 1, 0, 0xFF] ++ List.replicate 42 1 } : Frame).seal
     let f : Frame := { p with fcs := w32 p.fcsOf }
     let s := part0 [0x100] (port 7 0x22 { st := .up })
     let prio := fld (s.dev.lnkCtl 7) 6 3
     s.dev.linkMode 7 = 2 ∧ f.fcs.toNat = f.fcsOf ∧ f.pfc prio = some (true, 257) ∧ tb (s.dev.lnkCtl 7) 5 = true ∧
     tb ((port 7 2 { st := .up }).dev.lnkCtl 7) 5 = false) ∧
    (let m : Msg := { ty := 5, srank := 1, apsn := 0 }
     let s := hears 2 { st := .up, conns := [conn0] } { msg := m, part := some 0 }
     Heard s 7 0 { msg := m, part := some 0 } [] ∧ (s.dev.link 7).conn 0 1 = some conn0 ∧ conn0.queue = [] ∧
     (s.dev.link 7).txq = [] ∧ (s.dev.link 7).paused = false) ∧
    (let m : Msg := { ty := 6, srank := 1, apsn := 0 }
     let s := hears 2 { st := .up, conns := [conn0] } { msg := m, part := some 0 }
     Heard s 7 0 { msg := m, part := some 0 } [] ∧ (conn0.unacked.filter fun u => !psnDone m.apsn.toNat u.1) ≠ [] ∧ conn0.halved = false) ∧
    (let m : Msg := { ty := 13, srank := 1, code := 0 }
     Heard (hears 2 { st := .up, conns := [conn0] } { msg := m, part := some 0 }) 7 0 { msg := m, part := some 0 } [] ∧ m.code = 0) ∧
    (let s := port 7 2 { st := .up, conns := [conn0, { conn0 with peer := 4095, unacked := [(0, 4, { ty := 2 })] }] }
     (s.dev.link 7).conn 0 1 = some conn0 ∧ 0 < conn0.owed ∧ (s.dev.link 7).frames = [] ∧
     (s.dev.link 7).conn 0 4095 = some { conn0 with peer := 4095, unacked := [(0, 4, { ty := 2 })] } ∧ (s.dev.part 0).runs = []) := by
  simp only [Heard]; decide +kernel

theorem wit_RemoteAccessesCrossLinks :
    (let p : Packet := { cls := .rdReq, vc := 1, dst := epLink 7, src := 0, tag := 255, addr := 0, len := 64, info := [4095] }
     let s (st : LinkState) : State :=
       part0 [0x100] { dev := { links := [(7, { st := st })], net := [p], regs := [(ra (linkPg 7) 0x100, 2), (ra (netPg 0) 0x104, 2)] } }
     (s .up).dev.alive = true ∧ (s .up).dev.arrived 0 p.cls = some p ∧ Lands (s .up).dev {} 0 p.dst p ∧ (s .up).dev.corePart 0 < 12 ∧
     ((s .up).dev.link 7).st = .up ∧ (s .up).dev.rank 0 < (s .up).dev.nranks 0 ∧ (s .up).dev.linkMode 7 ≠ 0 ∧
     (s .up).dev.linkMode 7 ≠ 1 ∧ lget 0 p.info 0 < 4096 ∧ ((s .retraining).dev.link 7).st = .retraining) ∧
    (let p : Packet := { cls := .rwReq, vc := 3, dst := epLink 7, src := 0, info := [1] }
     let s := nets [p] State.reset
     s.dev.arrived 0 p.cls = some p ∧ Lands s.dev {} 0 p.dst p ∧ (s.dev.link 7).st = .down) ∧
    (let m : Msg := { ty := 3, srank := 1, addr := 0x2000000000, len := 8, words := [⟨0, false⟩] }
     Heard (hears 1 { st := .up } { msg := m }) 7 0 { msg := m } [] ∧ m.ty.toNat = 3 ∧
     lowTag ((hears 1 { st := .up } { msg := m }).dev.link 7).tags.elem = some 0 ∧ lowTag (upFrom 0 256).elem = none) ∧
    (let m : Msg := { ty := 1, srank := 1, rtag := 65535, words := [⟨0, false⟩] }
     let w : RWait := { rtag := 65535, part := 0, rank := 1, core := 0, epoch := 0, tag := 0, read := true }
     let s := hears 1 { st := .up, waits := [w] } { msg := m }
     Heard s 7 0 { msg := m } [] ∧
     (s.dev.link 7).waits.find? (fun w => w.rtag == m.rtag.toNat && w.read == (1 == 1) && w.rank == m.srank.toNat) = some w) ∧
    (let p : Packet := { cls := .rdRsp, vc := 2, dst := epLink 7, src := 0, tag := 255, data := [⟨5, false⟩] }
     let v : RServe := { tag := 255, part := 0, rank := 1, rtag := 3, read := true }
     let s : State := { dev := { links := [(7, { st := .up, serves := [v], tags := [255] })], net := [p], regs := [(ra (linkPg 7) 0x100, 1)] } }
     s.dev.arrived 0 .rdRsp = some p ∧ NoUpset {} ∧ Lands s.dev {} 0 p.dst p ∧ s.dev.linkMode 7 ≠ 0 ∧
     (∀ Q, Q < 12 → (s.dev.part Q).runs = []) ∧ (s.dev.link 7).serves.find? (fun x => x.tag == p.tag) = some v) := by
  simp only [Heard, Lands, NoUpset]; decide +kernel

/-- Partition 0 with a REDUCE of one element among ranks 0 and 1 at port 7 in entry 0, and port 7 holding a message. -/
def collective (p : Part) (rank : Word) (l : Link) : State :=
  let q : Part := { p with coll := [(512, 0x100007A3), (513, 0x200), (514, 0x40)] }
  let rs : SMap Word := [(ra (linkPg 7) 0x100, 1), (ra (netPg 0) 0x100, rank), (ra (netPg 0) 0x104, 2)]
  part0 [0x100] { dev := { links := [(7, l)], partz := [(0, q)], regs := rs } }

theorem wit_CollectivesStartAndReduce :
    (let s := regs [(ra (netPg 0) 0x128, 15)] State.reset
     s.dev.alive = true ∧ Reaches s .jtag (netPg 0) ∧ s.dev.regN (ra (netPg 0) 0x128) % 16 = 15) ∧
    (let s := collective {} 0 { st := .up }
     let v := (s.dev.part 0).entry 0
     tb v 0 = true ∧ s.dev.ptState 0 = 2 ∧ (s.dev.part 0).inst 0 = none ∧ (s.dev.collRead (s.dev.eCore 0 v 187) false (fld v 197 27 / 4 * 4) 4).map (·.1) = some [⟨0, false⟩] ∧
     eSeq v = 0 ∧ eKind v ≠ 2 ∧ 0 < eElems v ∧ rankPos v (s.dev.rank 0) = some 0 ∧ treeChildren (eCount v) 0 = [1]) ∧
    (let m : Msg := { ty := 7, srank := 1, last := true, len := 4, words := [⟨0, false⟩] }
     let s := collective {} 0 { st := .up, rx := [{ msg := m }] }
     let v := (s.dev.part 0).entry 0
     Heard s 7 0 { msg := m } [] ∧ s.dev.badWelt 0 m = false ∧ s.dev.msgCurrent 0 m = true ∧ (s.dev.instFor 0 0).started = false ∧
     rankPos v 1 = some 1 ∧ fld m.addr.toNat 15 17 < segsOf (upElems v 1) ∧ s.dev.badWelt 0 { m with welt := 1 } = true) ∧
    (let m : Msg := { ty := 7, srank := 1, last := true, len := 4, words := [⟨0, false⟩] }
     let i : Inst := { entry := 0, started := true }
     let s := collective { runs := [i] } 0 { st := .up, rx := [{ msg := m }] }
     let v := (s.dev.part 0).entry 0
     Heard s 7 0 { msg := m } [] ∧ (s.dev.part 0).inst 0 = some i ∧ eKind v = 1 ∧ segsOf (eElems v) = 1 ∧ tb v 12 = false ∧
     rankPos v (s.dev.rank 0) = some 0 ∧ treeChildren (eCount v) 0 = [1] ∧ tb v 10 = true ∧
     s.dev.segChecks 0 v 0 0 [{ pos := 1, seg := 0, ofs := 0, words := m.words, mark := false, last := true }] = true ∧
     s.dev.podGone (podOf (s.dev.eCore 0 v 96)) = false ∧
     (s.dev.core (s.dev.eCore 0 v 96)).spHeld (eOfs v 133 true) (segBytes v (eElems v) 0) = false ∧
     s.dev.segRoom v 0 (segBytes v (eElems v) 0) = true) ∧
    (let m : Msg := { ty := 8, srank := 1, addr := 0x8000 }
     let s := collective {} 0 { st := .up, rx := [{ msg := m }] }
     Heard s 7 0 { msg := m } [] ∧ s.dev.msgCurrent 0 m = true ∧ s.dev.msgCurrent 0 { m with addr := 0x100000000 } = false) ∧
    (let s := collective {} 0 {}
     Reaches s .jtag (netPg 0) ∧ (s.dev.part 0).collRuns = false ∧ s.dev.locked (netPg 0) = false) ∧
    (let s := collective { runs := [{ entry := 0, started := true }] } 0 {}
     (s.dev.part 0).collRuns = true) := by
  simp only [Reaches, CritAgree, Heard]; refine ⟨?_, ?_, ?_, ?_, ?_, ?_, ?_⟩ <;> decide +kernel

theorem wit_CollectivesAreProbedAndDecided :
    (let m : Msg := { ty := 9, srank := 1 }
     let s := collective { runs := [{ entry := 0, started := true }] } 0 { st := .up, rx := [{ msg := m }] }
     Heard s 7 0 { msg := m } [] ∧ s.dev.linkMode (ePort ((s.dev.part 0).entry 0)) ≠ 0 ∧ s.dev.msgCurrent 0 m = true ∧
     (s.dev.part 0).runsEntry 0 = true ∧ s.dev.collAwaits 0 0 = some (1, false)) ∧
    (∀ c ∈ [(0, 2), (1, 2), (1, 1), (2, 2), (2, 0), (2, 1)],
     let m : Msg := { ty := 10, srank := 1, code := BitVec.ofNat 4 c.1, addr := BitVec.ofNat 48 c.2 }
     let i : Inst := { entry := 0, started := true, probing := some 1, probed := [1] }
     let s := collective { runs := [i] } 0 { st := .up, rx := [{ msg := m }] }
     Heard s 7 0 { msg := m } [] ∧ s.dev.msgCurrent 0 m = true ∧ (s.dev.part 0).inst 0 = some i ∧ i.probing = some m.srank.toNat ∧
     s.dev.linkMode (ePort ((s.dev.part 0).entry 0)) ≠ 0 ∧
     (i.probed.elem (fld m.addr.toNat 0 12) = decide (c.2 = 1)) ∧ (fld m.addr.toNat 0 12 = s.dev.rank 0 ↔ c.2 = 0)) ∧
    (let m : Msg := { ty := 11, srank := 1, code := 6, addr := 1 }
     let s := collective {} 0 { st := .up, rx := [{ msg := m }] }
     Heard s 7 0 { msg := m } [] ∧ tb ((s.dev.part 0).entry 0) 0 = true ∧ s.dev.msgCurrent 0 m = true) ∧
    (let m : Msg := { ty := 12, srank := 1, drank := 0, addr := 1 }
     let s := collective {} 0 { st := .up, rx := [{ msg := m }] }
     Heard s 7 0 { msg := m } [] ∧ m.addr.toNat % 2 ^ 32 = s.dev.lsOpen 0 ∧ (treeChildren (s.dev.nranks 0) (s.dev.rank 0)).elem 1 = true) ∧
    (let m : Msg := { ty := 12, srank := 1, addr := 2 }
     let s := regs [(ra (netPg 0) 0x104, 4)] (collective {} 0 { st := .up, rx := [{ msg := m }] })
     Heard s 7 0 { msg := m } [] ∧ 2 ∈ treeChildren (s.dev.nranks 0) (s.dev.rank 0) ∧ (s.dev.part 0).heldVerdicts = [] ∧
     CritAgree s.dev (lsKeys 0) ∧ m.addr.toNat % 2 ^ 32 ≠ s.dev.lsOpen 0) ∧
    (let m : Msg := { ty := 12, srank := 0, drank := 1, addr := 1 }
     let s := collective { sealing := true } 1 { st := .up, rx := [{ msg := m }] }
     Heard s 7 0 { msg := m } [] ∧ m.addr.toNat % 2 ^ 32 = s.dev.lsOpen 0 ∧ (treeChildren (s.dev.nranks 0) (s.dev.rank 0)).elem 0 = false ∧
     s.dev.rank 0 ≠ 0 ∧ 0 = treeParent (s.dev.rank 0) ∧ (s.dev.part 0).sealing = true ∧ s.dev.verdictAwaits 0 = some 0) := by
  simp only [Heard, CritAgree]; refine ⟨?_, ?_, ?_, ?_, ?_, ?_⟩ <;> decide +kernel

theorem wit_RegisterWritesFollowTheirCodes :
    (let s := oneCore {}
     Reaches s .jtag (corePg 671 2) ∧ (pageKind (corePg 671 2)).isSome = true ∧ Reaches s .jtag bootPg ∧
     (regDef .vec 0x10).isSome = true ∧ ((pageKind (corePg 671 2)).map fun k => k.1) = some .vec) ∧
    (let s := part0 [] State.reset
     s.dev.alive = true ∧ (s.dev.port .A).up = true ∧ s.dev.visible .A (corePg 0 0) = false ∧ s.dev.visible .A 0xFFF = false ∧
     CritAgree s.dev (s.dev.gateKeys (.host .A) (corePg 0 0)) ∧ CritAgree s.dev (s.dev.gateKeys (.host .A) 0xFFF)) ∧
    (let s := part0 [] (regs [(ra bootPg 0x10, 3)] State.reset)
     Reaches s (.host .A) bootPg) := by
  simp only [Reaches, CritAgree]; decide +kernel

theorem wit_RegisterReadsAndVectors :
    (let s := part0 [0x100] State.reset
     s.dev.alive = true ∧ Reaches s (.host .A) bootPg ∧ Reaches s (.host .A) botPg ∧ isCounter (ra bootPg 0x80) = true ∧
     isCounter (ra botPg 0x108) = false ∧ s.dev.visible .A (netPg 11) = false ∧ (s.dev.port .A).settled = true ∧
     CritAgree s.dev (s.dev.gateKeys (.host .A) (netPg 11))) ∧
    (let s := part0 [netPg 0] (regs [(ra (netPg 0) 0x120, 0x80000FFF)] State.reset)
     Reaches s (.host .A) (netPg 0) ∧ isCounter (ra (netPg 0) 0x124) = false) ∧
    (let s := part0 [] { State.reset with dev := { regs := [(0xD30010, 3), (0xD30018, 1), (0xD3001C, 1)], portA := { pba := [vectorOf bootPg] } } }
     (s.dev.port .A).up = true ∧ (s.dev.port .A).pba.elem (vectorOf bootPg) = true ∧ vectorOf bootPg < 2048 ∧
     s.dev.vecCond .A (vectorOf bootPg) = true ∧ s.dev.vecCond .A 2047 = false) := by
  simp only [Reaches, CritAgree]; decide +kernel

/-- An enabled aperture 0 of partition 0, with a page of its cores. -/
def bar2 (s : State) : State := part0 [0x100] (regs [(ra (pciePg .A) 0x104, 1), (ra (pciePg .A) 0x110, 0x80000000)] s)

theorem wit_HostAndDeviceMemoryMeet :
    (let s := bar2 State.reset
     let ap := s.dev.aperture .A 0
     s.dev.alive = true ∧ (s.dev.port .A).up = true ∧ tb ap 31 = true ∧ tb ap 30 = false ∧ fld ap 24 4 = 0 ∧
     s.dev.ptState 0 = 2 ∧ s.dev.ptPort 0 = .A ∧ s.dev.physTarget 0 (fld ap 0 16 * 2 ^ 32) 512 = some (0, 0, false) ∧
     lowTags (s.dev.port .A).tags (pieces256 0 512).length = some [0, 1] ∧ lowTags (upFrom 1 255) 2 = none ∧
     lowTags (s.dev.port .A).tags (blockItems 0 0 (payloadWrites 0 8 (bytesWordsOf (List.replicate 8 5) false))).length = some [0] ∧
     tb (s.dev.aperture .A (15 * 2 ^ 32)) 31 = false) ∧
    (let r : Packet := { cls := .rdRsp, vc := 2, dst := epPort .A, src := 0, tag := 5, data := [⟨9, false⟩] }
     let x : BRead := { ofs := 0, len := 16, pieces := [⟨4, 0, 1, some [⟨8, false⟩]⟩, ⟨5, 0, 1, none⟩] }
     let s := part0 [] { State.reset with dev := { net := [r], portA := { reads := [x], tags := [5] } } }
     s.dev.arrived 0 .rdRsp = some r ∧ NoUpset {} ∧ Lands s.dev {} 0 r.dst r ∧ (s.dev.port .A).reads = [x] ∧
     (∃ z ∈ x.pieces, z.tag = r.tag) ∧ (∀ z ∈ x.pieces, z.tag ≠ r.tag → z.data.isSome = true)) ∧
    (let r : Packet := { cls := .rdReq, vc := 1, dst := epPort .A, src := 0, addr := 0xC00000000000, len := 64 }
     let s := nets [r] State.reset
     s.dev.arrived 0 .rdReq = some r ∧ Lands s.dev {} 0 r.dst r ∧ s.dev.windowOpen .A = false) ∧
    (let r : Packet := { cls := .wrReq, vc := 1, dst := epPort .A, src := 0, addr := 0xC00000000000, len := 256 }
     let s := part0 [] { State.reset with dev := { net := [r], regs := [(ra (pciePg .A) 0x104, 1)], portA := { bme := true } } }
     s.dev.arrived 0 .wrReq = some r ∧ Lands s.dev {} 0 r.dst r ∧ s.dev.windowOpen .A = true) ∧
    (let h : HRead := { tag := 1, src := 0, epoch := 0, htag := 1023, len := 64 }
     let s : State := { dev := { portB := { hreads := [h] } } }
     (s.dev.port .B).hreads.find? (fun x => x.htag == 1023) = some h) := by
  simp only [Lands, NoUpset]; decide +kernel

theorem wit_HostLinksAndConfiguration :
    (let s := part0 [] State.reset
     s.dev.alive = true ∧ (s.dev.port .A).up = true ∧ s.dev.visible .A (0xFFFFFF / 4096) = false ∧
     CritAgree s.dev (s.dev.gateKeys (.host .A) (0xFFFFFF / 4096)) ∧ (s.dev.port .A).perst = false ∧
     (s.dev.port .A).off = false ∧ s.dev.released = true ∧ (s.dev.port .A).resetting = false ∧ (s.dev.port .B).up = false) ∧
    (let s : State := { dev := { released := false } }
     s.dev.pwrok = true ∧ s.dev.tripped = false ∧ s.dev.released = false) := by
  simp only [CritAgree]; decide +kernel

theorem wit_ManagementBusAnswers :
    (let s := State.reset
     s.dev.pwrok = true ∧ CritAgree s.dev (0 :: ptKeys) ∧ ∀ i, i < 8 → tb s.dev.smbStatus i = true → s.dev.alertMask.getLsbD i = true) ∧
    (let s : State := { dev := { alertMask := 0xFE } }
     s.dev.pwrok = true ∧ tb s.dev.smbStatus 0 = true ∧ s.dev.alertMask.getLsbD 0 = false) ∧
    (0xFF : Byte).toNat ≠ pecOf [0x94, 0x7F, (0xFE : Byte).toNat] ∧
    (BitVec.ofNat 8 (pecOf [0x94, 0x7F, 0xFE])).toNat = pecOf [0x94, 0x7F, (0xFE : Byte).toNat] := by
  simp only [CritAgree]; decide +kernel

/-- The smallest image: a header, a base and one overlay that apply nothing. -/
def image : List Byte :=
  [0x4C, 0x6F, 0x72, 0x67, 1, 0, 0x72, 6] ++ List.replicate 12 0 ++ [0, 2, 0, 0, 8, 0, 0, 0, 0, 0, 0, 0] ++
  [8, 2, 0, 0, 8, 0, 0, 0, 0x10, 2, 0, 0] ++ List.replicate 484 0
/-- A flash of 16 MiB with images. -/
def flash (a b : List Byte) : Flash :=
  { sfdp := true, basic := true, mib := 16, quad := false, four := false, enter4 := false, primary := a, secondary := b }
/-- The part without power. -/
def unpowered : State := { dev := { pwrok := false, released := false } }

theorem wit_StartUpReleasesOrReports :
    (let u := (unpowered.sense false).onDevice fun d => d.setReg (ra bootPg 0x10C) (w32 16)
     unpowered.dev.pwrok = false ∧ discover (flash image []) = 0 ∧ image.length = 528 ∧
     overlayOf unpowered.sec.fuses 0 image = 0 ∧ u.checkImage image 0 = 0 ∧ u.checkImage [] 7 = 3 ∧ discover { flash [] [] with mib := 257 } ≠ 0) ∧
    (State.reset.dev.pwrok = true) ∧
    (let s := part0 [] State.reset
     Reaches s (.host .A) secPg ∧ s.advJudge 0 ≠ 0) ∧
    (Reaches (oneCore {}) .jtag secPg ∧ (oneCore {}).advJudge 3 = 0 ∧ ((oneCore {}).dev.cores.map (·.1)).Nodup ∧
     ((oneCore {}).dev.links.map (·.1)).Nodup) := by
  simp only [Reaches, CritAgree]; decide +kernel

theorem wit_SecurityBlockBurnsJudgesAndReports :
    (let s := part0 [] State.reset
     Reaches s (.host .A) secPg ∧ s.dev.keyData (.host .A) = 0 ∧ s.sec.burn = none ∧ s.life = 0) ∧
    (let s := part0 [] (regs [(pra .A secPg 0x110, 5)] State.reset)
     Reaches s (.host .A) secPg ∧ s.dev.keyData (.host .A) ≠ 0 ∧ s.sec.burn = none ∧ s.life ≤ 1 ∧ s.rootKey 1 = 0) ∧
    (let s := State.reset
     let s : State := { s with sec := { fuses := { life := 1 }, sensed := { life := 1 } }, dev := { crit := [(0, ⟨1, 1, 1⟩)] } }
     Reaches s .jtag secPg ∧ s.life = 1 ∧ s.sec.burn = none ∧ s.sec.keySlot = 0 ∧ s.dev.unsigned = false ∧
     (0 : Byte).toNat ≤ s.dev.regN (ra bootPg 0x104)) ∧
    (let s : State := { sec := { burn := some (.svn 32) } }
     s.sec.burn = some (.svn 32)) ∧
    (let s : State := { sec := { tokens := [(.jtag, [])] } }
     s.sec.tokens = [(.jtag, [])]) ∧
    (let q : AttReq := { port := .A, mask := 1, dest := 0xC00000000000, nonce := [] }
     let s : State := { sec := { att := [q] } }
     s.dev.alive = true ∧ s.sec.att = [q] ∧ s.dev.reportWaits q.dest = false ∧ placeOf q.dest = .host 0 0 ∧
     s.dev.reportWaits 0 = false ∧ placeOf 0 = .vault 0 0) := by
  simp only [Reaches, CritAgree]; decide +kernel

theorem wit_TestPortActsWithinItsScope :
    State.reset.dev.pwrok = true ∧ State.reset.life ≠ 2 ∧ State.reset.dev.anyPart = false ∧ State.reset.sec.testWiped = false ∧
    (let s : State := { State.reset with dev := { State.reset.dev with crit := [(0, ⟨2, 2, 2⟩)] } }
     s.life = 2 ∧ s.dev.scopes = 0 ∧ CritAgree s.dev (0 :: ptKeys)) ∧
    State.reset.dev.debugOpen = true ∧ State.reset.dev.tripped = false ∧ (pageKind (0xD30018 / 4096)).isSome = true ∧
    State.reset.dev.pageDark (0xD30018 / 4096) = false ∧
    CritAgree State.reset.dev (State.reset.dev.gateKeys .jtag (0xD30018 / 4096)) := by
  simp only [CritAgree]; decide +kernel

theorem wit_FusesOnlyGrow : step State.reset = .next State.reset ∧ FuseInv State.reset ∧
    burnsFuses .tokenDone = false ∧ touchesSecurity (.fetch 0 .X) = false ∧
    (let s : State := { State.reset with pending := [.railDrop], sec := { State.reset.sec with burn := some (.svn 4) } }
     s.sec.burn = some (.svn 4) ∧ (Burn.svn 4).apply s.sec.fuses ≠ s.sec.fuses) := by
  refine ⟨rfl, ?_⟩; simp only [FuseInv, FusesWithin]; decide +kernel

theorem wit_EveryStepAnswersADeadPartKeepsStill :
    unpowered.dev.alive = false ∧ actsUnreleased (.fetch 0 .X) = false := by decide +kernel

theorem wit_CommandRegistersGiveTheirCommands :
    (0x11#32).toNat % 256 = b2n true + 16 * b2n true ∧ (0x20#32).toNat % 256 = 2 * b2n false + 32 * b2n true ∧
    (0x20000000#32).toNat / 2 ^ 28 = 2 ∧ (0x32#32).toNat % 64 = 2 + 16 * 3 ∧
    (regs [(ra (netPg 11) 0x128, 0x1FF)] State.reset).dev.regN (ra (netPg 11) 0x128) % 16 = 15 := by decide +kernel

/-! The spec's worked examples. -/

/-- Pages of core 345 and of core 671 (chapter 1's worked examples). -/
theorem test_blk_id :
    State.reset.readReg .A 0x664000 = 0x01000159 ∧ State.reset.readReg .A 0x667000 = 0x04000159 ∧
    State.reset.readReg .A 0xB7C000 = 0x0100029F ∧ podPg 43 = 0xC2B ∧ vaultAddr 345 0 = 0x000AC8000000 ∧
    spadAddr 345 0 = 0x400015900000 ∧ quarterOf 345 = 2 := by decide +kernel

/-- The MXFP4 block sum: an entry of 2^20 becomes 0x4980006A. -/
theorem test_mxfp4_block_sum :
    let a : TRow := { el := BitVec.ofNat 512 (5 + 0xC * 16 + 16 ^ 5 + 7 * 16 ^ 17 + 3 * 16 ^ 40 + 0xA * 16 ^ 63), sc := 0x857D }
    let b : TRow := { el := BitVec.ofNat 512 (3 + 7 * 16 + 0xE * 16 ^ 5 + 7 * 16 ^ 17 + 9 * 16 ^ 40 + 0xD * 16 ^ 63), sc := 0x7080 }
    accNew true 0x49800000 (columnSum 1 (passVals 7 false a) (passVals 7 false b)) = 0x4980006A := by decide +kernel

/-- An FP32 block to MXFP4 under FLOOR and FIT. -/
theorem test_mxfp4_encode :
    let vs := [0x40E9999A, 0xC0266666, 0x3F666666, 0x3E4CCCCD].map ofF32 ++ List.replicate 28 Val.zero
    let codes (r : Nat × List (Nat × Stat)) : List Nat := (r.2.take 4).map (·.1)
    let a := encBlock 7 0 true false vs (List.replicate 32 0)
    let b := encBlock 7 0 true true vs (List.replicate 32 0)
    a.1 = 0x7F ∧ codes a = [7, 0xD, 2, 0] ∧ b.1 = 0x80 ∧ codes b = [6, 0xB, 1, 0] := by decide +kernel

/-- Writes of SP_CARVE. -/
theorem test_carve :
    carveJudge {} 0x18 = 0 ∧ carveJudge {} 0x1018 = 1 ∧ carveJudge {} 0x818 = 0 ∧ carveJudge {} 0x120818 = 1 ∧
    carveJudge {} 0x110818 = 0 ∧ carveOf 0x818 = (0x40000, 0x60000) := by decide +kernel

/-- A run of steps: step 3 raises the exponent, the notice of step 4 lowers it. -/
theorem test_loss_scale :
    let s : Dev := { regs := [(ra (lsPg 0) 0x100, 0x10003)], crit := [(3 * 65536, ⟨0x20010, 0x20010, 0x20010⟩)] }
    let t := s.lsDecide 0 false
    (t.lsExp 0, t.lsClean 0, t.lsSealed 0) = (17, 0, 1) ∧ ((t.lsDecide 0 true).lsExp 0, (t.lsDecide 0 true).lsClean 0) = (16, 0) := by
  decide +kernel

/-- One block in top-2 and in sign mode. -/
theorem test_skiver :
    let e : List Word := (upFrom 0 32).map fun i =>
      if i = 3 ∨ i = 20 then 0x40200000 else if i = 9 then 0xC0200000 else if i = 31 then 0x3EC00000 else 0
    (skBlock 1 e).1 % 2 ^ 64 = 0xC100410000000123 ∧ (skBlock 4 e).1 % 2 ^ 64 = 0x33E000000200 := by decide +kernel

/-- The welts of ranks 0 and 4 and of their children, and the tree of six ranks. -/
theorem test_collective :
    weltOf 4 [⟨100 + 2 ^ 32 * 0xFFFFFFF9, false⟩] 8 = 93 ∧ weltOf 4 [⟨7 + 2 ^ 32 * 0xFFE17B80, false⟩] 8 = 2145483654 ∧
    treeChildren 6 0 = [1, 2, 4] ∧ treeChildren 6 4 = [5] ∧ treeParent 3 = 2 ∧ treeParent 4 = 0 := by decide +kernel

/-- Vault offset 0x0391_2340 lies in bank 3 of pseudo-channel 2. -/
theorem test_vault_decode : bankOf 0x03912340 % 16 = 3 ∧ pcOf 0x03912340 = 2 := by decide +kernel

/-- The driver's table in core 336's vault: row 1,234,567 is found, row 4's page is not mapped. -/
theorem test_walk :
    let t : Vault := { mem := [(0, good 0xA80001001), (0x1200 / 8, good 0xA80002001), (0x24B0 / 8, good 0xAA3200003)] }
    let s : Dev := { crit := [(131075, ⟨0xA0620000, 0xA0620000, 0xA0620000⟩)], cores := [(336, { vault := t })],
                     regs := [(ra (pctlPg 3) 0x100, 0x80000000), (ra (pctlPg 3) 0x104, 0xA), (ra (pctlPg 3) 0x108, 40)] }
    (s.walk 3 0x1012D68700 none).1 = .page { glb := false, base := 0x1012C00000, size := 2 ^ 21, addr := 0xAA3200000, write := false, nospec := false } ∧
    (s.walk 3 0x1030D3FF00 none).1 = .unmapped 2 false := by decide +kernel

/-- A start with fallback: BOOT_STAT. -/
theorem test_boot_stat :
    bootStat 0 7 1 1 0 { flash [] [] with mib := 64, quad := true } {} 1 false 7 = 0x07364007 := by decide +kernel

/-- The partition of the worked example: its entry, its cores and what PART_INFO reads, and that its creation is judged OK. -/
theorem test_partition :
    let s : State := { dev := { crit := [(131075, ⟨0xA0620000, 0xA0620000, 0xA0620000⟩)] } }
    s.dev.ptState 3 = 2 ∧ s.dev.ptPort 3 = .B ∧ s.dev.ptCores 3 = (336, 112) ∧ s.readReg .B (ra (pctlPg 3) 0x11C) = 0x01500070 ∧
    ({ regs := [(pra .B ptPg 0x104, 0xA01000)] } : Dev).ptJudge .B 0x13620000 = (0, 0) := by decide +kernel

/-- The published check values of CRC-32C, of the Ethernet FCS and of the SMBus packet error code, over "123456789". -/
theorem test_check_sums :
    crc32c ((upFrom 0x31 9).map (BitVec.ofNat 8)) = 0xE3069283 ∧ crcOf 0xEDB88320 ((upFrom 0x31 9).map (BitVec.ofNat 8)) = 0xCBF43926 ∧
    pecOf (upFrom 0x31 9) = 0xF4 := by decide +kernel

end Sys2Proof.Tests
end

section
/-! PROOFS. Register writes: accesses at the gate, the access codes, counters and event bits of a page, and what each port signals
of a vector. -/
namespace Sys2Proof.Machine
open Sys2Proof

/-! Addresses of registers. -/

@[simp] theorem ra_div {pg o : Nat} (ho : o < 4096) : ra pg o / 4096 = pg := by unfold ra; omega
@[simp] theorem ra_mod {pg o : Nat} (ho : o < 4096) : ra pg o % 4096 = o := by unfold ra; omega
/-- The 24 bits of an address hold that of every register. -/
theorem toNat_ofNat_ra {pg o : Nat} (hpg : pg < 4096) (ho : o < 4096) : (BitVec.ofNat 24 (ra pg o)).toNat = ra pg o := by
  rw [BitVec.toNat_ofNat, Nat.mod_eq_of_lt]
  unfold ra; omega
theorem ra_mod_four {pg o : Nat} (h : o % 4 = 0) : ra pg o % 4 = 0 := by unfold ra; omega

/-! Accesses at the gate. -/

/-- The device with other counters. -/
def Dev.recount (s : Dev) (c : SMap Nat) : Dev := { s with ctrs := c }

section
variable (s : Dev) (c : SMap Nat)
@[simp] theorem recount_recount (c' : SMap Nat) : (s.recount c).recount c' = s.recount c' := rfl
@[simp] theorem recount_regs : (s.recount c).regs = s.regs := rfl
@[simp] theorem recount_crit : (s.recount c).crit = s.crit := rfl
@[simp] theorem recount_locks : (s.recount c).locks = s.locks := rfl
@[simp] theorem recount_cores : (s.recount c).cores = s.cores := rfl
@[simp] theorem recount_latch : (s.recount c).latch = s.latch := rfl
@[simp] theorem recount_reg (key : Nat) : (s.recount c).reg key = s.reg key := rfl
@[simp] theorem recount_locked (pg : Nat) : (s.recount c).locked pg = s.locked pg := rfl
@[simp] theorem recount_port (p : Port) : (s.recount c).port p = s.port p := by cases p <;> rfl
@[simp] theorem recount_pageDark (pg : Nat) : (s.recount c).pageDark pg = s.pageDark pg := rfl
end

/-- Counting changes counters alone. -/
theorem bump_eq_recount (s : Dev) (pg i n : Nat) : ∃ c, s.bump pg i n = s.recount c := by
  unfold Dev.bump Dev.bumpAt
  split
  · exact ⟨s.ctrs, rfl⟩
  · exact ⟨_, rfl⟩

theorem arrived_eq_recount (s : Dev) (w : Writer) : ∃ c, arrived s w = s.recount c := by
  cases w with
  | host p => exact bump_eq_recount s _ _ _
  | jtag => exact ⟨s.ctrs, rfl⟩
  | record => exact ⟨s.ctrs, rfl⟩

theorem reaches_writer {s : State} {w : Writer} {pg : Nat} (h : Reaches s w pg) : w ≠ .record := by
  rintro rfl; exact h.2.2

theorem reaches_light {s : State} {w : Writer} {pg : Nat} (h : Reaches s w pg) : s.dev.pageDark pg = false := by
  obtain ⟨-, -, h⟩ := h
  cases w with
  | host p => exact h.2.2.2
  | jtag => exact h.2.2
  | record => exact h.elim

theorem reaches_kind {s : State} {w : Writer} {pg : Nat} (h : Reaches s w pg) : ∃ k i, pageKind pg = some (k, i) := by
  obtain ⟨-, -, h⟩ := h
  cases hk : pageKind pg with
  | some x => exact ⟨x.1, x.2, rfl⟩
  | none =>
    cases w with
    | host p => simp [Dev.visible, hk] at h
    | jtag => simp [hk] at h
    | record => exact h.elim

/-- The gate lets an access that reaches its page act. -/
theorem regGate_reaches {s : State} {w : Writer} {pg : Nat} (h : Reaches s w pg) :
    s.dev.regGate w pg = (arrived s.dev w, true) := by
  have hd := reaches_light h
  obtain ⟨-, hk, h⟩ := h
  cases w with
  | host p =>
    obtain ⟨hup, hset, hvis, -⟩ := h
    simp [Dev.regGate, arrived, critSeen_agree _ _ (critAgree_bump s.dev _ _ _ _ hk),
      pageGate_light _ _ ((pageDark_bump s.dev _ _ _ pg).trans hd), hup, hset, hvis]
  | jtag =>
    obtain ⟨hopen, hpage, -⟩ := h
    simp [Dev.regGate, arrived, critSeen_agree _ _ hk, pageGate_light _ _ hd, hopen, hpage]
  | record => exact h.elim

/-- An access by a port to a page that it does not see only counts (R422, R446). -/
theorem regGate_hidden (s : Dev) (p : Port) (pg : Nat) (hvis : s.visible p pg = false)
    (hk : CritAgree s (s.gateKeys (.host p) pg)) : ∃ c, s.regGate (.host p) pg = (s.recount c, false) := by
  simp only [Dev.regGate, critSeen_agree _ _ (critAgree_bump s _ _ _ _ hk), hvis]
  split
  · exact ⟨s.ctrs, rfl⟩
  · obtain ⟨c, hc⟩ := bump_eq_recount s (pciePg p) 2 1
    obtain ⟨c', hc'⟩ := bump_eq_recount (s.recount c) (pciePg p) 3 1
    exact ⟨c', by simp [hc, hc']⟩

/-- A command on a page acts on the device, which has counted the access, where its writer reaches the page. -/
theorem pageCommand_reaches {s : State} {w : Writer} {pg : Nat} (h : Reaches s w pg) (hpg : pg < 4096) (f : Nat → Dev → Dev) :
    ∃ c, (.next (s.onDev fun d => d.regAccess w (BitVec.ofNat 12 pg).toNat (f (BitVec.ofNat 12 pg).toNat)) :
      Host.Outcome State Fault Refusal) = .next { s with dev := f pg (s.dev.recount c) } := by
  obtain ⟨c, hc⟩ := arrived_eq_recount s.dev w
  have hn : (BitVec.ofNat 12 pg).toNat = pg := by rw [BitVec.toNat_ofNat, Nat.mod_eq_of_lt hpg]
  exact ⟨c, by rw [hn, onDev_alive _ _ h.1, regAccess_reaches s w pg _ h, hc]⟩

/-- REGISTER_WRITE by a writer that reaches the page. -/
theorem execRegisterWrite_reaches {s : State} {w : Writer} {pg o : Nat} (v : Word) (h : Reaches s w pg) (hpg : pg < 4096)
    (ho : o < 4096) (h4 : o % 4 = 0) :
    ∃ c, exec (.registerWrite w (BitVec.ofNat 24 (ra pg o)) v) s =
      .next (State.writeReg { s with dev := s.dev.recount c } w (ra pg o) v) := by
  obtain ⟨c, hc⟩ := arrived_eq_recount s.dev w
  refine ⟨c, ?_⟩
  show execRegisterWrite w _ v s = _
  simp [execRegisterWrite, toNat_ofNat_ra hpg ho, ra_mod_four h4, ho, State.pageAccess, h.1, regGate_reaches h, hc,
    -BitVec.toNat_ofNat]

/-! The access codes (R6). -/

theorem tb_eq_testBit (v i : Nat) : tb v i = v.testBit i := by
  rw [tb, Nat.testBit_eq_decide_div_mod_eq, Bool.beq_eq_decide_eq]

theorem findReg_mem {l : List RegDef} {o : Nat} {d : RegDef} (h : findReg l o = some d) : d ∈ l := by
  induction l with
  | nil => cases h
  | cons e l ih =>
    simp only [findReg] at h
    split at h
    · obtain rfl := Option.some.inj h; exact List.mem_cons_self
    · exact List.mem_cons_of_mem _ (ih h)

/-- No bit of a register is both cleared by a 1 and set by a write, so that the order of the codes in `mergeReg` does not matter. -/
theorem regDef_codes_disjoint {k : PageKind} {o : Nat} {d : RegDef} (h : regDef k o = some d) :
    d.w1c &&& (d.rw ||| d.rwl) = 0 := by
  unfold regDef at h
  split at h
  · obtain rfl := Option.some.inj h; rfl
  · split at h
    · obtain rfl := Option.some.inj h; simp
    · split at h
      · obtain rfl := Option.some.inj h; simp
      · have hall : ∀ d ∈ regTable k, d.w1c &&& (d.rw ||| d.rwl) = 0 := by cases k <;> decide
        exact hall d (findReg_mem h)

/-- What a write leaves in each bit of a register. -/
theorem getLsbD_mergeReg {d : RegDef} (hd : d.w1c &&& (d.rw ||| d.rwl) = 0) (locked : Bool) (old v : Word) {j : Nat} (hj : j < 32) :
    (mergeReg d locked old v).getLsbD j =
      if tb d.w1c j then old.getLsbD j && !v.getLsbD j
      else if tb d.rw j || (tb d.rwl j && !locked) then v.getLsbD j else old.getLsbD j := by
  have hdis : (d.w1c.testBit j && (d.rw.testBit j || d.rwl.testBit j)) = false := by
    rw [← Nat.testBit_or, ← Nat.testBit_and, hd, Nat.zero_testBit]
  simp only [mergeReg, w32, tb_eq_testBit, BitVec.getLsbD_and, BitVec.getLsbD_or, BitVec.getLsbD_not, BitVec.getLsbD_ofNat, hj,
    decide_true, Bool.true_and, Nat.testBit_or]
  cases hc : d.w1c.testBit j
  · cases locked <;> cases hrw : d.rw.testBit j <;> cases hrwl : d.rwl.testBit j <;> simp [hrwl]
  · obtain ⟨hrw, hrwl⟩ : d.rw.testBit j = false ∧ d.rwl.testBit j = false := by simpa [hc] using hdis
    cases locked <;> simp [hrw, hrwl]

/-! Counters of a page (R11, R17). -/

/-- CNT_CLEAR leaves every counter of the page zero. -/
theorem ctr_cntClear (s : Dev) (pg : Nat) {i : Nat} (hi : i < 16) : (s.cntClear pg).ctr (ctrAddr pg i) = 0 := by
  have hin : ra pg 0x80 ≤ ctrAddr pg i ∧ ctrAddr pg i < ra pg 0x100 := by unfold ctrAddr ra; omega
  have hout : ¬ (ra pg 0x200 ≤ ctrAddr pg i ∧ ctrAddr pg i < ra pg 0x300) := by unfold ctrAddr ra; omega
  unfold Dev.cntClear Dev.ctr
  simp only
  split
  · rw [mget_mclear, if_neg hout, mget_mclear, if_pos hin]
  · rw [mget_mclear, if_pos hin]

/-! Registers with no behaviour of their own. -/

/-- A page of kind `k` has at offset `o` a register with no behaviour of its own: BLK_CTL, BLK_EVT_EN, and every register from
0x100 on of the vector, pod-router and PCIe pages. -/
def Plain (k : PageKind) (o : Nat) : Prop := o = 0x10 ∨ o = 0x1C ∨ (0x100 ≤ o ∧ (k = .vec ∨ k = .pod ∨ k = .pcie))

/-- What writing `x` to such a register does: it is stored, CNT_CLEAR of BLK_CTL acts, and the ports look at the page's vector
when BLK_EVT_EN changes. -/
def Dev.plainStore (s : Dev) (pg o : Nat) (v x : Word) : Dev :=
  let t := s.setReg (ra pg o) x
  if o = 0x10 then (if v.getLsbD 2 then t.cntClear pg else t)
  else if o = 0x1C then t.pageLook pg false
  else t

/-- `plainStore` writes one register and, of cores, critical words and locks, nothing. -/
theorem plainStore_frame (s : Dev) (pg o : Nat) (v x : Word) :
    (s.plainStore pg o v x).regs = (s.setReg (ra pg o) x).regs ∧ (s.plainStore pg o v x).cores = s.cores ∧
    (s.plainStore pg o v x).crit = s.crit ∧ (s.plainStore pg o v x).locks = s.locks := by
  unfold Dev.plainStore
  extract_lets u
  have hclear : (u.cntClear pg).regs = u.regs ∧ (u.cntClear pg).cores = s.cores ∧ (u.cntClear pg).crit = s.crit ∧
    (u.cntClear pg).locks = s.locks := ⟨rfl, rfl, rfl, rfl⟩
  split
  · split
    · exact hclear
    · exact ⟨rfl, rfl, rfl, rfl⟩
  · split
    · exact ⟨pageLook_regs u _ _, pageLook_cores u _ _, pageLook_crit u _ _, pageLook_locks u _ _⟩
    · exact ⟨rfl, rfl, rfl, rfl⟩

theorem plain_not_perPort {k : PageKind} {o : Nat} (h : Plain k o) (i : Nat) :
    perPort k i o = false ∧ ¬ (k = .vq ∧ windowed o = true) ∧ ¬ (k = .spine ∧ i ≠ 1 ∧ 0x100 ≤ o) := by
  obtain rfl | rfl | ⟨-, rfl | rfl | rfl⟩ := h
  · cases k <;> simp [perPort, windowed]
  · cases k <;> simp [perPort, windowed]
  · simp [perPort]
  · simp [perPort]
  · simp [perPort]

/-- A write of such a register that is no boot record's stores it under its access codes, once. -/
theorem storeReg_plain (s : Dev) {w : Writer} (hw : w ≠ .record) {pg o i : Nat} {k : PageKind} {d : RegDef} (v : Word)
    (hk : pageKind pg = some (k, i)) (hd : regDef k o = some d) (ho : o < 4096) (hp : Plain k o) :
    s.storeReg w (ra pg o) v = s.setReg (ra pg o) (mergeReg d (s.locked pg) (s.reg (ra pg o)) v) := by
  obtain ⟨hown, hwin, hspine⟩ := plain_not_perPort hp i
  have hkey : s.regKey (writerPort w) (ra pg o) = ra pg o := by simp [Dev.regKey, ho, hk, hown, hwin]
  simp [Dev.storeReg, ho, hk, hd, hspine, hkey, hw]

/-- The device's write of such a register. -/
theorem dev_writeReg_plain (s : Dev) (f4 : Bool) {w : Writer} (hw : w ≠ .record) {pg o i : Nat} {k : PageKind} {d : RegDef} (v : Word)
    (hk : pageKind pg = some (k, i)) (hd : regDef k o = some d) (ho : o < 4096) (hp : Plain k o) (hdark : s.pageDark pg = false) :
    s.writeReg f4 w (ra pg o) v = s.plainStore pg o v (mergeReg d (s.locked pg) (s.reg (ra pg o)) v) := by
  have hst := storeReg_plain s hw v hk hd ho hp
  simp only [Dev.writeReg, ra_div ho, ra_mod ho, hk, hdark, Dev.plainStore, ← hst]
  obtain rfl | rfl | ⟨h100, hkind⟩ := hp
  · simp [Dev.commonWrite]
  · simp [Dev.commonWrite]
  · have h10 : o ≠ 0x10 := by omega
    have h1C : o ≠ 0x1C := by omega
    have hpage : s.pageWrite f4 w k i o (ra pg o) v = s.storeReg w (ra pg o) v := by
      obtain rfl | rfl | rfl := hkind <;> rfl
    simp [Nat.not_lt.2 h100, h10, h1C, hpage]

/-- A write that is no command of the security page is the device's. -/
theorem state_writeReg_onDevice (s : State) (w : Writer) {pg o : Nat} (v : Word) (ho : o < 4096)
    (h : pg ≠ secPg ∨ o < 0x100) :
    s.writeReg w (ra pg o) v = s.onDevice fun d => d.writeReg s.sec.sensed.f4 w (ra pg o) v := by
  have hno : ∀ x, 0x100 ≤ x → ¬ (pg = secPg ∧ o = x) := by
    rintro x hx ⟨hs, rfl⟩
    exact h.elim (· hs) (by omega)
  simp only [State.writeReg, ra_div ho, ra_mod ho]
  rw [if_neg (hno _ (by decide)), if_neg (hno _ (by decide)), if_neg (hno _ (by decide)), if_neg (hno _ (by decide))]

theorem plain_off_security {k : PageKind} {o pg i : Nat} (hk : pageKind pg = some (k, i)) (hp : Plain k o) :
    pg ≠ secPg ∨ o < 0x100 := by
  obtain rfl | rfl | ⟨-, hkind⟩ := hp
  · exact .inr (by decide)
  · exact .inr (by decide)
  · refine .inl ?_
    rintro rfl
    have hsec : k = .sec := (Prod.mk.inj (Option.some.inj hk)).1.symm
    subst hsec
    simp at hkind

/-- A write of a read-only or unlisted place of the common part does nothing (R6). -/
theorem commonWrite_readOnly (s : Dev) (w : Writer) {pg o : Nat} (v : Word) (ho : o < 4096)
    (h : o ∉ [0x10, 0x18, 0x1C, 0x20, 0x28]) : s.commonWrite w (ra pg o) v = s := by
  simp only [List.mem_cons, List.not_mem_nil, or_false, not_or] at h
  obtain ⟨h1, h2, h3, h4, h5⟩ := h
  simp [Dev.commonWrite, ho, h1, h2, h3, h4, h5]

/-! Events (R12, R13). -/

/-- BLK_EVT after a clear: the bits of the mask fall, those raised in its cycle stand. -/
theorem reg_evtClear (s : Dev) (pg : Nat) (mask raised : Word) :
    (s.evtClear pg mask raised).reg (ra pg 0x18) = ((s.reg (ra pg 0x18) &&& ~~~mask) ||| (raised &&& evtBits pg)) := by
  simp only [Dev.evtClear, reg_pageLook, reg_setReg]
  ext j hj
  simp only [BitVec.getElem_or, BitVec.getElem_and, BitVec.getElem_not]
  cases raised[j] <;> cases (evtBits pg)[j] <;> simp

theorem reg_evtClear_ne (s : Dev) (pg : Nat) (mask raised : Word) {key : Nat} (h : key ≠ ra pg 0x18) :
    (s.evtClear pg mask raised).reg key = s.reg key := by
  simp only [Dev.evtClear, reg_pageLook, reg_setReg_ne _ _ _ _ h]

theorem evtClear_cores (s : Dev) (pg : Nat) (mask raised : Word) : (s.evtClear pg mask raised).cores = s.cores := by
  simp [Dev.evtClear]

theorem getLsbD_reg_evt (s : Dev) (pg : Nat) {b : Nat} (hb : b < 32) : ((s.evt pg b).reg (ra pg 0x18)).getLsbD b = true := by
  rw [Dev.evt, reg_raise, BitVec.getLsbD_or, w32, BitVec.getLsbD_ofNat, Nat.testBit_two_pow_self]
  simp [hb]

/-! Locks (R14). -/

theorem locked_setLock_ne (s : Dev) {pg q : Nat} (b : Bool) (h : q ≠ pg) : (s.setLock pg b).locked q = s.locked q := by
  simp [Dev.locked, Dev.setLock, mget_mset_ne _ _ _ h]

/-! What a port signals (R442). -/

theorem port_modPort_ne (s : Dev) {p q : Port} (f : PciePort → PciePort) (h : q ≠ p) : (s.modPort p f).port q = s.port q := by
  cases p <;> cases q
  case A.A => exact absurd rfl h
  case B.B => exact absurd rfl h
  all_goals rfl

theorem vecCond_of {s t : Dev} (hr : t.regs = s.regs) (hc : t.crit = s.crit) (p : Port) (v : Nat) : t.vecCond p v = s.vecCond p v := by
  simp only [Dev.vecCond, reg_of_regs hr, visible_of_crit hc]

/-- A message that leaves stands at the end of what has left. -/
theorem sendMsix_out (s : Dev) (p : Port) (v : Nat) : ∃ x y, (s.sendMsix p v).out = s.out ++ [.msix p v x y] := by
  simp only [Dev.sendMsix, bump_out]
  exact ⟨_, _, rfl⟩

/-- A look at a vector withdraws nothing that has left. -/
theorem vecLook_out_mono (s : Dev) (p : Port) (v : Nat) (again : Bool) {x : Out} (h : x ∈ s.out) : x ∈ (s.vecLook p v again).out := by
  unfold Dev.vecLook
  extract_lets holds held s1
  have h1 : x ∈ s1.out := by rw [modPort_out]; exact h
  split
  · split
    · rw [modPort_out]; exact h1
    · obtain ⟨_, _, hout⟩ := sendMsix_out s1 p v
      rw [hout]; exact List.mem_append_left _ h1
  · exact h1

/-- A port that looks at a vector leaves the other port as it is. -/
theorem port_vecLook_ne (s : Dev) {p q : Port} (v : Nat) (again : Bool) (h : q ≠ p) : (s.vecLook p v again).port q = s.port q := by
  unfold Dev.vecLook
  extract_lets holds held s1
  have h1 : s1.port q = s.port q := port_modPort_ne s _ h
  split
  · split
    · rw [port_modPort_ne _ _ h, h1]
    · rw [port_sendMsix, h1]
  · exact h1

/-- Port `p` has noted vector `v` in `t`, given `s` before: sent where the vector is unmasked, pending where it is masked. -/
def Signalled (s t : Dev) (p : Port) (v : Nat) : Prop :=
  if s.vecMasked p v then (t.port p).pba.elem v = true else ∃ x y, .msix p v x y ∈ t.out

/-- A condition that a port newly sees is signalled when it looks. -/
theorem vecLook_signals (s : Dev) (p : Port) (v : Nat) (again : Bool) (hc : s.vecCond p v = true)
    (hnew : (s.port p).cond.elem v = false) : Signalled s (s.vecLook p v again) p v := by
  unfold Dev.vecLook Signalled
  extract_lets holds held s1
  rw [if_pos (show (holds && (again || !held)) = true by simp only [holds, held, hc, hnew, Bool.not_false, Bool.or_true, Bool.and_true])]
  cases hm : s.vecMasked p v
  · obtain ⟨x, y, hout⟩ := sendMsix_out s1 p v
    exact ⟨x, y, by simp [hout]⟩
  · simp only [if_true, port_modPort]
    split
    · assumption
    · simp

/-- When both ports look at the vector of a page, each that newly sees its condition signals it. -/
theorem pageLook_signals (s : Dev) (pg : Nat) (p : Port) (again : Bool) (hv : vectorOf pg < 791)
    (hc : s.vecCond p (vectorOf pg) = true) (hnew : (s.port p).cond.elem (vectorOf pg) = false) :
    Signalled s (s.pageLook pg again) p (vectorOf pg) := by
  unfold Dev.pageLook
  rw [if_pos hv]
  generalize vectorOf pg = v at hc hnew
  cases p with
  | A =>
    have hA := vecLook_signals s .A v again hc hnew
    unfold Signalled at hA ⊢
    cases hm : s.vecMasked .A v
    · obtain ⟨x, y, hout⟩ : ∃ x y, .msix .A v x y ∈ (s.vecLook .A v again).out := by simpa [hm] using hA
      exact ⟨x, y, vecLook_out_mono _ _ _ _ hout⟩
    · rw [port_vecLook_ne _ _ _ (by decide)]
      simpa [hm] using hA
  | B =>
    have hport : (s.vecLook .A v again).port .B = s.port .B := port_vecLook_ne s v again (by decide)
    have hB := vecLook_signals (s.vecLook .A v again) .B v again
      (by rw [vecCond_of (vecLook_regs _ _ _ _) (vecLook_crit _ _ _ _)]; exact hc) (by rw [hport]; exact hnew)
    unfold Signalled Dev.vecMasked at hB ⊢
    rwa [hport] at hB

/-- How many pages a kind has at most, as `pageKind` numbers them. -/
def instBound : PageKind → Nat
  | .core | .tile | .vec | .dma => 672
  | .pod => 84
  | .ls | .net | .pctl => 12
  | .link => 8
  | .vq | .spine => 4
  | _ => 0x21

/-- A page, where there is one, is numbered within its kind's bound. -/
def InstFits (x : Option (PageKind × Nat)) : Prop := ∀ y ∈ x, y.2 < instBound y.1

theorem instFits_some {k : PageKind} {i : Nat} (h : i < instBound k) : InstFits (some (k, i)) := by
  rintro _ ⟨⟩; exact h

theorem instFits_ite {c : Prop} [Decidable c] {x y : Option (PageKind × Nat)} (hx : c → InstFits x) (hy : InstFits y) :
    InstFits (if c then x else y) := by
  split
  · exact hx ‹_›
  · exact hy

theorem instFits_pageKind (pg : Nat) : InstFits (pageKind pg) := by
  unfold pageKind
  iterate 7 refine instFits_ite (fun h => instFits_some (by grind [instBound])) ?_
  refine instFits_ite (fun h => ?core) ?_
  case core =>
    have hn : (pg - 0x100) / 4 < 672 := by omega
    extract_lets n
    split
    all_goals exact instFits_some hn
  iterate 7 refine instFits_ite (fun h => instFits_some (by grind [instBound])) ?_
  rintro _ ⟨⟩

/-- Every page has a vector of the 791. -/
theorem vectorOf_lt {pg i : Nat} {k : PageKind} (hk : pageKind pg = some (k, i)) : vectorOf pg < 791 := by
  have hi : i < instBound k := instFits_pageKind pg _ hk
  simp only [vectorOf, hk]
  cases k <;> simp only [instBound] at hi ⊢ <;> omega

/-- An event forced on a page is signalled by each port that newly sees the vector's condition. -/
theorem evtForce_signals (s : Dev) {pg i : Nat} {k : PageKind} (hk : pageKind pg = some (k, i)) (mask : Word) (p : Port)
    (hc : (s.evtForce pg mask).vecCond p (vectorOf pg) = true) (hnew : (s.port p).cond.elem (vectorOf pg) = false) :
    Signalled s (s.evtForce pg mask) p (vectorOf pg) := by
  unfold Dev.evtForce Dev.raise at hc ⊢
  generalize mask &&& evtBits pg = m at hc ⊢
  have hport : (s.orReg (ra pg 0x18) m).port p = s.port p := port_orReg _ _ _ _
  rw [vecCond_of (pageLook_regs _ _ _) (pageLook_crit _ _ _)] at hc
  have hsig := pageLook_signals (s.orReg (ra pg 0x18) m) pg p false (vectorOf_lt hk) hc (by rw [hport]; exact hnew)
  unfold Signalled Dev.vecMasked at hsig ⊢
  rwa [hport] at hsig

/-! Reads that return all ones (R7). -/

section
variable (w : Writer) (a : Nat) (v : Word) (s : Dev)
@[simp] theorem emitRead_regs : (emitRead w a v s).regs = s.regs := by cases w <;> rfl
@[simp] theorem emitRead_latch : (emitRead w a v s).latch = s.latch := by cases w <;> rfl
@[simp] theorem emitRead_cores : (emitRead w a v s).cores = s.cores := by cases w <;> rfl
end

/-- What an access that is no aligned one of four bytes does where it arrives: ACCESS_ERR, and a read returns all ones. -/
def Dev.misalignedEnds (s : Dev) (w : Writer) (pg b : Nat) (write : Bool) : Dev :=
  if write then s.evt pg 31 else emitRead w b (BitVec.allOnes 32) (s.evt pg 31)

theorem misalignedEnds_frame (s : Dev) (w : Writer) (pg b : Nat) (write : Bool) :
    (s.misalignedEnds w pg b write).regs = (s.evt pg 31).regs ∧ (s.misalignedEnds w pg b write).latch = s.latch ∧
    (s.misalignedEnds w pg b write).cores = s.cores := by
  cases write <;> simp [Dev.misalignedEnds]

/-! The commands. -/

section
variable {s : State} {w : Writer} {pg : Nat}

theorem execMisalignedAccess_reaches (h : Reaches s w pg) {width b : Nat} (write : Bool) (hw : width ≠ 4 ∨ b % 4 ≠ 0)
    (hb : b / 4096 = pg) (h24 : b < 2 ^ 24) :
    ∃ c, exec (.misalignedAccess w (BitVec.ofNat 24 b) width write) s =
      .next { s with dev := (s.dev.recount c).misalignedEnds w pg b write } := by
  obtain ⟨c, hc⟩ := arrived_eq_recount s.dev w
  refine ⟨c, ?_⟩
  show execMisalignedAccess w _ width write s = _
  have hbad : ¬ (width = 4 ∧ b % 4 = 0) := by rintro ⟨h4, h0⟩; exact hw.elim (· h4) (· h0)
  have hd : s.dev.misaligned w b width write = (s.dev.recount c).misalignedEnds w pg b write := by
    unfold Dev.misaligned
    rw [if_neg hbad]
    simp only [hb, regGate_reaches h, hc, if_true]
    rfl
  rw [execMisalignedAccess, BitVec.toNat_ofNat, Nat.mod_eq_of_lt h24, onDev_alive _ _ h.1, hd]

/-- A write of a register with no behaviour of its own. -/
theorem execRegisterWrite_plain (h : Reaches s w pg) (hpg : pg < 4096) {o i : Nat} {k : PageKind} {d : RegDef} (v : Word)
    (hk : pageKind pg = some (k, i)) (hd : regDef k o = some d) (ho : o < 4096) (h4 : o % 4 = 0) (hp : Plain k o) :
    ∃ c, exec (.registerWrite w (BitVec.ofNat 24 (ra pg o)) v) s = .next { s with
      dev := (s.dev.recount c).plainStore pg o v (mergeReg d (s.dev.locked pg) (s.dev.reg (ra pg o)) v) } := by
  obtain ⟨c, hc⟩ := execRegisterWrite_reaches v h hpg ho h4
  refine ⟨c, ?_⟩
  have hw := dev_writeReg_plain (s.dev.recount c) s.sec.sensed.f4 (reaches_writer h) v hk hd ho hp (reaches_light h)
  rw [recount_locked, recount_reg] at hw
  rw [hc, state_writeReg_onDevice _ _ _ ho (plain_off_security hk hp), ← hw]
  rfl

/-- A write of a read-only place of the common part. -/
theorem execRegisterWrite_readOnly (h : Reaches s w pg) (hpg : pg < 4096) {o : Nat} (v : Word) (ho : o < 0x100) (h4 : o % 4 = 0)
    (hro : o ∉ [0x10, 0x18, 0x1C, 0x20, 0x28]) :
    ∃ c, exec (.registerWrite w (BitVec.ofNat 24 (ra pg o)) v) s = .next { s with dev := s.dev.recount c } := by
  have ho' : o < 4096 := by omega
  obtain ⟨k, i, hk⟩ := reaches_kind h
  obtain ⟨c, hc⟩ := execRegisterWrite_reaches v h hpg ho' h4
  refine ⟨c, ?_⟩
  rw [hc, state_writeReg_onDevice _ _ _ ho' (.inr ho), State.onDevice]
  simp [Dev.writeReg, ho', hk, reaches_light h, ho, commonWrite_readOnly _ _ _ ho' hro]

end

/-- A write to a page that the port does not see (R422). -/
theorem execRegisterWrite_hidden {s : State} {p : Port} {pg o : Nat} (v : Word) (hpg : pg < 4096) (ho : o < 4096) (h4 : o % 4 = 0)
    (ha : s.dev.alive = true) (hvis : s.dev.visible p pg = false) (hk : CritAgree s.dev (s.dev.gateKeys (.host p) pg)) :
    ∃ c, exec (.registerWrite (.host p) (BitVec.ofNat 24 (ra pg o)) v) s = .next { s with dev := s.dev.recount c } := by
  obtain ⟨c, hc⟩ := regGate_hidden s.dev p pg hvis hk
  refine ⟨c, ?_⟩
  show execRegisterWrite (.host p) _ v s = _
  simp [execRegisterWrite, toNat_ofNat_ra hpg ho, ra_mod_four h4, ho, State.pageAccess, ha, hc, -BitVec.toNat_ofNat]

end Sys2Proof.Machine

namespace Sys2Proof
open Sys2Proof.Machine

/-- Settles O48: each clause from the equation of its command on a page that is reached, or, for a page a port does not see, from
the gate. -/
theorem registerWritesFollowTheirCodes : Obligations.RegisterWritesFollowTheirCodes := by
  intro s w pg o v hpg ho h4 a onlyCounters
  refine ⟨fun h k i hk => ⟨fun d hd hp => ?plain, fun hlow hro => ?readOnly⟩, fun p ha hup hvis hcrit => ?hidden,
    fun h => ⟨?cntClear, fun mask raised => ?evtClear, fun mask => ?evtForce, ?lock, fun width write b hw hb h24 => ?misaligned⟩⟩
  case plain =>
    obtain ⟨c, ht⟩ := execRegisterWrite_plain h hpg v hk hd ho h4 hp
    obtain ⟨hregs, hcores, hcrit, hlocks⟩ := plainStore_frame (s.dev.recount c) pg o v
      (mergeReg d (s.dev.locked pg) (s.dev.reg (ra pg o)) v)
    refine ⟨_, ht, fun j hj => ?_, fun key hkey => ?_, hcores, hcrit, hlocks, rfl, ?_⟩
    · rw [reg_of_regs hregs, reg_setReg]
      exact getLsbD_mergeReg (regDef_codes_disjoint hd) _ _ _ hj
    · rw [reg_of_regs hregs, reg_setReg_ne _ _ _ _ hkey, recount_reg]
    · rintro rfl hv n hn
      simp only [Dev.plainStore, hv, if_true]
      exact ctr_cntClear _ pg hn
  case readOnly =>
    obtain ⟨c, ht⟩ := execRegisterWrite_readOnly h hpg v hlow h4 hro
    exact ⟨_, ht, c, rfl⟩
  case hidden =>
    obtain ⟨c, ht⟩ := execRegisterWrite_hidden v hpg ho h4 ha hvis hcrit
    exact ⟨_, ht, c, rfl⟩
  case cntClear =>
    obtain ⟨c, ht⟩ := pageCommand_reaches h hpg fun n d => d.cntClear n
    exact ⟨_, ht, fun n hn => ctr_cntClear _ pg hn, _, rfl⟩
  case evtClear =>
    obtain ⟨c, ht⟩ := pageCommand_reaches h hpg fun n d => d.evtClear n mask raised
    exact ⟨_, ht, reg_evtClear _ pg mask raised, fun key hkey => reg_evtClear_ne _ pg mask raised hkey, evtClear_cores _ _ _ _⟩
  case evtForce =>
    obtain ⟨k, i, hk⟩ := reaches_kind h
    obtain ⟨c, ht⟩ := pageCommand_reaches h hpg fun n d => d.evtForce n mask
    refine ⟨_, ht, reg_raise _ _ _, fun key hkey => reg_raise_ne _ _ _ _ hkey, raise_cores _ _ _, fun p hc hnew => ?_⟩
    have hsig := evtForce_signals (s.dev.recount c) hk mask p hc (by rw [recount_port]; exact hnew)
    unfold Signalled Dev.vecMasked at hsig
    rwa [recount_port] at hsig
  case lock =>
    obtain ⟨c, ht⟩ := pageCommand_reaches h hpg fun n d => d.setLock n true
    exact ⟨_, ht, locked_setLock _ _ _, fun q hq => locked_setLock_ne _ _ hq, rfl, rfl⟩
  case misaligned =>
    obtain ⟨c, ht⟩ := execMisalignedAccess_reaches h write hw hb h24
    obtain ⟨hregs, hlatch, hcores⟩ := misalignedEnds_frame (s.dev.recount c) w pg b write
    refine ⟨_, ht, ?_, fun key hkey => ?_, hlatch, hcores, ?_⟩
    · unfold EvtUp
      rw [reg_of_regs hregs]
      exact getLsbD_reg_evt _ pg (by decide)
    · rw [reg_of_regs hregs, reg_evt_ne _ _ _ _ hkey, recount_reg]
    · rintro p rfl rfl
      exact List.getLast?_concat ..

end Sys2Proof
end

section
/-! PROOFS. Accumulation: what a row that takes effect leaves in the accumulators, in its array, in its core and elsewhere. -/
namespace Sys2Proof.Machine
open Sys2Proof

/-! One row over the accumulators (R53). -/

/-- The exact sum X that a row in flight meets in a column (R53). -/
def RowJob.sum (j : RowJob) (col : Nat) : Val :=
  columnSum ((arrClass j.fmt).getD 0) (passVals j.fmt j.kh j.row) (passVals (j.plane.fmt.getD 0) j.plane.kh (lget {} j.plane.rows col))

/-- A row's update of one column, with its class and activations. -/
def RowJob.column (j : RowJob) : SMap Word × Nat × Nat → Nat → SMap Word × Nat × Nat :=
  accColumn ((arrClass j.fmt).getD 0) (passVals j.fmt j.kh j.row) j

theorem accRow_eq (acc : SMap Word) (j : RowJob) : accRow acc j = (upFrom 0 32).foldl j.column (acc, 0, 0) := rfl

theorem mget_column (j : RowJob) (m : SMap Word × Nat × Nat) (n key : Nat) :
    mget (fun _ => 0) (j.column m n).1 key =
      if key = 256 * n + j.entry then accNew j.accum (mget (fun _ => 0) m.1 (256 * n + j.entry)) (j.sum n)
      else mget (fun _ => 0) m.1 key :=
  mget_mset ..

/-- A run of columns updates the row's entry in each of its columns, from what the entry held before, and no other entry. -/
theorem mget_foldl_column (j : RowJob) (hj : j.entry < 256) {e : Nat} (he : e < 256) (col lo k : Nat) (m : SMap Word × Nat × Nat) :
    mget (fun _ => 0) ((upFrom lo k).foldl j.column m).1 (256 * col + e) =
      if (lo ≤ col ∧ col < lo + k) ∧ e = j.entry then accNew j.accum (mget (fun _ => 0) m.1 (256 * col + e)) (j.sum col)
      else mget (fun _ => 0) m.1 (256 * col + e) := by
  induction k generalizing lo m with
  | zero => rw [if_neg (by omega)]; rfl
  | succ k ih =>
    rw [upFrom, List.foldl_cons, ih, mget_column]
    by_cases hkey : 256 * col + e = 256 * lo + j.entry
    · obtain ⟨rfl, rfl⟩ : col = lo ∧ e = j.entry := by omega
      rw [if_neg (by omega), if_pos rfl, if_pos (by omega)]
    · have hcols : ((lo + 1 ≤ col ∧ col < lo + 1 + k) ∧ e = j.entry) ↔ ((lo ≤ col ∧ col < lo + (k + 1)) ∧ e = j.entry) := by omega
      simp only [if_neg hkey, hcols]

/-- A row updates its entry in each of the 32 columns and no other entry. -/
theorem mget_accRow (acc : SMap Word) (j : RowJob) (hj : j.entry < 256) {col e : Nat} (hcol : col < 32) (he : e < 256) :
    mget (fun _ => 0) (accRow acc j).1 (256 * col + e) =
      if e = j.entry then accNew j.accum (mget (fun _ => 0) acc (256 * col + e)) (j.sum col)
      else mget (fun _ => 0) acc (256 * col + e) := by
  have hcols : ((0 ≤ col ∧ col < 0 + 32) ∧ e = j.entry) ↔ e = j.entry := by omega
  rw [accRow_eq, mget_foldl_column j hj he]
  simp only [hcols]

/-! The core in which a row takes effect. -/

/-- The core after row `j` of array `a` has taken effect and `rest` are still in flight. -/
def Core.rowTaken (c : Core) (a : Nat) (j : RowJob) (rest : List RowJob) : Core :=
  (c.modArr a fun x => { x with acc := (accRow x.acc j).1, rows := rest }).readThrough a rest

section
variable (c : Core) (a : Nat) (j : RowJob) (rest : List RowJob)

@[simp] theorem rowTaken_sp : (c.rowTaken a j rest).sp = c.sp := rfl
@[simp] theorem rowTaken_imemX : (c.rowTaken a j rest).imemX = c.imemX := rfl
@[simp] theorem rowTaken_imemA : (c.rowTaken a j rest).imemA = c.imemA := rfl
@[simp] theorem rowTaken_vault : (c.rowTaken a j rest).vault = c.vault := rfl
@[simp] theorem rowTaken_arrs_length : (c.rowTaken a j rest).arrs.length = c.arrs.length := lset_length ..

variable {a} (h : a < c.arrs.length)
include h

theorem rowTaken_arr : (c.rowTaken a j rest).arr a = { c.arr a with acc := (accRow (c.arr a).acc j).1, rows := rest } :=
  (lget_lset _ _ _ _ _ h).trans (if_pos rfl)

theorem rowTaken_arr_ne {b : Nat} (hb : b ≠ a) : (c.rowTaken a j rest).arr b = c.arr b :=
  (lget_lset _ _ _ _ _ h).trans (if_neg hb)

end

/-! The part. -/

/-- A device step that keeps the other cores and the fields of `SameDev` changes nothing elsewhere. -/
theorem sameElsewhere_of_sameDev (s : State) {d : Dev} {n : Nat} (hm : ∀ m, m ≠ n → d.core m = s.dev.core m) (hd : SameDev s.dev d) :
    SameElsewhere s { s with dev := d } n := by
  obtain ⟨-, -, -, hpodz, hpartz, hlinks, hlatch, hcrit, hlocks, hbot, -, -, -, hnet, hpower, -⟩ := hd
  exact ⟨hm, hpodz, hpartz, hlinks, hcrit, hlocks, hbot, hnet, hpower, hlatch, rfl, rfl⟩

/-- A core runs on where a device step keeps the fields of `SameDev`. -/
theorem running_of_sameDev {s : State} {d : Dev} {n : Nat} (hd : SameDev s.dev d) (h : Running s n) : Running { s with dev := d } n := by
  obtain ⟨hpwrok, hreleased, htripped, hpodz, -⟩ := hd
  obtain ⟨halive, hclocked⟩ := h
  exact ⟨(alive_of_pwrok hpwrok hreleased htripped).trans halive, (clocked_of_podz hpodz n).trans hclocked⟩

section
variable (s : Dev)

theorem orReg_same (key : Nat) (m : Word) : SameDev s (s.orReg key m) := by
  simp [SameDev]

theorem stick_same (n bit e : Nat) : SameDev s (s.stick n bit e) := by
  unfold Dev.stick
  extract_lets pg
  split
  · exact SameDev.refl s
  · exact (orReg_same s _ _).trans (evt_same _ _ _)

theorem stick_cores (n bit e : Nat) : (s.stick n bit e).cores = s.cores := by
  unfold Dev.stick
  extract_lets pg
  split
  · rfl
  · rw [evt_cores, orReg_cores]

/-- Counting `k` occurrences and raising their sticky bit, where there were any (R57). -/
def Dev.stickCount (n i k bit e : Nat) : Dev := if k = 0 then s else (s.bump (corePg n 1) i k).stick n bit e

theorem stickCount_same (n i k bit e : Nat) : SameDev s (s.stickCount n i k bit e) := by
  unfold Dev.stickCount
  split
  · exact SameDev.refl s
  · exact (bump_same s _ _ _).trans (stick_same _ _ _ _)

theorem stickCount_cores (n i k bit e : Nat) : (s.stickCount n i k bit e).cores = s.cores := by
  unfold Dev.stickCount
  split
  · rfl
  · rw [stick_cores, bump_cores]

theorem core_stickCount (n i k bit e m : Nat) : (s.stickCount n i k bit e).core m = s.core m :=
  core_of_cores (stickCount_cores s n i k bit e) m

variable {s} {n a : Nat} {j : RowJob} {rest : List RowJob}

/-- The oldest row takes effect in its core; overflows and NaNs are then counted. -/
theorem accUpdate_cons (h : ((s.core n).arr a).rows = j :: rest) : ∃ ovf nan, s.accUpdate n a =
    ((s.modCore n fun c => c.rowTaken a j rest).stickCount n 4 ovf a 0).stickCount n 5 nan (4 + a) 1 := by
  refine ⟨(accRow ((s.core n).arr a).acc j).2.1, (accRow ((s.core n).arr a).acc j).2.2, ?_⟩
  simp only [Dev.accUpdate, h, Dev.stickCount, Dev.modCore, Core.rowTaken, Core.modArr]

theorem accUpdate_core (h : ((s.core n).arr a).rows = j :: rest) : (s.accUpdate n a).core n = (s.core n).rowTaken a j rest := by
  obtain ⟨ovf, nan, hs⟩ := accUpdate_cons h
  rw [hs, core_stickCount, core_stickCount, core_modCore]

theorem accUpdate_core_ne (h : ((s.core n).arr a).rows = j :: rest) {m : Nat} (hm : m ≠ n) :
    (s.accUpdate n a).core m = s.core m := by
  obtain ⟨ovf, nan, hs⟩ := accUpdate_cons h
  rw [hs, core_stickCount, core_stickCount, core_modCore_ne _ _ _ _ hm]

theorem accUpdate_same (h : ((s.core n).arr a).rows = j :: rest) : SameDev s (s.accUpdate n a) := by
  obtain ⟨ovf, nan, hs⟩ := accUpdate_cons h
  rw [hs]
  exact (modCore_same s n _).trans ((stickCount_same _ _ _ _ _ _).trans (stickCount_same _ _ _ _ _ _))

end

/-- ACC_UPDATE on a running core: the step it takes. -/
theorem exec_accUpdate {s : State} {n : Nat} (hrun : Running s n) (a : Nat) :
    exec (.accUpdate n a) s = .next { s with dev := s.dev.accUpdate n a } := by
  obtain ⟨halive, hclocked⟩ := hrun
  show execAccUpdate n a s = _
  rw [execAccUpdate, onCore_on _ _ _ halive hclocked]

end Sys2Proof.Machine

namespace Sys2Proof
open Sys2Proof.Machine

/-- Settles O11: the oldest row through `mget_accRow`, and the second row by the same lemma over the accumulators the first one left. -/
theorem accumulatorsUpdate : Obligations.AccumulatorsUpdate := by
  intro s n a j rest hrun ha hlen hrows hj old x
  have hcore := accUpdate_core hrows
  have hsame := accUpdate_same hrows
  have harr := rowTaken_arr (s.dev.core n) j rest (a := a) (by omega)
  rw [← hcore] at harr
  refine ⟨_, exec_accUpdate hrun a, by rw [harr], fun col e hcol he => ?entries, fun b hb => ?arrays, ?memories,
    sameElsewhere_of_sameDev s (fun m hm => accUpdate_core_ne hrows hm) hsame, fun j2 rest2 hrest hentry => ?second⟩
  case entries =>
    rw [harr]
    exact mget_accRow _ j hj hcol he
  case arrays =>
    rw [hcore, rowTaken_arr_ne _ _ _ (by omega) hb]
  case memories =>
    simp [SameMemories, hcore]
  case second =>
    have hrows2 : (((s.dev.accUpdate n a).core n).arr a).rows = j2 :: rest2 := by rw [harr, ← hrest]
    have harr2 := rowTaken_arr ((s.dev.accUpdate n a).core n) j2 rest2 (a := a) (by rw [hcore, rowTaken_arrs_length]; omega)
    rw [← accUpdate_core hrows2] at harr2
    refine ⟨_, exec_accUpdate (running_of_sameDev hsame hrun) a, by rw [harr2], fun col hcol => ?_⟩
    rw [harr2, mget_accRow _ j2 (by omega) hcol hj, if_pos hentry.symm, harr, mget_accRow _ j hj hcol hj, if_pos rfl]
    rfl

end Sys2Proof
end

section
/-! PROOFS. Fuses: what a burn, a start and the security block's commands do to the fuse array and to what was sensed of it, and that
every other command changes the device alone. -/
namespace Sys2Proof.Machine
open Sys2Proof

/-! Commands of the device alone. -/

/-- The outcome changes the device and neither the security block nor the queue. -/
def DeviceOnly (s : State) (r : Host.Outcome State Fault Refusal) : Prop := ∃ d, r = .next { s with dev := d }

section
variable (s : State)

theorem deviceOnly_next (d : Dev) : DeviceOnly s (.next { s with dev := d }) := ⟨d, rfl⟩

theorem deviceOnly_self : DeviceOnly s (.next s) := deviceOnly_next s s.dev

theorem deviceOnly_ite {p : Prop} [Decidable p] {t u : State} (ht : DeviceOnly s (.next t)) (hu : DeviceOnly s (.next u)) :
    DeviceOnly s (.next (if p then t else u)) := by
  split
  · exact ht
  · exact hu

theorem deviceOnly_onDev (f : Dev → Dev) : DeviceOnly s (.next (s.onDev f)) :=
  deviceOnly_ite s (deviceOnly_next s _) (deviceOnly_self s)

theorem deviceOnly_smbus (code len : Nat) (block pec : Bool) (keys : List Nat) (v : Dev → Nat) :
    DeviceOnly s (.next (s.smbus code len block pec keys v)) :=
  deviceOnly_ite s (deviceOnly_next s _) (deviceOnly_self s)

theorem deviceOnly_readOut (w : Writer) (a : Nat) : DeviceOnly s (.next (s.readOut w a)) :=
  deviceOnly_ite s (deviceOnly_next s _) (deviceOnly_next s _)

theorem deviceOnly_hostRead (p : Port) (a : Nat) : DeviceOnly s (.next (s.hostRead p a)) := by
  refine deviceOnly_ite s (deviceOnly_self s) (deviceOnly_ite s ?_ (deviceOnly_next s _))
  obtain ⟨d, hd⟩ := deviceOnly_readOut { s with dev := (s.dev.bump (pciePg p) 2 1).critSeen (s.dev.gateKeys (.host p) (a / 4096)) }
    (.host p) a
  exact ⟨d, hd⟩

end

/-- A command that is none of the security block's, start-up's, the test port's, nor a register write changes the device alone. The
commands that act on a part that is not released, and the reads of registers, come first; all others go through `State.onDev`. -/
theorem exec_deviceOnly (c : Instr) (s : State) (hc : touchesSecurity c = false) : DeviceOnly s (exec c s) := by
  cases c
  case registerWrite | advance | progKey | revoke | svnBurn | fuseBurnDone | attCmd | attReport | tokenData | tokenCmd | tokenDone
      | pwrokRise | pwrokFall | railDrop | extest | samplePreload | highz | clamp | bootStatus | tokenLoad | tokenStatus
      | testInstruction | debugAccess | bypass | tapReset => cases hc
  case counterLatch | autoincRead => exact deviceOnly_ite s (deviceOnly_hostRead s _ _) (deviceOnly_self s)
  case ident | lifecycle | status | pkgPower | profile | tempLogic | tempT0 | tempT1 | parts | retired | alertMaskRead =>
    exact deviceOnly_smbus s _ _ _ _ _ _
  case alertMaskWrite =>
    exact deviceOnly_ite s (deviceOnly_self s) (deviceOnly_ite s (deviceOnly_next s _) (deviceOnly_next s _))
  case alertResponse | smbusOtherCommand => exact deviceOnly_ite s (deviceOnly_next s _) (deviceOnly_self s)
  case configurationRequest | pcieLinkUp | perstRelease => exact deviceOnly_next s _
  case pwrCapN => exact deviceOnly_ite s (deviceOnly_next s _) (deviceOnly_next s _)
  case portReset =>
    exact deviceOnly_ite s (deviceOnly_next s _) (deviceOnly_ite s (deviceOnly_next s _) (deviceOnly_self s))
  all_goals exact deviceOnly_onDev s _

/-! Burns (R454, R470). -/

theorem fusesWithin_refl (a : Fuses) : FusesWithin a a :=
  ⟨le_rfl, le_rfl, fun _ _ h => h, fun _ _ => ⟨id, id⟩, rfl, rfl, rfl⟩

theorem fusesWithin_trans {a b c : Fuses} (hab : FusesWithin a b) (hbc : FusesWithin b c) : FusesWithin a c := by
  obtain ⟨hsvn, hlife, hrevoke, hkeys, hf4, hsrc, hdef⟩ := hab
  obtain ⟨hsvn', hlife', hrevoke', hkeys', hf4', hsrc', hdef'⟩ := hbc
  exact ⟨hsvn.trans hsvn', hlife.trans hlife', fun i hi h => hrevoke' i hi (hrevoke i hi h),
    fun i hi => ⟨fun h => (hkeys' i hi).1 ((hkeys i hi).1 h), fun h => (hkeys' i hi).2 ((hkeys i hi).2 h)⟩,
    hf4.trans hf4', hsrc.trans hsrc', hdef.trans hdef'⟩

theorem getLsbD_or_of_left {n i : Nat} {x : BitVec n} (y : BitVec n) (h : x.getLsbD i = true) : (x ||| y).getLsbD i = true := by
  simp [h]

/-- A burn only adds to the fuses. -/
theorem fusesWithin_apply (f : Fuses) (b : Burn) : FusesWithin f (b.apply f) := by
  cases b with
  | key slot v =>
    simp only [Burn.apply]
    split
    · exact ⟨le_rfl, le_rfl, fun _ _ h => h, fun _ _ => ⟨getLsbD_or_of_left v, id⟩, rfl, rfl, rfl⟩
    · exact ⟨le_rfl, le_rfl, fun _ _ h => h, fun _ _ => ⟨id, getLsbD_or_of_left v⟩, rfl, rfl, rfl⟩
  | revoke slot => exact ⟨le_rfl, le_rfl, fun _ _ => getLsbD_or_of_left _, fun _ _ => ⟨id, id⟩, rfl, rfl, rfl⟩
  | svn n => exact ⟨le_max_left _ _, le_rfl, fun _ _ h => h, fun _ _ => ⟨id, id⟩, rfl, rfl, rfl⟩

/-- A life-cycle bit that is burnt only adds to the fuses (R469). -/
theorem fusesWithin_life (f : Fuses) (target : Nat) : FusesWithin f { f with life := max f.life target } :=
  ⟨le_rfl, le_max_left _ _, fun _ _ h => h, fun _ _ => ⟨id, id⟩, rfl, rfl, rfl⟩

/-! What keeps the fuses and what was sensed of them. -/

/-- The fuse array and what was sensed of it are the same. -/
structure SameFuses (a b : Sec) : Prop where
  fuses : b.fuses = a.fuses
  sensed : b.sensed = a.sensed

theorem SameFuses.refl (a : Sec) : SameFuses a a := ⟨rfl, rfl⟩

theorem SameFuses.trans {a b c : Sec} (hab : SameFuses a b) (hbc : SameFuses b c) : SameFuses a c :=
  ⟨hbc.fuses.trans hab.fuses, hbc.sensed.trans hab.sensed⟩

/-- It makes no difference what device and queue stand beside the security block. -/
theorem SameFuses.state {a b : Sec} (h : SameFuses a b) (d : Dev) (q : List Instr) : SameFuses a (State.mk d b q).sec := h

theorem sameFuses_ite {p : Prop} [Decidable p] {a : Sec} {t u : State} (ht : SameFuses a t.sec) (hu : SameFuses a u.sec) :
    SameFuses a (if p then t else u).sec := by
  split
  · exact ht
  · exact hu

/-- An access to a page does its work, or nothing but count, on a state with the same security block. -/
theorem pageAccess_cases (s : State) (w : Writer) (pg : Nat) (f : State → State) :
    (∃ d, s.pageAccess w pg f = { s with dev := d }) ∨ ∃ d, s.pageAccess w pg f = f { s with dev := d } := by
  unfold State.pageAccess
  extract_lets g
  split
  · exact .inl ⟨s.dev, rfl⟩
  · split
    · exact .inr ⟨g.1, rfl⟩
    · exact .inl ⟨g.1, rfl⟩

theorem secAccess_eq_pageAccess (s : State) (w : Writer) (f : State → State) : s.secAccess w f = s.pageAccess w secPg f := rfl

theorem sameFuses_pageAccess (s : State) (w : Writer) (pg : Nat) {f : State → State} (hf : ∀ u, SameFuses u.sec (f u).sec) :
    SameFuses s.sec (s.pageAccess w pg f).sec := by
  obtain ⟨d, hd⟩ | ⟨d, hd⟩ := pageAccess_cases s w pg f
  · rw [hd]; exact SameFuses.refl _
  · rw [hd]; exact hf { s with dev := d }

theorem sameFuses_tap (s : State) {f : State → State} (hf : SameFuses s.sec (f s).sec) : SameFuses s.sec (s.tap f).sec :=
  sameFuses_ite hf (SameFuses.refl _)

section
variable (s : State) (w : Writer)

theorem sameFuses_onDevice (f : Dev → Dev) : SameFuses s.sec (s.onDevice f).sec := ⟨rfl, rfl⟩

theorem lcResult_sec (r : Nat) : (s.lcResult w r).sec = s.sec := rfl

theorem sameFuses_lcResult (r : Nat) : SameFuses s.sec (s.lcResult w r).sec := sameFuses_onDevice s _

/-- A burn that starts stands beside the fuses, not in them (R470). -/
theorem sameFuses_burnStart (b : Burn) : SameFuses s.sec (s.burnStart w b).sec := by
  rw [State.burnStart, lcResult_sec]
  exact ⟨rfl, rfl⟩

theorem sameFuses_progKey (slot : Nat) : SameFuses s.sec (s.progKey w slot).sec :=
  sameFuses_ite (sameFuses_lcResult s w _) (sameFuses_ite (sameFuses_lcResult s w _)
    (sameFuses_ite (sameFuses_lcResult s w _) (sameFuses_burnStart s w _)))

theorem sameFuses_revokeKey (slot : Nat) : SameFuses s.sec (s.revokeKey w slot).sec :=
  sameFuses_ite (sameFuses_lcResult s w _) (sameFuses_ite (sameFuses_lcResult s w _)
    (sameFuses_ite (sameFuses_lcResult s w _) (sameFuses_burnStart s w _)))

theorem sameFuses_svnBurn (v : Nat) : SameFuses s.sec (s.svnBurn w v).sec :=
  sameFuses_ite (sameFuses_lcResult s w _) (sameFuses_ite (sameFuses_lcResult s w _)
    (sameFuses_ite (sameFuses_lcResult s w _) (sameFuses_ite (sameFuses_lcResult s w _) (sameFuses_burnStart s w _))))

theorem sameFuses_tokenPut (p : Port) (v : Word) : SameFuses s.sec (s.tokenPut p v).sec := by
  cases p <;> exact ⟨rfl, rfl⟩

theorem sameFuses_tokenSubmit (src : TokenSrc) (x : Bytes) : SameFuses s.sec (s.tokenSubmit src x).sec := ⟨rfl, rfl⟩

theorem sameFuses_tokenGo : SameFuses s.sec (s.tokenGo w).sec := by
  unfold State.tokenGo
  split
  · exact sameFuses_tokenSubmit s _ _
  · exact sameFuses_tokenSubmit s _ _

theorem sameFuses_tokenDone : SameFuses s.sec s.tokenDone.sec := by
  unfold State.tokenDone
  split
  · exact SameFuses.refl _
  · exact ⟨rfl, rfl⟩

theorem sameFuses_attGo : SameFuses s.sec (s.attGo w).sec := by
  unfold State.attGo
  extract_lets p d a
  split
  · exact sameFuses_onDevice s _
  · split
    · exact sameFuses_onDevice s _
    · exact ⟨rfl, rfl⟩

theorem sameFuses_attReport : SameFuses s.sec s.attReport.sec := by
  unfold State.attReport
  split
  · exact SameFuses.refl _
  · exact sameFuses_ite (SameFuses.refl _) ⟨rfl, rfl⟩

/-- LC_CMD written: its burns only start. -/
theorem sameFuses_lcCmd (v : Nat) : SameFuses s.sec (s.lcCmd w v).sec := by
  unfold State.lcCmd
  split
  · exact SameFuses.refl _
  · exact sameFuses_progKey s w _
  · exact sameFuses_revokeKey s w _
  · exact sameFuses_svnBurn s w _
  · exact sameFuses_lcResult s w _

theorem sameFuses_writeReg (a : Nat) (v : Word) : SameFuses s.sec (s.writeReg w a v).sec :=
  sameFuses_ite (sameFuses_lcCmd s w _)
    (sameFuses_ite (sameFuses_ite ((sameFuses_tokenPut s _ v).trans (sameFuses_tokenPut _ .B v)) (sameFuses_tokenPut s _ v))
      (sameFuses_ite (sameFuses_ite (sameFuses_tokenGo s w) (SameFuses.refl _))
        (sameFuses_ite (sameFuses_ite (sameFuses_attGo s w) (SameFuses.refl _)) (sameFuses_onDevice s _))))

theorem sameFuses_readOut (a : Nat) : SameFuses s.sec (s.readOut w a).sec :=
  sameFuses_ite (SameFuses.refl _) (SameFuses.refl _)

/-! The test port (R476, R477). -/

theorem sameFuses_select (ir : Byte) (mode : Nat) : SameFuses s.sec (s.select ir mode).sec := ⟨rfl, rfl⟩

theorem sameFuses_testWiped (a : Sec) (b : Bool) : SameFuses a { a with testWiped := b } := ⟨rfl, rfl⟩

theorem sameFuses_debugDo (write : Bool) (a : Nat) (v : Word) : SameFuses s.sec (s.debugDo write a v).sec :=
  sameFuses_ite (sameFuses_onDevice s _) (sameFuses_ite (sameFuses_ite (SameFuses.refl _) (sameFuses_onDevice s _))
    (sameFuses_ite ((sameFuses_onDevice s _).trans (sameFuses_writeReg _ .jtag a v))
      ((sameFuses_onDevice s _).trans (sameFuses_readOut _ .jtag a))))

/-! Start-up (R450 to R466). -/

theorem sameFuses_applyRec (r : RecOp) : SameFuses s.sec (s.applyRec r).sec := by
  cases r with
  | write a v => exact sameFuses_ite (sameFuses_onDevice s _) (sameFuses_writeReg s .record a v)
  | ids p v => exact sameFuses_onDevice s _

theorem sameFuses_applyRecs (rs : List RecOp) : SameFuses s.sec (rs.foldl (fun (s : State) x => s.applyRec x) s).sec := by
  induction rs generalizing s with
  | nil => exact SameFuses.refl _
  | cons r rs ih => exact (sameFuses_applyRec s r).trans (ih _)

theorem sameFuses_bootRun (l : List Byte) (ovl : Nat) (failing : List (Nat × BitVec 4)) :
    SameFuses s.sec (s.bootRun l ovl failing).sec :=
  (sameFuses_applyRecs s _).trans ((sameFuses_onDevice _ _).trans (sameFuses_onDevice _ _))

theorem sameFuses_bootRegs (l : List Byte) (ovl prim img : Nat) (f : Flash) (straps : Nat) :
    SameFuses s.sec (s.bootRegs l ovl prim img f straps).sec := by
  unfold State.bootRegs
  extract_lets
  have hslot : SameFuses s.sec { s.sec with keySlot := imgNat l 0x10 1 } := ⟨rfl, rfl⟩
  exact hslot.state _ _

theorem sameFuses_bootFail (err prim img : Nat) (f : Flash) (straps : Nat) :
    SameFuses s.sec (s.bootFail err prim img f straps).sec := sameFuses_onDevice s _

/-- Start-up after sensing, whatever the flash holds and whether or not it releases the part, keeps the fuses. -/
theorem sameFuses_bootFlash (f : Flash) (straps : Nat) (failing : List (Nat × BitVec 4)) :
    SameFuses s.sec (s.bootFlash f straps failing).sec := by
  unfold State.bootFlash
  extract_lets e s1 o1 c1 s2 o2 c2 s3
  have hs2 : SameFuses s.sec s2.sec := (sameFuses_onDevice s _).trans (sameFuses_onDevice s1 _)
  have hs3 : SameFuses s.sec s3.sec := hs2.trans (sameFuses_onDevice s2 _)
  split
  · exact sameFuses_bootFail s _ _ _ f straps
  · split
    · exact hs2.trans ((sameFuses_bootRegs s2 _ _ _ _ f straps).trans (sameFuses_bootRun _ _ _ failing))
    · split
      · exact hs3.trans ((sameFuses_bootRegs s3 _ _ _ _ f straps).trans
          ((sameFuses_onDevice _ _).trans (sameFuses_bootRun _ _ _ failing)))
      · exact hs3.trans (sameFuses_bootFail s3 _ _ _ f straps)

end

/-! What a command does to the fuses. -/

/-- What command `c` may do to the fuses: burn some, if it is one of those that can, and have them sensed again. -/
structure FuseStep (c : Instr) (a b : Sec) : Prop where
  grows : FusesWithin a.fuses b.fuses
  sensed : b.sensed = a.sensed ∨ b.sensed = b.fuses
  kept : burnsFuses c = false → b.fuses = a.fuses

theorem SameFuses.fuseStep {a b : Sec} (h : SameFuses a b) (c : Instr) : FuseStep c a b :=
  ⟨h.fuses ▸ fusesWithin_refl _, .inl h.sensed, fun _ => h.fuses⟩

/-- What stood sensed stays burnt. -/
theorem FuseStep.sensed_within {c : Instr} {a b : Sec} (h : FuseStep c a b) (hinv : FusesWithin a.sensed a.fuses) :
    FusesWithin b.sensed b.fuses := by
  obtain hold | hnew := h.sensed
  · rw [hold]; exact fusesWithin_trans hinv h.grows
  · rw [hnew]; exact fusesWithin_refl _

/-- A start that senses the array as it stands in `s`, some fuses more burnt than before, and runs on. -/
theorem fuseStep_sense {c : Instr} {a : Sec} (s : State) (hgrows : FusesWithin a.fuses s.sec.fuses)
    (hkept : burnsFuses c = false → s.sec.fuses = a.fuses) (keep : Bool) (f : Flash) (straps : Nat) (failing : List (Nat × BitVec 4)) :
    FuseStep c a ((s.sense keep).bootFlash f straps failing).sec := by
  obtain ⟨hfuses, hsensed⟩ := sameFuses_bootFlash (s.sense keep) f straps failing
  have harray : ((s.sense keep).bootFlash f straps failing).sec.fuses = s.sec.fuses := hfuses
  exact ⟨harray ▸ hgrows, .inr (hsensed.trans hfuses.symm), fun hc => harray.trans (hkept hc)⟩

theorem fuseStep_pwrokRise (s : State) (f : Flash) (straps : BitVec 2) (failing : List (Nat × BitVec 4)) :
    FuseStep (.pwrokRise f straps failing) s.sec
      (if s.dev.pwrok then s else (s.sense false).bootFlash f straps.toNat failing).sec := by
  split
  · exact (SameFuses.refl _).fuseStep _
  · exact fuseStep_sense s (fusesWithin_refl _) (fun _ => rfl) false f _ failing

/-- A loss of power takes a burn under way as done or as not begun (R455). -/
theorem powerDown_fuses (s : State) :
    s.powerDown.sec.fuses = s.sec.fuses ∨ ∃ b, s.sec.burn = some b ∧ s.powerDown.sec.fuses = b.apply s.sec.fuses := by
  unfold State.powerDown
  split
  · exact .inl rfl
  · cases hburn : s.sec.burn with
    | none => exact .inl rfl
    | some b =>
      by_cases hfree : s.dev.take.1.getLsbD 0 = true
      · exact .inr ⟨b, rfl, if_pos hfree⟩
      · exact .inl (if_neg hfree)

/-- A loss of power keeps what was sensed, or leaves what the array holds. -/
theorem powerDown_sensed (s : State) : s.powerDown.sec.sensed = s.sec.sensed ∨ s.powerDown.sec.sensed = s.powerDown.sec.fuses := by
  unfold State.powerDown
  split
  · exact .inl rfl
  · exact .inr rfl

theorem fuseStep_powerDown (s : State) {c : Instr} (hc : burnsFuses c = true) : FuseStep c s.sec s.powerDown.sec := by
  refine ⟨?_, powerDown_sensed s, fun h => by simp [hc] at h⟩
  obtain hold | ⟨b, -, hnew⟩ := powerDown_fuses s
  · rw [hold]; exact fusesWithin_refl _
  · rw [hnew]; exact fusesWithin_apply _ b

theorem fuseStep_burnDone (s : State) : FuseStep .fuseBurnDone s.sec s.burnDone.sec := by
  unfold State.burnDone
  split
  next b _ => exact ⟨fusesWithin_apply _ b, .inl rfl, nofun⟩
  next => exact (SameFuses.refl _).fuseStep _

/-- ADVANCE: refused, nothing is burnt; accepted, the new life-cycle state is burnt and sensed (R469). -/
theorem fuseStep_advance (s : State) {c : Instr} (hc : burnsFuses c = true) (w : Writer) (target : Nat) (bad : List (Nat × Nat))
    (f : Flash) (straps : Nat) (failing : List (Nat × BitVec 4)) :
    FuseStep c s.sec (s.advance w target bad f straps failing).sec := by
  unfold State.advance
  extract_lets
  split
  · exact (sameFuses_lcResult s w _).fuseStep c
  · exact fuseStep_sense _ (fusesWithin_life _ target) (fun h => by simp [hc] at h) true f straps failing

theorem next_sameFuses {a : Sec} {t : State} {c : Instr} (h : SameFuses a t.sec) :
    ∃ u, (.next t : Host.Outcome State Fault Refusal) = .next u ∧ FuseStep c a u.sec := ⟨t, rfl, h.fuseStep c⟩

/-- A command that touches the security block does to the fuses only what `FuseStep` allows it. -/
theorem exec_security_fuseStep (c : Instr) (s : State) (hc : touchesSecurity c = true) :
    ∃ t, exec c s = .next t ∧ FuseStep c s.sec t.sec := by
  cases c
  case registerWrite w addr v =>
    exact next_sameFuses (sameFuses_ite (sameFuses_pageAccess s w _ fun u => sameFuses_writeReg u w _ v) (SameFuses.refl _))
  case advance w target f straps failing bad =>
    refine ⟨_, rfl, ?_⟩
    obtain ⟨d, hd⟩ | ⟨d, hd⟩ := pageAccess_cases s w secPg fun u => u.advance w target.toNat bad f straps.toNat failing
    · rw [secAccess_eq_pageAccess, hd]; exact (SameFuses.refl _).fuseStep _
    · rw [secAccess_eq_pageAccess, hd]; exact fuseStep_advance { s with dev := d } rfl w _ bad f _ failing
  case progKey w slot => exact next_sameFuses (sameFuses_pageAccess s w secPg fun u => sameFuses_progKey u w _)
  case revoke w slot => exact next_sameFuses (sameFuses_pageAccess s w secPg fun u => sameFuses_revokeKey u w _)
  case svnBurn w count => exact next_sameFuses (sameFuses_pageAccess s w secPg fun u => sameFuses_svnBurn u w _)
  case fuseBurnDone => exact ⟨_, rfl, fuseStep_burnDone s⟩
  case attCmd w => exact next_sameFuses (sameFuses_pageAccess s w secPg fun u => sameFuses_attGo u w)
  case attReport => exact next_sameFuses (sameFuses_ite (sameFuses_attReport s) (SameFuses.refl _))
  case tokenData w v => exact next_sameFuses (sameFuses_pageAccess s w secPg fun u => sameFuses_tokenPut u _ v)
  case tokenCmd w => exact next_sameFuses (sameFuses_pageAccess s w secPg fun u => sameFuses_tokenGo u w)
  case tokenDone => exact next_sameFuses (sameFuses_tokenDone s)
  case pwrokRise f straps failing => exact ⟨_, rfl, fuseStep_pwrokRise s f straps failing⟩
  case pwrokFall | railDrop => exact ⟨_, rfl, fuseStep_powerDown s rfl⟩
  case extest | highz | clamp | bypass | tapReset => exact next_sameFuses (sameFuses_tap s (sameFuses_select s _ _))
  case samplePreload => exact next_sameFuses (sameFuses_tap s ⟨rfl, rfl⟩)
  case bootStatus | tokenStatus =>
    exact next_sameFuses (sameFuses_tap s ((sameFuses_select s _ _).trans (sameFuses_onDevice _ _)))
  case tokenLoad token =>
    exact next_sameFuses (sameFuses_tap s (sameFuses_ite ((sameFuses_select s 0x11 0).trans (sameFuses_tokenSubmit _ .jtag token))
      (sameFuses_select s 0x11 0)))
  case testInstruction code =>
    have hseen := (sameFuses_select s code 0).trans (sameFuses_onDevice _ fun d => d.critSeen (0 :: ptKeys))
    exact next_sameFuses (sameFuses_tap s (sameFuses_ite (hseen.trans ((sameFuses_testWiped _ true).state _ _)) hseen))
  case debugAccess code write addr v =>
    exact next_sameFuses (sameFuses_tap s (sameFuses_ite ((sameFuses_select s code 0).trans (sameFuses_debugDo _ write _ v))
      (sameFuses_select s code 0)))
  all_goals cases hc

theorem exec_fuseStep (c : Instr) (s : State) : ∃ t, exec c s = .next t ∧ FuseStep c s.sec t.sec := by
  cases hc : touchesSecurity c with
  | true => exact exec_security_fuseStep c s hc
  | false =>
    obtain ⟨d, hd⟩ := exec_deviceOnly c s hc
    exact ⟨_, hd, (SameFuses.refl _).fuseStep c⟩

/-- The command at the front of the queue does to the fuses what `FuseStep` allows it. -/
theorem step_fuseStep {s t : State} {c : Instr} {rest : List Instr} (h : step s = .next t) (hq : s.pending = c :: rest) :
    FuseStep c s.sec t.sec := by
  obtain ⟨u, hu, hfuse⟩ := exec_fuseStep c { s with pending := rest }
  simp only [step, hq, hu, Host.Outcome.next.injEq] at h
  exact h ▸ hfuse

/-- A step idles, or does to the fuses what its command may. -/
theorem step_idle_or_fuseStep {s t : State} (h : step s = .next t) : t = s ∨ ∃ c, FuseStep c s.sec t.sec := by
  cases hq : s.pending with
  | nil =>
    simp only [step, hq, Host.Outcome.next.injEq] at h
    exact .inl h.symm
  | cons c rest => exact .inr ⟨c, step_fuseStep h hq⟩

/-- A step whose command touches no security block leaves it as it is. -/
theorem step_sec {s t : State} {c : Instr} {rest : List Instr} (h : step s = .next t) (hq : s.pending = c :: rest)
    (hc : touchesSecurity c = false) : t.sec = s.sec := by
  obtain ⟨d, hd⟩ := exec_deviceOnly c { s with pending := rest } hc
  simp only [step, hq, hd, Host.Outcome.next.injEq] at h
  rw [← h]

/-- Power lost while `b` burns: the array reads as before or with all of `b` (R455). -/
theorem step_powerLoss_fuses {s t : State} {c : Instr} {rest : List Instr} {b : Burn} (h : step s = .next t)
    (hq : s.pending = c :: rest) (hc : c = .pwrokFall ∨ c = .railDrop) (hb : s.sec.burn = some b) :
    t.sec.fuses = s.sec.fuses ∨ t.sec.fuses = b.apply s.sec.fuses := by
  have hrun : exec c { s with pending := rest } = .next (State.powerDown { s with pending := rest }) := by
    obtain rfl | rfl := hc <;> rfl
  simp only [step, hq, hrun, Host.Outcome.next.injEq] at h
  subst h
  obtain hold | ⟨b', hb', hnew⟩ := powerDown_fuses { s with pending := rest }
  · exact .inl hold
  · obtain rfl : b = b' := Option.some.inj (hb.symm.trans hb')
    exact .inr hnew

end Sys2Proof.Machine

namespace Sys2Proof
open Sys2Proof.Machine

/-- Settles O59: the front command's `FuseStep`; on an empty queue nothing changes. -/
theorem fusesOnlyGrow : Obligations.FusesOnlyGrow := by
  intro s t h
  have hgrow : FusesWithin s.sec.fuses t.sec.fuses ∧ (FuseInv s → FuseInv t) := by
    obtain rfl | ⟨c, hfuse⟩ := step_idle_or_fuseStep h
    · exact ⟨fusesWithin_refl _, id⟩
    · exact ⟨hfuse.grows, hfuse.sensed_within⟩
  exact ⟨hgrow.1, hgrow.2, fun c rest hq => (step_fuseStep h hq).kept, fun c rest hq => step_sec h hq,
    fun c rest b hq => step_powerLoss_fuses h hq⟩

end Sys2Proof
end
